-- ==== Sys2Proof/Word.lean ====
section
/-! DEFINITION. The word types of DX4 and the plain table helpers over lists.
A hank is 17 bytes with the tag at byte 0 (R34); byte b of it is bits 8b+7 to 8b, as the ports carry it (R138, R246). -/

namespace Sys2Proof

abbrev Byte := BitVec 8
abbrev W16 := BitVec 16
abbrev W32 := BitVec 32
abbrev W64 := BitVec 64
/-- A 17-byte hank: tag in bits 7 to 0, payload byte p in bits 8(p+1)+7 to 8(p+1) (R34). -/
abbrev Hank := BitVec 136

/-- Entry `i` of a table, the type's default past its end. -/
def tget {α : Type} [Inhabited α] (l : List α) (i : Nat) : α := l.getD i default

/-- The table with entry `i` replaced; unchanged past its end. -/
def tset {α : Type} (l : List α) (i : Nat) (a : α) : List α := l.set i a

/-- The table with entry `i` mapped by `f`. -/
def tmod {α : Type} [Inhabited α] (l : List α) (i : Nat) (f : α → α) : List α := l.set i (f (tget l i))

end Sys2Proof
end

