-- ==== Sys2Proof/Syntax.lean ====
section
/-! DEFINITION. The commands and events of the block: one constructor for each row of spec/opcode_table.json, in the
table's order, with the operands that the row's rule gives the step. The table gives no row a bit field, so an operand
is what crosses the port that the rule names: a transfer of CP (R344), a hank of WP or TP (R138, R246), a flit of a link
port (R218), a register offset and value (R359), a sensor reading (R415 to R417). -/

namespace Sys2Proof

/-- One transfer of CP: 32 bytes, byte b on DATA[8b+7:8b], with FIRST, LAST and PRIV (R342, R344). -/
structure Transfer where
  data : BitVec 256
  first : Bool
  last : Bool
  priv : Bool
deriving DecidableEq, Repr, Inhabited

/-- The fail-log words of one failing bit or vector; SLICE and VALID of word 0 are added by the log (R447, Table 18.12). -/
structure Failure where
  w0 : W32
  w1 : W32
deriving DecidableEq, Repr, Inhabited

/-- What a sync exchange measures (R251): the parent's STC as its sync flit bears it, and the round trip in ticks. -/
structure SyncTimes where
  parentNow : W64
  roundTrip : W32
deriving DecidableEq, Repr, Inhabited

/-- The steps of the block (spec/95, spec/opcode_table.json). A `BitVec 7` queue operand is a context number, or 64 for
the global queue (R350). -/
inductive Instr where
  | porstNReset
  | dxEnRiseStart
  | dxEnFall
  | dxEnRiseDuringAssay (fails : List Failure)
  | bightToken (token : BitVec 24)
  | cpRecordIntake (transfers : List Transfer)
  | outwardRecord
  | mgpAccess (write : Bool) (offset : BitVec 22) (data : W32)
  | loadLay
  | applySplice
  | routeStep (ctx : BitVec 6)
  | routeStepDone (ctx : BitVec 6)
  | combine (ctx : BitVec 6)
  | combineStart (ctx : BitVec 6)
  | dispatch
  | copy (ctx : BitVec 6)
  | collect (ctx : BitVec 6)
  | pieceAdmit (group : BitVec 4)
  | collectDone (ctx : BitVec 6)
  | collectDeadline (group : BitVec 4)
  | muster (ctx : BitVec 6)
  | musterArriveLocal (group : BitVec 4)
  | musterReleaseTick (group : BitVec 4)
  | musterDeadline (group : BitVec 4)
  | cancelBatch
  | saveContext (ctx : BitVec 6)
  | resume
  | regRead (queue : BitVec 7)
  | regWrite (queue : BitVec 7)
  | registerWrite (offset : BitVec 22) (data : W32)
  | dump
  | shutdown
  | calSlotDataWrite (slot : BitVec 1) (data : W32)
  | calSlotCommit (slot : BitVec 1) (data : W32)
  | xltInvalGo (data : W32)
  | ctxCreate
  | ctxDestroy
  | thmGroupOpen (group : BitVec 4) (data : W32)
  | thmGroupClose (group : BitVec 4) (data : W32)
  | abort (group : BitVec 4) (data : W32)
  | dropRest
  | talSelWrite (data : W32)
  | talStageDataWrite (data : W32)
  | talGo
  | tallyCommitDone
  | obsMarkWrite (data : W32)
  | traceEnable (data : W32)
  | traceDisable (data : W32)
  | trigger
  | arm
  | traceIdleFlush
  | mrlPcEnable (data : W32)
  | pcSample
  | paceClr
  | asyGo (data : W32)
  | asy1500Shift (data : W32)
  | linkFlitReceive (port : BitVec 6) (flit : BitVec 640)
  | nakReceive (port : BitVec 6) (crcGood : Bool) (lack : BitVec 10) (expected : BitVec 10)
  | creditReceive (port : BitVec 6) (crcGood : Bool) (lack : BitVec 10) (drained : BitVec 96)
  | linkRetryTimeout (port : BitVec 6)
  | tokenPacketReceive
  | endPacketReceive
  | homeHalfSort
  | answerPacketReceive
  | skeinReadDone
  | collectPartialReceive
  | admitReceive
  | resultReceive
  | collectVoidReceive
  | musterArriveReceive
  | musterReleaseReceive
  | musterVoidReceive
  | tandemRecordReceive
  | tandemWindowExpiry
  | stcSyncExchange (port : BitVec 6)
  | stcSyncReceive (port : BitVec 6) (crcGood : Bool) (error : SyncTimes)
  | stcrefCycle
  | wpCardAck
  | wpCompletion (hank : Hank)
  | tileHeaderArrive (hank : Hank)
  | tileReceive (hanks : List Hank)
  | memoryResponse (line : BitVec 33) (id : BitVec 8) (status : BitVec 2) (data : BitVec 2048)
  | coilGrant
  | saveStart (ctx : BitVec 6)
  | saveDone (ctx : BitVec 6)
  | restoreDone (ctx : BitVec 6)
  | autoRestore (ctx : BitVec 6)
  | unitYield
  | homedDeadline
  | watchdogLimit
  | paceWindowEnd (count : BitVec 32)
  | tempReport (tj : BitVec 8) (sensor : BitVec 4)
  | railReading (vzc vzs : BitVec 10)
  | ceilChange (ceil : BitVec 12) (valid : Bool)
  | throttleWindow
  | throttleHoldStart
  | drawPublish
  | secondEnd
  | wearMeasure (cls : BitVec 4) (array : BitVec 2) (index : BitVec 8) (wear : W16)
  | assaySliceEnd (fails : List Failure)
  | sliceBudgetExpiry (fails : List Failure)
  | assayEnd
  | porstNRelease
  | linkTrained (port : BitVec 6)
  | lossOfPower
deriving DecidableEq, Repr, Inhabited

end Sys2Proof
end

