-- ==== Sys2Proof/Decode.lean ====
section
/-! DEFINITION. The command that a word spells by the bits of the opcode table. The table gives no row any bits: its
rows are commands and events, not words. -/

namespace Sys2Proof

/-- The command of a table word: none, since no row of spec/opcode_table.json has a bit field. -/
def decodeTableWord (_nbits _w : Nat) : Option Instr := none

end Sys2Proof
end

