-- ==== Sys2Proof/Config.lean ====
section
/-! DEFINITION. The values the spec leaves open (free values): opaque constants with no body, so that no proof can see
what they are. Each is named in a row of notes/assumptions. -/

namespace Sys2Proof.Config

/-- The stepping of the part is B0 (R461); otherwise it is A1. Log 4. -/
opaque steppingIsB0 : Bool

/-- A free word that picks the result of a calcite fixed function among those that R89 admits, away from its exact points:
function code (Table 4.1) and FP32 argument. The reference table set of R88 is not in the spec. Log 7. -/
opaque calcite : Nat → W32 → W32

/-- LOG of a 25-bit u of Gumbel noise that FP32 does not represent (R113): m of u = (2m + 1) · 2^-25. Log 103. -/
opaque logU : Nat → W32

/-- RCP and RSQRT away from representable results: which of the allowed neighbours is returned (R89). Log 7. -/
opaque calciteUp : Nat → W32 → Bool

/-- A hank of a live-state item whose layout the spec does not give (R302, R307). Applied to the free-value counter. Log 8. -/
opaque saveHank : Nat → Hank

/-- Marlin's program counter at a sample (R395), whose firmware the spec does not give: applied to the free-value counter.
Log 9. -/
opaque marlinPc : Nat → BitVec 19

/-- Dynamic energy, in units of 10^-13 J, of one completed handshake of a unit at VZC 0.75 V (R419), by unit code. Log 10. -/
opaque handshake : Nat → Nat

/-- Whether RATE rounds up when the quotient of R417 lies half way. Log 32. -/
opaque paceTieUp : Nat → Bool

/-- Static draw in units of 0.1 mW at rails VZC, VZS in mV and a junction temperature in °C (R419). Log 10. -/
opaque staticDraw : Nat → Nat → Nat → Nat

/-- The bound, in beats, of a command whose descriptor or configuration has not been read yet (R423): code and SEQ of its
record. Log 10. -/
opaque unreadBound : Nat → Nat → Nat

/-- The 32 bits shifted out of the IEEE 1500 wrapper (R456): control bits, the 32 bits shifted in, free-value counter. Log 11. -/
opaque wrapperOut : Nat → Nat → Nat → W32

/-- The partner's DIGEST that N_FAULT_HARD reports for TANDEM_LOST, where no record of the partner came (R333): applied to
the free-value counter. Log 33. -/
opaque lostDigest : Nat → W64

/-- Beats between the cheap point and the first grant of a switch (R309 bounds it). Log 12. -/
opaque switchBeats : Nat → W32

/-- Which of the mismatching groups of a ROUTE_STEP an array decodes first (R79): applied to the free-value counter. Log 18. -/
opaque tagChoice : Nat → Nat

/-- The freeze stamp of a unit instance, as ticks after S (R407): applied to the freeze key and the instance. Log 13. -/
opaque freezeDelay : Nat → Nat

/-- Ticks of the save phase and of the restore phase of an assay slice (R445), by slice. Log 93. -/
opaque saveTicks : Nat → BitVec 31
opaque restoreTicks : Nat → Nat

end Sys2Proof.Config
end

