-- ==== Sys2Proof/Machine/Codes.lean ====
section
/-! DEFINITION. Command codes (Table 14.4), notice codes (Table 14.7), counters (Table 16.1) and status codes (Tables
14.8, 15.8, 16.7, 18.7): a code's value is its group base plus its position in the group's list. -/

namespace Sys2Proof.Machine

namespace Cmd
def loadLay : Nat := 0x01
def applySplice : Nat := 0x02
def routeStep : Nat := 0x10
def combine : Nat := 0x11
def dispatch : Nat := 0x12
def copy : Nat := 0x13
def collect : Nat := 0x14
def muster : Nat := 0x15
def cancelBatch : Nat := 0x16
def saveContext : Nat := 0x20
def resume : Nat := 0x21
def regRead : Nat := 0x30
def regWrite : Nat := 0x31
def dump : Nat := 0x38
def shutdown : Nat := 0x39
end Cmd

namespace Ntc
def faultSoft : Nat := 1
def faultHard : Nat := 2
def stepVoid : Nat := 3
def skeinHigh : Nat := 4
def hang : Nat := 5
def draw : Nat := 6
def assay : Nat := 7
def wear : Nat := 8
end Ntc

namespace Cnt
def cmdDone : Nat := 0
def tokens : Nat := 1
def cards : Nat := 2
def rows : Nat := 3
def linesRd : Nat := 4
def linesWr : Nat := 5
def flitsTx : Nat := 6
def saves : Nat := 7
def crush : Nat := 8
def nanKey : Nat := 9
def gateEmpty : Nat := 10
def statSpecial : Nat := 11
def halWrap : Nat := 12
def sealRetry : Nat := 13
def eccCorr : Nat := 14
def tpSpare : Nat := 15
def wpStray : Nat := 16
def tandemDiv : Nat := 17
end Cnt

namespace Code
def frameBad : Nat := 0x0101
def cmdUnknown : Nat := 0x0102
def cmdForm : Nat := 0x0103
def cmdPriv : Nat := 0x0104
def cpQuota : Nat := 0x0105
def addrUnlocked : Nat := 0x0106
def fmtUnknown : Nat := 0x0201
def fmtPair : Nat := 0x0202
def fmtTagMismatch : Nat := 0x0204
def sealBad : Nat := 0x0205
def layoutAlign : Nat := 0x0206
def layoutOverlap : Nat := 0x0207
def layoutSwizzle : Nat := 0x0208
def layoutRange : Nat := 0x0209
def layoutCfg : Nat := 0x020A
def layoutAcc : Nat := 0x020B
def layoutIndex : Nat := 0x020C
def layoutShard : Nat := 0x020D
def shapeRange : Nat := 0x020E
def routeRange : Nat := 0x0301
def routeCfg : Nat := 0x0302
def calSlotDenied : Nat := 0x0304
def calSlotEmpty : Nat := 0x0305
def cardTplBad : Nat := 0x0306
def combineCfg : Nat := 0x0307
def stepUnknown : Nat := 0x0308
def splIndex : Nat := 0x0309
def wpCardFail : Nat := 0x030A
def homeMapBad : Nat := 0x0401
def genBusy : Nat := 0x0402
def genUnknown : Nat := 0x0403
def genDone : Nat := 0x0404
def genVoid : Nat := 0x0405
def homePacket : Nat := 0x0406
def answerLen : Nat := 0x0407
def thmOversize : Nat := 0x0501
def collectCfg : Nat := 0x0502
def thmGroup : Nat := 0x0503
def stcUnlocked : Nat := 0x0504
def thmMismatch : Nat := 0x0505
def stepVoid : Nat := 0x0506
def tileBad : Nat := 0x0507
def linkDown : Nat := 0x0508
def musterMismatch : Nat := 0x0509
def xltMiss : Nat := 0x0601
def xltPerm : Nat := 0x0602
def xltEntry : Nat := 0x0603
def xltPhys : Nat := 0x0604
def xltPart : Nat := 0x0605
def memUe : Nat := 0x0606
def coilDoubleFree : Nat := 0x0607
def coilQuota : Nat := 0x0608
def ctxAbsent : Nat := 0x0701
def ctxDead : Nat := 0x0702
def notFaulted : Nat := 0x0703
def tornDown : Nat := 0x0704
def ctxSaveBad : Nat := 0x0705
def tandemCfg : Nat := 0x0706
def tandemDiverge : Nat := 0x0707
def tandemLost : Nat := 0x0708
def layNone : Nat := 0x0801
def layBusy : Nat := 0x0802
def layForm : Nat := 0x0803
def laySeal : Nat := 0x0804
def layKey : Nat := 0x0805
def laySig : Nat := 0x0806
def laySection : Nat := 0x0807
def layGrade : Nat := 0x0808
def spliceBase : Nat := 0x0809
def spliceTarget : Nat := 0x080A
def spliceDup : Nat := 0x080B
def spliceConflict : Nat := 0x080C
def spliceState : Nat := 0x080D
def talBusy : Nat := 0x080E
def talBudget : Nat := 0x080F
def talState : Nat := 0x0810
def talForm : Nat := 0x0811
def talPrecond : Nat := 0x0812
def obsNotHung : Nat := 0x0901
def obsNoArea : Nat := 0x0902
def obsHalted : Nat := 0x0903
def shutting : Nat := 0x0904
def asyState : Nat := 0x0905
def asyBusy : Nat := 0x0906
def asyHeld : Nat := 0x0907
def asyPartial : Nat := 0x0908
def asyNoBudget : Nat := 0x0909
def asyUnrepaired : Nat := 0x090A
end Code

end Sys2Proof.Machine
end

