-- ==== Sys2Proof/Machine/Bits.lean ====
section
/-! DEFINITION. Bit fields, byte orders, integer division up, and the two cyclic codes of the spec (R38, R219). -/

namespace Sys2Proof.Machine

/-- Bits [hi:lo] of a number (R3). -/
def bits (x : Nat) (hi lo : Nat) : Nat := (x >>> lo) % 2 ^ (hi + 1 - lo)

/-- Bit `i` of a number. -/
def bit (x i : Nat) : Bool := x.testBit i

/-- 1 for true, 0 for false: a flag as a field of a word. -/
def b2n (b : Bool) : Nat := if b then 1 else 0

/-- A value placed in bits [hi:lo], cut to the field. -/
def fld (hi lo v : Nat) : Nat := (v % 2 ^ (hi + 1 - lo)) <<< lo

/-- ⌈a / b⌉, with ⌈a / 0⌉ taken as 0. -/
def cdiv (a b : Nat) : Nat := (a + b - 1) / b

/-- Floor of log2; 0 for 0. -/
def flog2 (n : Nat) : Nat := Nat.log2 n

/-- A number written as `n` bytes, low byte first (R4). -/
def leBytes : Nat → Nat → List Byte
  | 0, _ => []
  | n + 1, x => BitVec.ofNat 8 x :: leBytes n (x / 256)

/-- The number whose bytes, low byte first, are given (R4). -/
def ofLe : List Byte → Nat
  | [] => 0
  | b :: bs => b.toNat + 256 * ofLe bs

/-- One byte into the CRC-8 of a line: bits enter most significant first (R38). -/
def crc8Step (c0 : Nat) (b : Byte) : Nat :=
  (List.range 8).foldl (fun c _ => if c.testBit 7 then (c * 2) % 256 ^^^ 0x2F else (c * 2) % 256)
    (c0 ^^^ b.toNat)

/-- The seal: CRC-8, polynomial 0x2F, initial value 0xFF, no reflection, no final XOR (R38). -/
def crc8 (bs : List Byte) : Byte := BitVec.ofNat 8 (bs.foldl crc8Step 0xFF)

/-- One byte into the reflected CRC-32 of IEEE 802.3 (R219). -/
def crc32Step (c : Nat) (b : Byte) : Nat :=
  (List.range 8).foldl (fun c _ => if c.testBit 0 then (c / 2) ^^^ 0xEDB88320 else c / 2) (c ^^^ b.toNat)

/-- CRC-32 of IEEE 802.3: polynomial 0x04C1_1DB7, initial and final XOR all ones, reflected (R219). -/
def crc32 (bs : List Byte) : Nat := (bs.foldl crc32Step 0xFFFFFFFF) ^^^ 0xFFFFFFFF

/-! ### Hanks -/

/-- The tag, byte 0 of a hank (R34). -/
def hTag (h : Hank) : Nat := h.toNat % 256

/-- The 128-bit payload of a hank (R34). -/
def hPay (h : Hank) : Nat := h.toNat / 256

/-- A hank from its tag and payload. -/
def mkHank (tag payload : Nat) : Hank := BitVec.ofNat 136 (tag % 256 + 256 * payload)

/-- Word e of an I32 hank: payload bytes 4e to 4e+3, low byte first (R53). -/
def hW (h : Hank) (e : Nat) : Nat := (hPay h >>> (32 * e)) % 2 ^ 32

/-- Element i of a U16 hank (R53). -/
def hU16 (h : Hank) (i : Nat) : Nat := (hPay h >>> (16 * i)) % 2 ^ 16

/-- The 17 bytes of a hank in ascending order (R34). -/
def hBytes (h : Hank) : List Byte := leBytes 17 h.toNat

/-- The hank with the given 17 bytes (R34). -/
def hOfBytes (bs : List Byte) : Hank := BitVec.ofNat 136 (ofLe bs)

/-- The tag written on every I32, U16, unscaled BF16 and FP32 hank (R36, R58, R62). -/
def tag7F : Nat := 0x7F

/-- An I32 hank of up to four words with the tag 0x7F (R58). -/
def i32Hank (ws : List Nat) : Hank :=
  mkHank tag7F (((ws ++ [0, 0, 0, 0]).take 4).foldr (fun w acc => w % 2 ^ 32 + 2 ^ 32 * acc) 0)

/-- A U16 hank of up to eight elements with the tag 0x7F (R58). -/
def u16Hank (ws : List Nat) : Hank :=
  mkHank tag7F (((ws ++ List.replicate 8 0).take 8).foldr (fun w acc => w % 2 ^ 16 + 2 ^ 16 * acc) 0)

/-- A list cut into consecutive chunks of `n`; fuel is the list's length. -/
def chunksF {α : Type} (n : Nat) : Nat → List α → List (List α)
  | 0, _ => []
  | _ + 1, [] => []
  | k + 1, l => l.take n :: chunksF n k (l.drop n)

/-- A list cut into consecutive chunks of `n`, the last one shorter. -/
def chunks {α : Type} (n : Nat) (l : List α) : List (List α) := chunksF n l.length l

/-- I32 words packed four a hank, the last hank filled with zeros. -/
def i32Hanks (ws : List Nat) : List Hank := (chunks 4 ws).map i32Hank

/-- U16 elements packed eight a hank, the last hank filled with zeros. -/
def u16Hanks (ws : List Nat) : List Hank := (chunks 8 ws).map u16Hank

/-- Word w of a record of I32 hanks: hank ⌊w/4⌋, element w mod 4 (R107, R135, R149). -/
def recW (hs : List Hank) (w : Nat) : Nat := hW (hs.getD (w / 4) 0) (w % 4)

/-- A 44-bit address held in word w and bits [11:0] of word w+1. -/
def recAddr (hs : List Hank) (w : Nat) : Nat := recW hs w + 2 ^ 32 * (recW hs (w + 1) % 2 ^ 12)

/-- A 32-bit word read as a signed number (R49). -/
def s32 (x : Nat) : Int := if x % 2 ^ 32 < 2 ^ 31 then (x % 2 ^ 32 : Nat) else (x % 2 ^ 32 : Nat) - (2 ^ 32 : Nat)

/-- A signed number as a 32-bit word, modulo 2^32. -/
def ofInt32 (x : Int) : Nat := (x % (2 ^ 32 : Nat)).toNat

/-- 32-bit addition modulo 2^32. -/
def add32 (a b : Nat) : Nat := (a + b) % 2 ^ 32

/-- 32-bit rotation left. -/
def rotl32 (x n : Nat) : Nat := ((x <<< n) ||| ((x % 2 ^ 32) >>> (32 - n))) % 2 ^ 32

/-- Strictly ascending. -/
def ascending : List Nat → Bool
  | a :: b :: rest => a < b && ascending (b :: rest)
  | _ => true

end Sys2Proof.Machine
end

