-- ==== Sys2Proof/Machine/Fp.lean ====
section
/-! DEFINITION. Exact values, the single rounding of R78, and the binary32 operations of R85. A finite value is
±m · 2^e with m a natural number, so that every product and sum is exact until it is rounded. -/

namespace Sys2Proof.Machine

/-- An exact value: NaN, an infinity, or ±m · 2^e (m = 0 is a zero of the sign). -/
inductive Val where
  | nan
  | inf (neg : Bool)
  | fin (neg : Bool) (m : Nat) (e : Int)
  deriving DecidableEq, Repr, Inhabited

/-- x · 2^k rounded down for negative k. -/
def shl (m : Nat) (k : Int) : Nat := if k ≥ 0 then m <<< k.toNat else m >>> (-k).toNat

/-- m · 2^k rounded to nearest, ties to even. -/
def shlRne (m : Nat) (k : Int) : Nat :=
  if k ≥ 0 then m <<< k.toNat
  else
    let j := (-k).toNat
    let n := m >>> j
    let r := m % 2 ^ j
    let half := 2 ^ (j - 1)
    if r > half ∨ (r = half ∧ n % 2 = 1) then n + 1 else n

/-- Magnitude encoding of m · 2^e (m ≠ 0) in a format of M mantissa bits and the given bias, rounded to nearest with
ties to even, subnormals kept, with no upper limit on the exponent: the carry out of the mantissa moves into it. -/
def encMag (M bias : Nat) (m : Nat) (e : Int) : Nat :=
  let emin : Int := 1 - bias
  let ex : Int := max ((flog2 m : Int) + e) emin
  (ex - emin).toNat * 2 ^ M + shlRne m (e - (ex - M))

/-- Encoding of ±m · 2^e in a format of E exponent and M mantissa bits, rounded once (R78, round_rne). Magnitude
encodings rise with the magnitude, so a result at or past `top` (an infinity, or the largest finite code where the
format saturates) is `top`. -/
def roundEnc (E M bias top : Nat) (neg : Bool) (m : Nat) (e : Int) : Nat :=
  (if neg then 2 ^ (E + M) else 0) + (if m = 0 then 0 else min (encMag M bias m e) top)

/-- FP32 bits of an exact value (R78); every NaN is the canonical NaN (R51). -/
def toF32 : Val → Nat
  | .nan => 0x7FC00000
  | .inf neg => if neg then 0xFF800000 else 0x7F800000
  | .fin neg m e => roundEnc 8 23 127 0x7F800000 neg m e

/-- BF16 bits of an exact value (R62, R78). -/
def toBf16 : Val → Nat
  | .nan => 0x7FC0
  | .inf neg => if neg then 0xFF80 else 0x7F80
  | .fin neg m e => roundEnc 8 7 127 0x7F80 neg m e

/-- The value of FP32 bits. -/
def ofF32 (x : Nat) : Val :=
  let neg := x.testBit 31
  let e := bits x 30 23
  let m := bits x 22 0
  if e = 255 then (if m = 0 then .inf neg else .nan)
  else if e = 0 then .fin neg m (-149)
  else .fin neg (2 ^ 23 + m) ((e : Int) - 150)

def f32NaN : Nat := 0x7FC00000
def f32One : Nat := 0x3F800000
def f32PInf : Nat := 0x7F800000
def f32NInf : Nat := 0xFF800000

def isNaN32 (x : Nat) : Bool := bits x 30 23 == 255 && bits x 22 0 != 0
def isInf32 (x : Nat) : Bool := bits x 30 23 == 255 && bits x 22 0 == 0
def isFinite32 (x : Nat) : Bool := bits x 30 23 != 255
def isZero32 (x : Nat) : Bool := x % 2 ^ 31 == 0
def neg32 (x : Nat) : Nat := x ^^^ 2 ^ 31
/-- Any NaN becomes the canonical NaN (R51). -/
def canon32 (x : Nat) : Nat := if isNaN32 x then f32NaN else x

/-- The signed mantissa of a finite value scaled to exponent `e0`, which is at most its own. -/
def scaled (neg : Bool) (m : Nat) (e e0 : Int) : Int :=
  let n : Int := (m <<< (e - e0).toNat : Nat)
  if neg then -n else n

/-- Exact sum of two finite values; a zero sum is −0 only when both are −0 (IEEE 754). -/
def addFin (n1 : Bool) (m1 : Nat) (e1 : Int) (n2 : Bool) (m2 : Nat) (e2 : Int) : Val :=
  let e0 := min e1 e2
  let t := scaled n1 m1 e1 e0 + scaled n2 m2 e2 e0
  if t = 0 then .fin (n1 && n2 && m1 == 0 && m2 == 0) 0 0
  else .fin (t < 0) t.natAbs e0

/-- Exact sum with the special values of IEEE 754. -/
def addVal : Val → Val → Val
  | .nan, _ => .nan
  | _, .nan => .nan
  | .inf a, .inf b => if a = b then .inf a else .nan
  | .inf a, _ => .inf a
  | _, .inf b => .inf b
  | .fin n1 m1 e1, .fin n2 m2 e2 => addFin n1 m1 e1 n2 m2 e2

/-- Exact product with the special values of IEEE 754 (R77). -/
def mulVal : Val → Val → Val
  | .nan, _ => .nan
  | _, .nan => .nan
  | .inf a, .inf b => .inf (a != b)
  | .inf a, .fin n m _ => if m = 0 then .nan else .inf (a != n)
  | .fin n m _, .inf b => if m = 0 then .nan else .inf (n != b)
  | .fin n1 m1 e1, .fin n2 m2 e2 => .fin (n1 != n2) (m1 * m2) (e1 + e2)

/-- One binary32 addition (R85). -/
def fadd (a b : Nat) : Nat := toF32 (addVal (ofF32 a) (ofF32 b))
/-- One binary32 subtraction (R85). -/
def fsub (a b : Nat) : Nat := toF32 (addVal (ofF32 a) (ofF32 (neg32 b)))
/-- One binary32 multiplication (R85). -/
def fmul (a b : Nat) : Nat := toF32 (mulVal (ofF32 a) (ofF32 b))

/-- a < b in binary32; false when either is NaN. -/
def fltVal : Val → Val → Bool
  | .nan, _ => false
  | _, .nan => false
  | .inf a, .inf b => a && !b
  | .inf a, .fin _ _ _ => a
  | .fin _ _ _, .inf b => !b
  | .fin n1 m1 e1, .fin n2 m2 e2 =>
    let e0 := min e1 e2
    decide (scaled n1 m1 e1 e0 < scaled n2 m2 e2 e0)

def flt (a b : Nat) : Bool := fltVal (ofF32 a) (ofF32 b)
/-- Equal in binary32: −0 equals +0, NaN equals nothing. -/
def feq (a b : Nat) : Bool := !isNaN32 a && !isNaN32 b && !flt a b && !flt b a

/-- MAX of R85: a NaN operand is ignored unless both are NaN; MAX(+0, −0) is +0. -/
def fmax (a b : Nat) : Nat :=
  if isNaN32 a then canon32 b
  else if isNaN32 b then a
  else if flt a b then b
  else if flt b a then a
  else if isZero32 a then (if a.testBit 31 then b else a) else a

/-- MIN of R85: a NaN operand is ignored unless both are NaN; MIN(+0, −0) is −0. -/
def fmin (a b : Nat) : Nat :=
  if isNaN32 a then canon32 b
  else if isNaN32 b then a
  else if flt a b then a
  else if flt b a then b
  else if isZero32 a then (if a.testBit 31 then a else b) else a

/-- An integer as FP32, rounded once. -/
def f32OfNat (n : Nat) : Nat := toF32 (.fin false n 0)

/-- One level of the pairwise tree: element 2j with element 2j+1, an odd last one passed up (R80 step 5). -/
def treeLevel {α : Type} (f : α → α → α) : List α → List α
  | a :: b :: l => f a b :: treeLevel f l
  | l => l

/-- The pairwise tree, level by level; `fuel` at least the number of elements. -/
def treeFold {α : Type} (f : α → α → α) : Nat → List α → List α
  | 0, l => l
  | _ + 1, [] => []
  | _ + 1, [a] => [a]
  | k + 1, l => treeFold f k (treeLevel f l)

/-- Sum of a row in the pairwise tree of R80 step 5 with each addition under R85 (R86); +0 for no terms (R105). -/
def treeSum (l : List Nat) : Nat := ((treeFold fadd l.length l).head?).getD 0

/-- An addition of the fallback tree: every exact-zero sum is +0 (R81). DEDUCED: also (−0) + (−0). Log 14. -/
def faddTree (a b : Nat) : Nat :=
  let r := fadd a b
  if isZero32 r && isZero32 a && isZero32 b then 0 else r

end Sys2Proof.Machine
end

