-- ==== Sys2Proof/Machine/Format.lean ====
section
/-! DEFINITION. The formats of Table 2.1 and Table 2.2: packing of elements in hank groups (R53 to R55), decoding (R48 to
R52), the tag rules (R56, R58) and quantisation (R59 to R62). -/

namespace Sys2Proof.Machine

/-- The ten formats of Table 2.1. -/
inductive Fmt where
  | e4m3 | e5m2 | e3m2 | e2m3 | e2m1 | zf8 | bf16 | fp32 | i32 | u16
  deriving DecidableEq, Repr, Inhabited

/-- Format codes of Table 2.1; 0xA to 0xF are reserved (R45). -/
def fmtOfCode : Nat → Option Fmt
  | 0 => some .e4m3 | 1 => some .e5m2 | 2 => some .e3m2 | 3 => some .e2m3 | 4 => some .e2m1
  | 5 => some .zf8 | 6 => some .bf16 | 7 => some .fp32 | 8 => some .i32 | 9 => some .u16
  | _ => none

/-- Hanks in a hank group, the access width of the format (Table 2.1). -/
def fmtHg : Fmt → Nat
  | .e4m3 | .e5m2 => 2
  | .e3m2 | .e2m3 => 3
  | _ => 1

/-- Elements in a hank group (chapter 9). -/
def fmtGe : Fmt → Nat
  | .e4m3 | .e5m2 | .e2m1 => 32
  | .e3m2 | .e2m3 => 64
  | .zf8 => 16
  | .bf16 | .u16 => 8
  | .fp32 | .i32 => 4

/-- Elements of one scale block, for the formats that DX4 quantises into (Table 2.1). -/
def fmtBlock : Fmt → Nat
  | .zf8 => 16
  | _ => 32

def fmtIsInt : Fmt → Bool
  | .i32 | .u16 => true
  | _ => false

/-- Formats that the exact path takes (Table 3.1). -/
def fmtIsExact : Fmt → Bool
  | .e4m3 | .e5m2 | .e3m2 | .e2m3 | .e2m1 | .zf8 => true
  | _ => false

/-- Hanks that `n` elements of a row occupy, padded to whole groups (R47, R168). -/
def rowHanks (f : Fmt) (n : Nat) : Nat := cdiv n (fmtGe f) * fmtHg f

/-- Exponent bits, mantissa bits, bias, and largest finite code of Table 2.2. -/
structure FmtPar where
  e : Nat
  m : Nat
  bias : Nat
  top : Nat
  emax : Int
  deriving DecidableEq, Repr, Inhabited

def fmtPar : Fmt → FmtPar
  | .e4m3 => ⟨4, 3, 7, 0x7E, 8⟩
  | .e5m2 => ⟨5, 2, 15, 0x7B, 15⟩
  | .e3m2 => ⟨3, 2, 3, 0x1F, 4⟩
  | .e2m3 => ⟨2, 3, 1, 0x1F, 2⟩
  | .e2m1 => ⟨2, 1, 1, 0x7, 2⟩
  | .zf8 => ⟨4, 3, 7, 0x7F, 8⟩
  | .bf16 => ⟨8, 7, 127, 0x7F7F, 127⟩
  | _ => ⟨8, 23, 127, 0x7F7FFFFF, 127⟩

/-- NaN encodings of Table 2.2. -/
def isNanCode (f : Fmt) (code : Nat) : Bool :=
  match f with
  | .e4m3 => code == 0x7F || code == 0xFF
  | .e5m2 => bits code 6 2 == 31 && bits code 1 0 != 0
  | .zf8 => code == 0x80
  | .bf16 => bits code 14 7 == 255 && bits code 6 0 != 0
  | .fp32 => isNaN32 code
  | _ => false

/-- Infinity encodings of Table 2.2. -/
def isInfCode (f : Fmt) (code : Nat) : Bool :=
  match f with
  | .e5m2 => bits code 6 0 == 0x7C
  | .bf16 => bits code 14 0 == 0x7F80
  | .fp32 => isInf32 code
  | _ => false

/-- One floating-point element decoded to an exact value (R48, R50). -/
def decodeEl (f : Fmt) (tag code : Nat) : Val :=
  if tag = 0xFF then .nan
  else if isNanCode f code then .nan
  else
    let p := fmtPar f
    let s := code.testBit (p.e + p.m)
    if isInfCode f code then .inf s
    else
      let e := (code >>> p.m) % 2 ^ p.e
      let m := code % 2 ^ p.m
      let sc : Int := (tag : Int) - 127
      if e = 0 then
        if m = 0 ∧ f = .zf8 then .fin false 0 0
        else .fin s m (1 - p.bias - p.m + sc)
      else .fin s (2 ^ p.m + m) ((e : Int) - p.bias - p.m + sc)

/-- The 384-bit (or shorter) string of a group's payloads joined, hank 0 lowest (R55). -/
def joinPay (hs : List Hank) : Nat := hs.foldr (fun h acc => hPay h + 2 ^ 128 * acc) 0

/-- Bits of one element as stored in a group (R53 to R55). -/
def elBits : Fmt → Nat
  | .e4m3 | .e5m2 | .zf8 => 8
  | .e3m2 | .e2m3 => 6
  | .e2m1 => 4
  | .bf16 | .u16 => 16
  | .fp32 | .i32 => 32

/-- The raw codes of a group's elements in ascending index: every packing of R53 to R55 is the little-endian split of the
joined payload into fields of the element's width. -/
def groupCodes (f : Fmt) (hs : List Hank) : List Nat :=
  let p := joinPay hs
  (List.range (fmtGe f)).map fun i => (p >>> (elBits f * i)) % 2 ^ elBits f

/-- The tag that governs element i of a group (R36, R55). -/
def govTag (f : Fmt) (hs : List Hank) (i : Nat) : Nat :=
  match f with
  | .e3m2 | .e2m3 => hTag (hs.getD (if i < 32 then 0 else 1) 0)
  | _ => hTag (hs.getD 0 0)

/-- A group that breaks the tag rules (R56). -/
def tagBad (f : Fmt) (hs : List Hank) : Bool :=
  match f with
  | .e4m3 | .e5m2 => hTag (hs.getD 0 0) != hTag (hs.getD 1 0)
  | .e3m2 | .e2m3 => hTag (hs.getD 2 0) != tag7F
  | _ => false

/-- The exact values of a group's elements. -/
def groupVals (f : Fmt) (hs : List Hank) : List Val :=
  let p := joinPay hs
  (List.range (fmtGe f)).map fun i => decodeEl f (govTag f hs i) ((p >>> (elBits f * i)) % 2 ^ elBits f)

/-- The elements of a group as FP32 bits, each rounded once (R52). -/
def groupF32 (f : Fmt) (hs : List Hank) : List Nat := (groupVals f hs).map toF32

/-! ### Quantisation -/

/-- Tag, codes and number of crushed elements of one block of FP32 inputs (R59 to R61). -/
structure QBlock where
  tag : Nat
  codes : List Nat
  crushed : Nat
  deriving DecidableEq, Repr, Inhabited

/-- Exponent of the largest magnitude of the inputs; none when every input is zero. -/
def amaxLog (xs : List Nat) : Option Int :=
  xs.foldl (fun acc x =>
    match ofF32 x with
    | .fin _ m e =>
      if m = 0 then acc
      else
        let l : Int := (flog2 m : Int) + e
        match acc with
        | none => some l
        | some a => some (max a l)
    | _ => acc) none

/-- The code of one FP32 input divided by 2^x (R59 step 4, R60). -/
def quantEl (f : Fmt) (xs : Int) (x : Nat) : Nat :=
  let p := fmtPar f
  match ofF32 x with
  | .fin neg m e =>
    let mag := if m = 0 then 0 else min (encMag p.m p.bias m (e - xs)) p.top
    let sgn := if neg ∧ ¬ (f = .zf8 ∧ mag = 0) then 2 ^ (p.e + p.m) else 0
    sgn + mag
  | _ => 0

/-- A code whose magnitude is zero. -/
def codeIsZero (f : Fmt) (code : Nat) : Bool := code % 2 ^ ((fmtPar f).e + (fmtPar f).m) == 0

/-- One block quantised (R59 to R61). -/
def quantBlock (f : Fmt) (xs : List Nat) : QBlock :=
  if xs.any fun x => !isFinite32 x then { tag := 0xFF, codes := [], crushed := 0 }
  else
    match amaxLog xs with
    | none => { tag := 0, codes := [], crushed := 0 }
    | some l =>
      let X := max (-127) (min 127 (l - (fmtPar f).emax))
      let cs := xs.map (quantEl f X)
      { tag := (X + 127).toNat, codes := cs,
        crushed := ((xs.zip cs).filter fun xc => !isZero32 xc.1 && codeIsZero f xc.2).length }

/-- Codes packed little-endian at the element width (R53 to R55). -/
def packCodes (w : Nat) (cs : List Nat) : Nat := cs.foldr (fun c acc => c % 2 ^ w + 2 ^ w * acc) 0

/-- An FP32 value rounded to BF16 (R62). -/
def f32ToBf16 (x : Nat) : Nat := toBf16 (ofF32 x)

/-- One hank group of a format written from up to Ge FP32 values, the rest padding (R47, R59, R62); with the number of
crushed elements. -/
def encodeGroup (f : Fmt) (xs : List Nat) : List Hank × Nat :=
  match f with
  | .e4m3 | .e5m2 =>
    let q := quantBlock f xs
    let p := packCodes 8 q.codes
    ([mkHank q.tag (p % 2 ^ 128), mkHank q.tag (p / 2 ^ 128)], q.crushed)
  | .e3m2 | .e2m3 =>
    let qa := quantBlock f (xs.take 32)
    let qb := quantBlock f (xs.drop 32)
    let p := packCodes 6 qa.codes + 2 ^ 192 * packCodes 6 qb.codes
    ([mkHank qa.tag (p % 2 ^ 128), mkHank qb.tag ((p / 2 ^ 128) % 2 ^ 128), mkHank tag7F (p / 2 ^ 256)],
      qa.crushed + qb.crushed)
  | .e2m1 => let q := quantBlock f xs; ([mkHank q.tag (packCodes 4 q.codes)], q.crushed)
  | .zf8 => let q := quantBlock f xs; ([mkHank q.tag (packCodes 8 q.codes)], q.crushed)
  | .bf16 => ([mkHank tag7F (packCodes 16 (xs.map f32ToBf16))], 0)
  | .fp32 => ([mkHank tag7F (packCodes 32 xs)], 0)
  | .i32 => ([mkHank tag7F (packCodes 32 xs)], 0)
  | .u16 => ([mkHank tag7F (packCodes 16 xs)], 0)

/-- A row of FP32 values written in a format, group by group; with the number of crushed elements (R156). -/
def encodeRow (f : Fmt) (xs : List Nat) : List Hank × Nat :=
  let gs := (chunks (fmtGe f) xs).map (encodeGroup f)
  ((gs.map Prod.fst).flatten, (gs.map Prod.snd).sum)

end Sys2Proof.Machine
end

