-- ==== Sys2Proof/Machine/Real.lean ====
section
/-! DEFINITION. The exact values that the error bounds of R89 refer to, each to far more bits than a bound can tell apart, and the
FP32 results that a bound admits (spec/04 Tables 4.1, 4.2). A real is m · 2^e or, in fixed point, an integer in units of 2^-P. -/

namespace Sys2Proof.Machine

/-! ### Fixed point -/

/-- Bits of fraction. -/
def fixP : Nat := 320

/-- A product and a quotient in fixed point. -/
def fixMul (a c : Int) : Int := a * c / 2 ^ fixP
def fixDiv (a c : Int) : Int := a * 2 ^ fixP / c

/-- m · 2^e in fixed point. -/
def toFix (neg : Bool) (m : Nat) (e : Int) : Int :=
  let v : Int := (shl m (e + fixP) : Nat)
  if neg then -v else v

def fixOne : Int := 2 ^ fixP

/-- Terms of a series that the bits of fraction call for. -/
def seriesTerms : Nat := 260

/-- 2 · atanh(z) for |z| ≤ 1/3: 2 · (z + z³/3 + z⁵/5 + …). -/
def atanhSum (z zz : Int) : Nat → Int → Int
  | 0, acc => 2 * acc
  | n + 1, acc => atanhSum (fixMul z zz) zz n (acc + z / (2 * (seriesTerms - (n + 1)) + 1))

/-- ln f for f in [1, 2]. -/
def lnFix (f : Int) : Int :=
  let z := fixDiv (f - fixOne) (f + fixOne)
  atanhSum z (fixMul z z) seriesTerms 0

def ln2 : Int := lnFix (2 * fixOne)

/-- e^r for |r| ≤ 1: 1 + r + r²/2! + …. -/
def expSum (r t : Int) : Nat → Int → Int
  | 0, acc => acc
  | n + 1, acc => expSum r (fixMul t r / ((seriesTerms - n : Nat) : Int)) n (acc + t)

/-- e^x as a mantissa in fixed point and a power of two; past ±2,000 the value is that at ±2,000, which no FP32 bound tells
apart. -/
def expFix (x : Int) : Nat × Int :=
  let x := max (-2000 * fixOne) (min (2000 * fixOne) x)
  let k := x / ln2
  ((expSum (x - k * ln2) fixOne seriesTerms 0).toNat, k - fixP)

/-- arctan(1/n): 1/n − 1/(3·n³) + …. -/
def atanInv (n : Nat) (t : Int) : Nat → Int → Int
  | 0, acc => acc
  | k + 1, acc => atanInv n (-(t / ((n * n : Nat) : Int))) k (acc + t / (2 * (seriesTerms - (k + 1)) + 1))

/-- π: 16 · arctan(1/5) − 4 · arctan(1/239). -/
def piFix : Int := 16 * atanInv 5 (fixOne / 5) seriesTerms 0 - 4 * atanInv 239 (fixOne / 239) seriesTerms 0

/-- Terms of the series of Φ that the bits of fraction call for at |x| = 16, where the terms grow up to the 128th. -/
def phiTerms : Nat := 560

/-- x + x³/3 + x⁵/(3·5) + …. -/
def phiSum (xx t : Int) : Nat → Int → Int
  | 0, acc => acc
  | n + 1, acc => phiSum xx (fixMul t xx / (2 * (phiTerms - (n + 1)) + 3)) n (acc + t)

/-! ### The functions (Table 4.1) -/

/-- e^x, x = ±m · 2^e. -/
def expVal (neg : Bool) (m : Nat) (e : Int) : Nat × Int := expFix (toFix neg m e)

/-- ln of m · 2^e, m not 0, with its sign. -/
def lnVal (m : Nat) (e : Int) : Bool × Nat × Int :=
  let l := flog2 m
  let v := lnFix (toFix false m (-(l : Int))) + (e + l) * ln2
  (v < 0, v.natAbs, -(fixP : Int))

/-- A value below 2^P in fixed point. -/
def fixOf (v : Nat × Int) : Int := (shl v.1 (v.2 + fixP) : Nat)

/-- The greatest value below 1: a true value below 1 that rounds up to it has the ulp of the binade below. -/
def below1 (v : Int) : Nat := (min v (fixOne - 1)).toNat

/-- 1/(1+e^−x). -/
def sigVal (neg : Bool) (m : Nat) (e : Int) : Nat × Int :=
  let t := expVal true m e
  let den := (fixOne + fixOf t).toNat
  if neg then (t.1 * 2 ^ fixP / den, t.2) else (below1 (fixOne * fixOne / den), -(fixP : Int))

/-- tanh x for x > 0. -/
def tanhVal (m : Nat) (e : Int) : Nat × Int :=
  let t := fixOf (expVal true m (e + 1))
  (below1 (fixDiv (fixOne - t) (fixOne + t)), -(fixP : Int))

/-- Φ(x): ½ + φ(x) · (x + x³/3 + …) for |x| ≤ 16, beyond which |x|·(1 − Φ(|x|)) is smaller than every bound. -/
def phiFix (neg : Bool) (m : Nat) (e : Int) : Int :=
  let x := toFix neg m e
  if 16 * fixOne < x then fixOne - 1
  else if x < -16 * fixOne then 0
  else
    let xx := fixMul x x
    let dens := fixMul (fixOf (expFix (-(xx / 2)))) (fixDiv fixOne ((Nat.sqrt (2 * piFix * fixOne).toNat : Nat) : Int))
    fixOne / 2 + fixMul dens (phiSum xx x phiTerms 0)

/-- |x · Φ(x)|. -/
def geluVal (neg : Bool) (m : Nat) (e : Int) : Nat × Int := (m * (phiFix neg m e).toNat, e - fixP)

/-! ### Results within a bound (R89) -/

/-- The encoding of the greatest FP32 magnitude up to n · 2^e. -/
def magDown (n : Nat) (e : Int) : Nat :=
  if n = 0 then 0
  else
    let ex := max ((flog2 n : Int) + e) (-126)
    (ex + 126).toNat * 2 ^ 23 + shl n (e - (ex - 23))

/-- The encoding of the least FP32 magnitude from n · 2^e on. -/
def magUp (n : Nat) (e : Int) : Nat :=
  if n = 0 then 0
  else
    let ex := max ((flog2 n : Int) + e) (-126)
    let k := e - (ex - 23)
    (ex + 126).toNat * 2 ^ 23 + shl n k + (if k < 0 && n % 2 ^ (-k).toNat != 0 then 1 else 0)

/-- The FP32 numbers on one line: the magnitude's encoding with the sign of the number. -/
def lineDown (z : Int) (e : Int) : Int := if 0 ≤ z then (magDown z.toNat e : Nat) else -((magUp (-z).toNat e : Nat) : Int)
def lineUp (z : Int) (e : Int) : Int := if 0 ≤ z then (magUp z.toNat e : Nat) else -((magDown (-z).toNat e : Nat) : Int)

/-- The finite FP32 numbers within d · 2^de of n · 2^e, as the ends of a range of the line. -/
def withinOf (n : Nat) (e : Int) (d : Nat) (de : Int) : Int × Int :=
  let c := min e de
  let v : Int := (shl n (e - c) : Nat)
  let w : Int := (shl d (de - c) : Nat)
  (max (-0x7F7FFFFF) (lineUp (v - w) c), min 0x7F7FFFFF (lineDown (v + w) c))

/-- ulp of n · 2^e as a power of two (R89). -/
def ulpExp (n : Nat) (e : Int) : Int := max ((flog2 n : Int) + e) (-126) - 23

/-- The number of a range that a free word picks; where it is zero, the word also picks its sign. -/
def pickOf (r : Int × Int) (free : Nat) : Nat :=
  let z := r.1 + (free % (r.2 - r.1 + 1).toNat : Nat)
  if z = 0 then free / 2 ^ 31 * 2 ^ 31 else if 0 < z then z.toNat else 2 ^ 31 + z.natAbs

/-- A result within `k` ULP of n · 2^e (R89). -/
def withinUlp (k : Nat) (v : Nat × Int) (free : Nat) : Nat := pickOf (withinOf v.1 v.2 k (ulpExp v.1 v.2)) free

end Sys2Proof.Machine
end

