-- ==== Sys2Proof/Machine/Calcite.lean ====
section
/-! DEFINITION. The calcite functions (R87 to R90), loadable slots (R93), the gating arithmetic (R98 to R100) and the row
statistics (R102 to R104). FP32 values are their bit patterns as numbers. -/

namespace Sys2Proof.Machine

/-! ### Fixed functions -/

/-- Floor of the square root. -/
def isqrt (n : Nat) : Nat := Nat.sqrt n

/-- Sign of f(x)² · x compared to 1 for a rational y = ym · 2^ye ≥ 0 against 1/√(m · 2^e): true when y ≥ 1/√x. -/
def geRsqrt (ym : Nat) (ye : Int) (m : Nat) (e : Int) : Bool :=
  -- y² · x ≥ 1
  let k := 2 * ye + e
  if k ≥ 0 then decide (1 ≤ ym * ym * m * 2 ^ k.toNat) else decide (2 ^ (-k).toNat ≤ ym * ym * m)

/-- Magnitude encoding of 1/(m·2^e) rounded toward zero, and whether it is exact (m ≠ 0). -/
def rcpDown (m : Nat) (e : Int) : Nat × Bool :=
  let pow2 := 2 ^ flog2 m == m
  let exv : Int := -(flog2 m : Int) - (if pow2 then 0 else 1) - e
  let ex := max exv (-126)
  let k := (-e - (ex - 23)).toNat
  let n := 2 ^ k / m
  ((ex + 126).toNat * 2 ^ 23 + n, n * m == 2 ^ k)

/-- RCP of a finite nonzero argument: exact where representable, otherwise one of the two neighbours, and the infinity
of the sign past the largest finite value (R89). Which neighbour is a free value. -/
def rcpFin (x : Nat) (neg : Bool) (m : Nat) (e : Int) : Nat :=
  let sgn := if neg then 2 ^ 31 else 0
  let d := rcpDown m e
  if d.1 ≥ 0x7F800000 ∨ (d.1 = 0x7F7FFFFF ∧ d.2 = false) then sgn + 0x7F800000
  else if d.2 then sgn + d.1
  else if Config.calciteUp 2 (BitVec.ofNat 32 x) then sgn + d.1 + 1 else sgn + d.1

/-- The encodings of FP32 values within 1 ulp of 1/√(m·2^e), m·2^e positive (R89). -/
def rsqrtCands (m : Nat) (e : Int) : List Nat :=
  -- 1/√x lies in the binade of exponent ex; ulp is 2^(ex-23)
  let l : Int := (flog2 m : Int) + e
  let ex0 : Int := -(l + 1) / 2
  let ex := if geRsqrt 1 (ex0 + 1) m e && !(geRsqrt 1 ex0 m e) then ex0 else if geRsqrt 1 ex0 m e then
      (if geRsqrt 1 (ex0 - 1) m e then ex0 - 2 else ex0 - 1) else ex0 + 1
  let g := ex - 23
  let cand := fun n : Nat => (ex + 126).toNat * 2 ^ 23 + n
  -- lo is the largest n with n·2^g ≤ 1/√x
  let k := -(2 * g + e)
  let lo := isqrt ((if k ≥ 0 then 2 ^ k.toNat else 1) / m)
  let half := [(2 * lo - 1, g - 1)].filter fun y => lo = 2 ^ 23 && geRsqrt (y.1 + 2) y.2 m e
  [cand lo, cand (lo + 1)] ++ half.map fun _ => cand (2 ^ 23) - 1

/-- RSQRT of a positive finite argument (R89). -/
def rsqrtFin (x m : Nat) (e : Int) : Nat :=
  if 2 ^ flog2 m = m ∧ ((flog2 m : Int) + e) % 2 = 0 then toF32 (.fin false 1 (-((flog2 m : Int) + e) / 2))
  else
    let c := rsqrtCands m e
    c.getD ((Config.calcite 3 (BitVec.ofNat 32 x)).toNat % c.length) 0

/-- The free word of the calcite reference table set for a function and an argument (R88, log 7). -/
def calciteFree (fn x : Nat) : Nat := (Config.calcite fn (BitVec.ofNat 32 x)).toNat

/-- The sign, mantissa and exponent of a finite FP32 number. -/
def finOf (x : Nat) : Bool × Nat × Int :=
  match ofF32 x with
  | .fin neg m e => (neg, m, e)
  | _ => (false, 0, 0)

/-- EXP (Tables 4.2, 4.3). -/
def fexp (x : Nat) : Nat :=
  let v := finOf x
  if isNaN32 x then f32NaN
  else if isZero32 x then f32One
  else if x.testBit 31 then (if x % 2 ^ 31 ≥ 0x42CFF1B5 then 0 else withinUlp 2 (expVal v.1 v.2.1 v.2.2) (calciteFree 0 x))
  else if x ≥ 0x42B17218 then f32PInf
  else withinUlp 2 (expVal v.1 v.2.1 v.2.2) (calciteFree 0 x)

/-- LOG of m · 2^e, away from 1, with its free word. -/
def logOf (m : Nat) (e : Int) (free : Nat) : Nat :=
  let v := lnVal m e
  let r := withinUlp 2 v.2 free
  if v.1 then neg32 r else r

/-- LOG (Tables 4.2, 4.3). -/
def flog (x : Nat) : Nat :=
  let v := finOf x
  if isNaN32 x then f32NaN
  else if isZero32 x then f32NInf
  else if x.testBit 31 then f32NaN
  else if isInf32 x then f32PInf
  else if x = f32One then 0
  else logOf v.2.1 v.2.2 (calciteFree 1 x)

/-- LOG of the 25-bit u = (2m + 1) · 2^-25 of Gumbel noise: an FP32 argument where it has 24 bits; the exact value beyond (DESIGN
CHOICE, log 103). -/
def logU (m : Nat) : Nat :=
  if m < 2 ^ 23 then flog (toF32 (.fin false (2 * m + 1) (-25)))
  else logOf (2 * m + 1) (-25) (Config.logU m).toNat

/-- RCP (Tables 4.2, 4.3). -/
def frcp (x : Nat) : Nat :=
  match ofF32 x with
  | .nan => f32NaN
  | .inf neg => if neg then 2 ^ 31 else 0
  | .fin neg m e => if m = 0 then (if neg then f32NInf else f32PInf) else rcpFin x neg m e

/-- RSQRT (Tables 4.2, 4.3). -/
def frsqrt (x : Nat) : Nat :=
  match ofF32 x with
  | .nan => f32NaN
  | .inf neg => if neg then f32NaN else 0
  | .fin neg m e =>
    if m = 0 then (if neg then f32NInf else f32PInf) else if neg then f32NaN else rsqrtFin x m e

/-- SIG (Tables 4.2, 4.3). -/
def fsig (x : Nat) : Nat :=
  let v := finOf x
  if isNaN32 x then f32NaN
  else if isZero32 x then 0x3F000000
  else if isInf32 x then (if x.testBit 31 then 0 else f32One)
  else withinUlp 2 (sigVal v.1 v.2.1 v.2.2) (calciteFree 4 x)

/-- TANH: odd bit for bit, and the identity below 2^−12 (Table 4.2, R90). -/
def ftanh (x : Nat) : Nat :=
  if isNaN32 x then f32NaN
  else
    let a := x % 2 ^ 31
    let v := finOf a
    let r := if a < 0x39800000 then a else if isInf32 a then f32One else withinUlp 2 (tanhVal v.2.1 v.2.2) (calciteFree 5 a)
    if x.testBit 31 then neg32 r else r

/-- GELU: within 4 ULP from −9 on; below, within 2^−84 and never positive (Tables 4.2, 4.3). -/
def fgelu (x : Nat) : Nat :=
  let v := finOf x
  let y := geluVal v.1 v.2.1 v.2.2
  if isNaN32 x then f32NaN
  else if isZero32 x then x
  else if isInf32 x then (if x.testBit 31 then 2 ^ 31 else f32PInf)
  else if flt x 0xC1100000 then
    let r := withinOf y.1 y.2 1 (-84)
    neg32 (pickOf (max 0 r.1, r.2) (calciteFree 6 x))
  else
    let r := withinUlp 4 y (calciteFree 6 x)
    if v.1 then neg32 r else r

/-! ### Loadable slots -/

/-- A committed slot buffer: its 772 words and the SEGS latched at COMMIT (R92, R95). -/
structure SlotBuf where
  words : List W32
  segs : Nat
  deriving DecidableEq, Repr, Inhabited

def sbWord (b : SlotBuf) (i : Nat) : Nat := (b.words.getD i 0).toNat

/-- Integer part of a nonnegative finite FP32 value. -/
def f32Floor (x : Nat) : Nat :=
  match ofF32 x with
  | .fin _ m e => shl m e
  | _ => 0

/-- Evaluation of a slot (R93); the order of the pseudocode binds. -/
def slotEval (b : SlotBuf) (x : Nat) : Nat :=
  if isNaN32 x then f32NaN
  else
    let t := fmul (fsub x (sbWord b 0)) (sbWord b 1)
    if isNaN32 t then f32NaN
    else if flt t 0 then canon32 (sbWord b 2)
    else if !flt t (f32OfNat b.segs) then canon32 (sbWord b 3)
    else
      let i := f32Floor t
      let f := fsub t (f32OfNat i)
      let c := fun j => sbWord b (4 + 3 * i + j)
      canon32 (fadd (fmul (fadd (fmul (c 2) f) (c 1)) f) (c 0))

/-! ### Gating -/

/-- MAX of the non-NaN entries of a row; −Inf when there is none. -/
def rowMax (s : List Nat) : Nat := s.foldl (fun m x => if isNaN32 x then m else fmax m x) f32NInf

/-- Exponential entry of R98 against the maximum m. -/
def smEntry (m x : Nat) : Nat :=
  if isNaN32 x then 0
  else if m = f32PInf then (if x = f32PInf then f32One else 0)
  else fexp (fsub x m)

/-- Softmax of the listed scores (R98): the values, and whether the row is empty (counted in OBS_GATE_EMPTY). -/
def softmax (s : List Nat) : List Nat × Bool :=
  let m := rowMax s
  if m = f32NInf then (s.map fun _ => 0, true)
  else
    let e := s.map (smEntry m)
    let r := frcp (treeSum e)
    (e.map fun x => fmul x r, false)

/-- Renormalised gates of a token with k = 2 (R100): the pair, and whether it counts as empty. -/
def renorm2 (ga gb : Nat) : List Nat × Bool :=
  let z := fadd ga gb
  if isZero32 z then ([0, 0], true)
  else
    let r := frcp z
    ([fmul ga r, fmul gb r], false)

/-! ### Statistics -/

/-- MEAN and VAR on the two-pass path (R103), and whether the row has special values. -/
def twoPass (x : List Nat) : Nat × Nat × Bool :=
  if x.any fun v => !isFinite32 v then (f32NaN, f32NaN, true)
  else
    let lo := x.foldl fmin (x.headD 0)
    let hi := x.foldl fmax (x.headD 0)
    let rn := frcp (f32OfNat x.length)
    let mean := if feq lo hi then lo else fmin (fmax (fmul (treeSum x) rn) lo) hi
    let q := x.map fun v => let d := fsub v mean; fmul d d
    (mean, fmul (treeSum q) rn, false)

/-- The token statistics hank of a score row: MAX, LSE, MEAN, VAR (R102), and whether it is special. -/
def tokenStats (s : List Nat) : Hank × Bool :=
  let m := rowMax s
  let lse := if m = f32NInf then f32NInf else fadd m (flog (treeSum (s.map (smEntry m))))
  let t := twoPass s
  (i32Hank [m, lse, t.1, t.2.1], t.2.2)

/-- The expert statistics hank of the given scores of an expert: COUNT, SUM, SUMSQ, +0 (R102). -/
def expertStats (col : List Nat) : Hank :=
  i32Hank [f32OfNat col.length, treeSum col, treeSum (col.map fun v => fmul v v), 0]

/-- The one-pass finalise of a summed triple (R104), and whether it is special. -/
def onePass (c s q : Nat) : Hank × Bool :=
  if isZero32 c then (i32Hank [0, 0, 0, 0], false)
  else
    let r := frcp c
    let mean := fmul s r
    let a := fmul q r
    let b := fmul mean mean
    if !isFinite32 a || !isFinite32 b || isNaN32 mean then (i32Hank [c, f32NaN, f32NaN, 0], true)
    else
      let v := fsub a b
      let var := if flt v 0 || v == 2 ^ 31 then 0 else v
      (i32Hank [c, mean, var, 0], false)

end Sys2Proof.Machine
end

