-- ==== Sys2Proof/Machine/State.lean ====
section
/-! DEFINITION. The state of the block as plain data. Default values of the fields are the values after reset. A field
that a rule computes from others (the waiting-on registers, FREE, FILL, OPEN) is not stored but computed on a read.
Tables are lists read with `tget`. Counts and indices are numbers; register fields are bit vectors. -/

namespace Sys2Proof.Machine

/-- Why a step stops with a fault. No meaning of this model raises one: every fault the spec describes is reported in a
next state (R273 to R284). Safe: it is never used. -/
inductive Fault where
  /-- Raised by nobody; the type must not be empty for the interface. Safe. -/
  | unreachable
deriving DecidableEq, Repr

/-- Why a step is refused. -/
inductive Refusal where
  /-- Raised by an arm of `exec` whose command has no meaning yet. Safe. -/
  | notModelled (mnemonic : String)
deriving DecidableEq, Repr

/-! ### Contexts (spec/11 Table 11.9, spec/12 Table 12.1) -/

/-- The fault state of a context, in the order of its codes (Table 11.15). -/
inductive CtxState where
  | absent | run | faulted | saving | saveStalled | saved | restoring | restoreStalled | torn
deriving DecidableEq, Repr, Inhabited

/-- A restart record (Table 11.8). -/
structure RestartRec where
  unit : Nat := 0
  access : Nat := 0
  level : Nat := 0
  kind : Nat := 0
  ctx : Nat := 0
  more : Bool := false
  cmdSeq : Nat := 0
  vaddr : Nat := 0
  position : Nat := 0
deriving DecidableEq, Repr, Inhabited

/-- A step ledger entry (Table 7.2). `uid` names the entry for the cards that record it (R152), `gen` the
generation-table entry of a homed step; `combineDone` and `genVoid` say that its homed COMBINE has completed, that its
generation was voided (R158, R182). -/
structure Ledger where
  uid : Nat := 0
  step : Nat := 0
  done : Bool := false
  w : Nat := 0
  completed : Nat := 0
  s : Nat := 0
  failed : Bool := false
  failExpert : Nat := 0
  failStatus : Nat := 0
  generation : Nat := 0
  homed : Bool := false
  gen : Option Nat := none
  combineDone : Bool := false
  genVoid : Bool := false
deriving DecidableEq, Repr, Inhabited

/-- The latches of the latest reply of a context (R393). -/
structure Latch where
  valid : Bool := false
  seq : Nat := 0
  code : Nat := 0
  status : Nat := 0
  stampS : Nat := 0
  stampE : Nat := 0
  start : List Nat := []
  fin : List Nat := []
deriving DecidableEq, Repr, Inhabited

/-- A save or a restore in progress: hanks of the area still to write, lines done, cause (R303, R307), and the hanks that a
restore has read (R277). -/
structure SaveWork where
  got : List Hank := []
  items : List Hank := []
  pos : Nat := 0
  total : Nat := 0
  cause : Nat := 0
  byEviction : Bool := false
deriving DecidableEq, Repr, Inhabited

/-- A context-table entry (Table 12.1) with its counters (R389) and latches (R393). `ctrOld` is what the counters held before
the events of tick `ctrAt` (R8), `recAt` the tick of the command record's miss (R275); `rcvStop` says that a home receive
write has missed and waits for RESUME (R278). -/
structure Ctx where
  st : CtxState := .absent
  part : BitVec 2 := 0
  cls : Bool := false
  ways : W16 := 0
  saveLo : W32 := 0
  saveHi : BitVec 12 := 0
  root : BitVec 24 := 0
  rootValid : Bool := false
  stepCtr : W32 := 0
  cardCtr : W32 := 0
  ledger : List Ledger := []
  tseq : W32 := 0
  cmdRec : Option RestartRec := none
  saveRec : Option RestartRec := none
  savePending : Bool := false
  evictPending : Bool := false
  auto : Bool := false
  dropped : Bool := false
  ctr : List Nat := List.replicate 18 0
  ctrOld : List Nat := List.replicate 18 0
  ctrAt : Nat := 0
  recAt : Nat := 0
  rcvStop : Bool := false
  latch : Latch := {}
  save : Option SaveWork := none
  lout : Nat := 0
  lin : Nat := 0
deriving DecidableEq, Repr, Inhabited

/-! ### Commands (spec/14, and the home chapter of each stream) -/

/-- A command record as received: header words, body words, CPI_PRIV, arrival number, and why its acceptance waits
(R346, Table 14.14). -/
structure CmdRec where
  w0 : Nat := 0
  w1 : Nat := 0
  w2 : Nat := 0
  w3 : Nat := 0
  body : List Nat := []
  priv : Bool := false
  arr : Nat := 0
  why : Nat := 0
deriving DecidableEq, Repr, Inhabited

/-- An outward record before it is sent: OSEQ and LOST are set when it leaves (R353, R357). `acc` marks the reply of an
accepted command, which stays open while its reply waits for room; `shown` is the CONTEXT field beside CTX_VALID 0: that of
the header in a reply (R354); `ledger` is the step ledger entry that an N_DONE sets DONE in (R151). -/
structure OutRec where
  ledger : Option Nat := none
  kind : Nat := 0
  notice : Bool := false
  ctx : Option Nat := none
  shown : Nat := 0
  body : List Nat := []
  hanks : Nat := 0
  seq : Nat := 0
  status : Nat := 0
  flags : Nat := 0
  acc : Bool := false
deriving DecidableEq, Repr, Inhabited

/-- A transfer on CPO: CPO_DATA, CPO_FIRST, CPO_LAST (R342). -/
structure OutTransfer where
  data : BitVec 256 := 0
  first : Bool := false
  last : Bool := false
deriving DecidableEq, Repr, Inhabited

/-- The record last sent on CPO: header and body words, the I32 hanks that they form, and its transfers (R344, R353). -/
structure SentRec where
  words : List Nat := []
  hanks : List Hank := []
  transfers : List OutTransfer := []
deriving DecidableEq, Repr, Inhabited

/-- A routing configuration (Table 5.1). -/
structure RouteCfg where
  experts : Nat := 0
  k : Nat := 0
  ec : Bool := false
  gating : Nat := 0
  renorm : Bool := false
  ovf : Nat := 0
  ecMax : Nat := 0
  noise : Nat := 0
  sigSlot : Bool := false
  slotSel : Nat := 0
  capacity : Nat := 0
  tokenStats : Bool := false
  expertStats : Bool := false
  rawOut : Nat := 0
  noiseScale : Nat := 0
  layer : Nat := 0
  seedLo : Nat := 0
  seedHi : Nat := 0
  biasAddr : Nat := 0
  biasEn : Bool := false
  homeAddr : Nat := 0
  homeEn : Bool := false
deriving DecidableEq, Repr, Inhabited

/-- One entry of a column's long accumulator: a 608-bit integer and its flags (R76, R77). -/
structure LongAcc where
  entry : Int := 0
  nan : Bool := false
  pinf : Bool := false
  ninf : Bool := false
deriving DecidableEq, Repr, Inhabited

/-- One score: FP32 bits, and BF16 bits rounded directly (R78). -/
structure Score where
  f32 : Nat := 0
  bf16 : Nat := 0
deriving DecidableEq, Repr, Inhabited

/-- A finished score segment of one token: token, expert tile and the tile's scores (R69). -/
structure Segment where
  token : Nat := 0
  tile : Nat := 0
  scores : List Score := []
deriving DecidableEq, Repr, Inhabited

/-- A coil buffer granted: way, pool, index, owner (R267 to R269). -/
structure CoilBuf where
  way : Nat := 0
  pool : Nat := 0
  idx : Nat := 0
  req : Nat := 0
  ctx : Option Nat := none
  part : Nat := 0
deriving DecidableEq, Repr, Inhabited

/-- A work unit in progress: run, expert tile, K tiles done, and the entries, one list of columns per token of the
run; on the fallback path the group sums of each column instead (R66, R80). `arr` is the array that it runs on, and until a save
no other takes it (`bound`); `tile0` holds the weight tile swapped in for the pass of K tile `kTile`, if `swapped`, `shadow` and `toks`
what has been fetched of the next weight tile and of the tokens of the pass (R68), `tileBuf` and `tokBuf` the coil buffers that they
pass through (R271). `rows` counts the segments delivered once the last pass is done. -/
structure UnitWork where
  bound : Bool := true
  swapped : Bool := false
  tile0 : List Hank := []
  run : Nat := 0
  tile : Nat := 0
  kTile : Nat := 0
  acc : List (List LongAcc) := []
  sums : List (List (List Nat)) := []
  arr : Nat := 0
  shadow : List Hank := []
  toks : List Hank := []
  tileBuf : Option CoilBuf := none
  tokBuf : Option CoilBuf := none
  rows : Nat := 0
deriving DecidableEq, Repr, Inhabited

/-- The load counts of one expert (Table 5.3). -/
structure LoadCnt where
  assigned : Nat := 0
  first : Nat := 0
  refused : Nat := 0
  overflow : Nat := 0
deriving DecidableEq, Repr, Inhabited

/-- A home map as read (Table 8.1). -/
structure HomeMap where
  members : List Nat := []
  xg : Nat := 0
  mode : Nat := 0
  win : Nat := 0
  deadline : Nat := 0
  home : List Nat := []
deriving DecidableEq, Repr, Inhabited

/-- The stages of an accepted ROUTE_STEP (Table 1.5). -/
inductive RouteStage where
  | bias | score | write | sort | send | cards | finished
deriving DecidableEq, Repr, Inhabited

/-- One thing that Marlin produces (R136, R177): the card of an expert in a half, its cell, or cell 0. -/
inductive WalkItem where
  | card (half expert : Nat)
  | cell (half expert : Nat)
  | cell0
deriving DecidableEq, Repr, Inhabited

/-- The progress of an accepted ROUTE_STEP: its record, configuration, template and map as read, and the live state of
the units that serve it (R66, R69, R124, R137, R147). `units` are the work units issued and not finished, `issued` how many were
issued, `lines` the lines fetched, `taken` the score rows that selection has taken; `rowBufs` the buffers of the score rows that the mica lanes hold, by token, `selBufs` and
`fltBufs` those of selection and of the flint sorter (R271); `outDone` the lines, cards and cells of the stage in progress;
`walk` what Marlin has left. -/
structure RouteWork where
  stage : RouteStage := .bias
  step : Nat := 0
  uid : Nat := 0
  tokBase : Nat := 0
  tokRow : Nat := 0
  wBase : Nat := 0
  wRow : Nat := 0
  out : Nat := 0
  n : Nat := 0
  hidden : Nat := 0
  tokFmt : Nat := 0
  wFmt : Nat := 0
  cfg : RouteCfg := {}
  tpl : List Nat := []
  generation : Nat := 0
  defer : Bool := false
  slotBuf : Option (Nat × Nat) := none
  bias : List Nat := []
  units : List UnitWork := []
  issued : Nat := 0
  lines : Nat := 0
  taken : Nat := 0
  segs : List Segment := []
  rowBufs : List (Nat × CoilBuf) := []
  selBufs : List CoilBuf := []
  fltBufs : List CoilBuf := []
  load : List LoadCnt := []
  dropped : Nat := 0
  nanKeys : Nat := 0
  choices : List (List Nat) := []
  gates : List (List Nat) := []
  outQ : List (Nat × Hank) := []
  outDone : Nat := 0
  walk : List WalkItem := []
  w : Nat := 0
  gen : Option Nat := none
deriving DecidableEq, Repr, Inhabited

/-- A staged answer of a homed COMBINE, with its coil buffer (R157, Table 8.8). -/
structure Staged where
  token : Nat := 0
  slot : Nat := 0
  hanks : List Hank := []
  buf : Option CoilBuf := none
deriving DecidableEq, Repr, Inhabited

/-- The progress of an accepted COMBINE: descriptor words, ledger entry, S of it once the COMBINE has begun to read, next token, in homed placement the inverse
elements of the tokens before it, rows done (R149, R152, R160). -/
structure CombineWork where
  w : List Nat := []
  step : Nat := 0
  uid : Nat := 0
  homed : Bool := false
  gen : Option Nat := none
  started : Bool := false
  s : Option Nat := none
  next : Nat := 0
  inv : List (List Nat) := []
  rowsDone : Nat := 0
  emptyRows : Nat := 0
  staged : List Staged := []
  written : List Nat := []
  failExpert : Nat := 0
  failStatus : Nat := 0
  stop : Option Nat := none
deriving DecidableEq, Repr, Inhabited

/-- A layout descriptor with its cell applied (Table 9.1, R200, R201). -/
structure Layout where
  fmt : Nat := 0
  rank : Nat := 0
  swzBits : Nat := 0
  swzLow : Nat := 0
  swzShift : Nat := 0
  base : Nat := 0
  ext : List Nat := []
  stride : List Nat := []
deriving DecidableEq, Repr, Inhabited

/-- The progress of an accepted COPY: layouts as read and destination groups done (R204, R214); `bufs` are the staging buffers
of its engines (R271), `at_` the engines that it holds or held last (R214, R307). -/
structure CopyWork where
  mode : Nat := 0
  indexDim : Nat := 0
  perm : List Nat := []
  engines : Nat := 1
  src : Layout := {}
  dst : Layout := {}
  idx : Layout := {}
  identity : Bool := false
  pos : Nat := 0
  hanks : Nat := 0
  bufs : List CoilBuf := []
  at_ : List Nat := []
deriving DecidableEq, Repr, Inhabited

/-- An accepted COLLECT (R232 to R237, R248, R250): its descriptor as read, the extent X, its pieces (KEY,
length, null), the number of those written or voided, the first void piece with its SEQ, and the keys of the tiles received. Its pieces stand in the
thimble. -/
structure CollectWork where
  group : Nat := 0
  op : Nat := 0
  source : Nat := 0
  racc : Bool := false
  plumb : Bool := false
  src : Nat := 0
  dst : Nat := 0
  deadline : Nat := 0
  tag : Nat := 0
  digest : Nat := 0
  extent : Nat := 0
  names : List (Nat × Nat × Bool) := []
  ended : Nat := 0
  firstVoid : Option Nat := none
  voidSeq : Nat := 0
  missing : Option Nat := none
  nullLocal : Nat := 0
  dropped : Nat := 0
  cellBad : Bool := false
  keys : List Nat := []
deriving DecidableEq, Repr, Inhabited

/-- A MUSTER on this chip (R334 to R339): its command, context, what arrived from below, what was sent, the release
tick, and the partner that was missing at its deadline. `orphan` marks one whose context was torn down and that still owes
VOID to partners. -/
structure MusterWork where
  oid : Nat := 0
  ctx : Nat := 0
  group : Nat := 0
  seq : Nat := 0
  tag : Nat := 0
  deadline : Nat := 0
  arrived : Bool := false
  below : List Nat := []
  voidBelow : List Nat := []
  sentUp : Bool := false
  stampA : Option Nat := none
  release : Option Nat := none
  late : Bool := false
  unbound : Bool := false
  missing : Option Nat := none
  orphan : Bool := false
deriving DecidableEq, Repr, Inhabited

/-- What an open command is doing. -/
inductive Work where
  | none
  | route (w : RouteWork)
  | combine (w : CombineWork)
  | copy (w : CopyWork)
  | collect (w : CollectWork)
  | muster (stamp : Nat)
  | save
  | resume (restore : Bool)
  | dispatch (gen : Nat)
  | cancel (gen : Nat)
deriving DecidableEq, Repr, Inhabited

/-- An accepted command that has not replied (R287, R354): its record, acceptance stamp, start latch (R393), tandem
digest, items and TSEQ (R329), the virtual hank ranges (first, length) that its work has still to read and write (R15), those in `late`
being read as its own step writes them (R157, R170), and its work. `held` marks a command accepted while its context is not in RUN (R306) or behind a MUSTER that is not released
(R334), or whose memory accesses wait for those of earlier commands (R15). `reply` is a reply that waits for its tandem comparison (R331) or for room in
the outward store (R357). -/
structure Open where
  oid : Nat := 0
  cmd : CmdRec := {}
  ctx : Nat := 0
  stamp : Nat := 0
  start : List Nat := []
  digest : W64 := 0
  items : Nat := 0
  tseq : Option Nat := none
  held : Bool := false
  reads : List (Nat × Nat) := []
  late : List (Nat × Nat) := []
  writes : List (Nat × Nat) := []
  work : Work := .none
  reply : Option OutRec := none
deriving DecidableEq, Repr, Inhabited

/-- The command port (spec/14). -/
structure CmdPort where
  partial_ : Option (List (BitVec 256) × Bool) := none
  discard : Bool := false
  queue : List CmdRec := []
  express : List CmdRec := []
  arr : Nat := 0
  out : List OutRec := []
  waitOut : List OutRec := []
  oseq : W32 := 0
  lostFlag : Bool := false
  frameBad : Bool := false
  noticeLostFlag : Bool := false
  noticeLost : W32 := 0
  frameBadCnt : W32 := 0
  queueSel : BitVec 7 := 0
  cpo : Option SentRec := none
  latches : List (Nat × Nat × Nat) := []
  mgRdata : W32 := 0
  mgErr : Bool := false
deriving DecidableEq, Repr, Inhabited

/-! ### Memory, translation and coil buffers (spec/11) -/

/-- A request outstanding on a memory port whose response the model still awaits: context, virtual page, physical line,
identifier, and the piece of a COLLECT that issued it (R248, R257, R266). -/
structure PortReq where
  ctx : Nat := 0
  vpn : Nat := 0
  line : Nat := 0
  id : Nat := 0
  oid : Nat := 0
  pos : Nat := 0
deriving DecidableEq, Repr, Inhabited

/-- A response presented for a line and not yet consumed by an access (R254, R258). -/
structure Response where
  line : Nat := 0
  status : Nat := 0
  data : Option (BitVec 2048) := none
deriving DecidableEq, Repr, Inhabited

/-- A response taken into the bridge of a memory port while the block is frozen (R408, R427). -/
structure HeldResponse where
  line : Nat := 0
  id : Nat := 0
  status : Nat := 0
  data : BitVec 2048 := 0
deriving DecidableEq, Repr, Inhabited

/-- What a memory port presented last: RQ_OP, RQ_LINE, RQ_ID, RQ_MASK, RQ_DATA, and on its trace channel TR_LINE and TR_DATA;
`ready` is the input RQ_READY, and `held` that the request presented last still waits for it (R254, R285). -/
structure PortPins where
  ready : Bool := true
  held : Bool := false
  op : BitVec 3 := 0
  line : BitVec 28 := 0
  id : BitVec 8 := 0
  mask : BitVec 15 := 0
  data : BitVec 2048 := 0
  trLine : BitVec 28 := 0
  trData : BitVec 2048 := 0
deriving DecidableEq, Repr, Inhabited

/-- A cached translation (R265). -/
structure XltEntry where
  ctx : Nat := 0
  vpn : Nat := 0
  ppn : Nat := 0
  rd : Bool := false
  wr : Bool := false
  acc : Bool := false
deriving DecidableEq, Repr, Inhabited

/-- The translator and the memory ports (R254 to R266, R285). `inval` lists the outstanding requests (line, identifier)
that used a removed translation. -/
structure Xlt where
  ctxSel : BitVec 6 := 0
  recSel : Bool := false
  invalVpn : BitVec 28 := 0
  cache : List XltEntry := []
  inval : List (Nat × Nat) := []
  reqs : List PortReq := []
  nextId : Nat := 0
  bridge : List Response := []
  ports : List PortPins := List.replicate 32 {}
  frozenRs : List HeldResponse := []
deriving DecidableEq, Repr, Inhabited

/-- A coil request: size in hanks, requester, context, the command that it serves, class; one that waits keeps the quota under
which it was made, since a write of QUOTA acts on the next request (R270, R271, R285). -/
structure CoilReq where
  size : Nat := 0
  req : Nat := 0
  ctx : Option Nat := none
  oid : Option Nat := none
  part : Nat := 0
  cls : Bool := false
  limit : Option Nat := none
deriving DecidableEq, Repr, Inhabited

/-- A staging buffer of Hawser (Table 8.8): the number that its packets bear, the buffer, and the token row in it. -/
structure Staging where
  id : Nat := 0
  buf : CoilBuf := {}
  row : List Hank := []
deriving DecidableEq, Repr, Inhabited

/-- The coil manager (R267 to R272, R285); `staging` lists the buffers that Hawser holds until the switch has acknowledged
the last flit of what they hold (Table 8.8), `chosen` is the waiting request that a COIL_GRANT serves, until its unit has taken the
buffer. -/
structure Coil where
  zeroed : BitVec 102 := 0
  chosen : Option CoilReq := none
  bufs : List CoilBuf := []
  staging : List Staging := []
  wait : List CoilReq := []
  cursors : List Nat := List.replicate 8 0
  quotaReq : BitVec 4 := 0
  quotaPart : BitVec 2 := 0
  quota : List (List Nat) := List.replicate 4 (List.replicate 16 0)
  doubleFree : Bool := false
  quotaFault : Bool := false
  lastReq : Nat := 0
  lastCtx : Nat := 0
deriving DecidableEq, Repr, Inhabited

/-! ### Partitions and the save path (spec/12) -/

/-- A partition: resources from the lay (Table 12.2), mode and RESET_SEEN (Table 12.17), and its eviction save. -/
structure Part where
  ways : W16 := 0
  ppnBase : BitVec 20 := 0
  ppnCount : BitVec 21 := 0
  port : W32 := 0
  mode : BitVec 2 := 0
  resetSeen : Bool := false
  evicting : Option Nat := none
deriving DecidableEq, Repr, Inhabited

/-- The context block's own registers (R312) and CTX_PLUMB (R341). -/
structure CtxRegs where
  sel : BitVec 6 := 0
  ctrlBad : Bool := false
  beFloor : BitVec 8 := 0
  evictEn : Bool := true
  swOut : W32 := 0
  swIn : W32 := 0
  swWaits : Bool := false
  swBeats : W32 := 0
  plumb : Bool := false
deriving DecidableEq, Repr, Inhabited

/-! ### Calcite slots (spec/04 R92 to R97) -/

/-- A loadable slot: control, status, two buffers, which one is current, SEGS latched with each (R92 to R96). -/
structure Slot where
  part : BitVec 2 := 0
  opened : Bool := false
  segs : BitVec 9 := 0
  curValid : Bool := false
  writeLost : Bool := false
  descBad : Bool := false
  version : BitVec 12 := 0
  word : BitVec 10 := 0
  cur : Nat := 0
  buf0 : SlotBuf := { segs := 0, words := List.replicate 772 0 }
  buf1 : SlotBuf := { segs := 0, words := List.replicate 772 0 }
deriving DecidableEq, Repr, Inhabited

/-! ### Marlin and the work port (spec/06) -/

/-- An entry of the outstanding-card table (R141): the card, its ledger entry, and the home role it belongs to. -/
structure CardEnt where
  ctx : Nat := 0
  seq : Nat := 0
  step : Nat := 0
  expert : Nat := 0
  uid : Nat := 0
  dead : Bool := false
  gen : Option Nat := none
  half : Nat := 0
  rowStart : Nat := 0
  rows : Nat := 0
deriving DecidableEq, Repr, Inhabited

/-- Marlin and WP (R136 to R142, R148, R395): the card list held with its staging buffer (R271), the card last acknowledged on
WPO, and the completions in the bridge of WP while the block is frozen (R408, R427). -/
structure Marlin where
  held : Option Nat := none
  buf : Option CoilBuf := none
  bridge : List Hank := []
  cards : List CardEnt := []
  stray : Bool := false
  failed : Bool := false
  lastStatus : Nat := 0
  wpo : List Hank := []
  fwId : W32 := 0
  pcEn : Bool := false
  pcShift : BitVec 5 := 16
  pcSample : W32 := 0
deriving DecidableEq, Repr, Inhabited

/-! ### Homed placement (spec/08) -/

/-- A packet that Hawser has still to send: member, half, END or TOKEN, token, pairs (expert, slot), Q, and the number of
the staging buffer of its token. -/
structure SendPkt where
  dest : Nat := 0
  half : Nat := 0
  isEnd : Bool := false
  token : Nat := 0
  pairs : List (Nat × Nat) := []
  q : Nat := 0
  stg : Option Nat := none
deriving DecidableEq, Repr, Inhabited

/-- A TOKEN packet received by the home role: member, Q, half, pairs, source token (R175). -/
structure HomeTok where
  member : Nat := 0
  q : Nat := 0
  half : Nat := 0
  pairs : List (Nat × Nat) := []
  token : Nat := 0
deriving DecidableEq, Repr, Inhabited

/-- A row of a completed home card that is still to be answered (R178): sorted row, its return-map element, expert,
half, and the status of a failed card. -/
structure AnsTask where
  row : Nat := 0
  ret : Nat := 0
  expert : Nat := 0
  half : Nat := 0
  fail : Option Nat := none
deriving DecidableEq, Repr, Inhabited

/-- The home role of a live entry (R175 to R178): packets, ENDs (half, member, COUNT), halves sorted, per half the
counts, row starts and index offsets, the return map so far, rows and index hanks so far, hanks to write, the card walk with
the cards and cells produced, and the answers to send with those sent. -/
structure HomeRole where
  opened : Bool := false
  ended : Bool := false
  toks : List HomeTok := []
  ends : List (Nat × Nat × Nat) := []
  sorted : List Bool := [false, false]
  fltBufs : List CoilBuf := []
  counts : List (List Nat) := [[], []]
  rowStart : List (List Nat) := [[], []]
  hankOff : List (List Nat) := [[], []]
  ret : List Nat := []
  rows : Nat := 0
  hanks : Nat := 0
  outQ : List (Nat × Hank) := []
  outDone : Nat := 0
  walk : List WalkItem := []
  emitted : Nat := 0
  cards : Nat := 0
  answers : List AnsTask := []
  answered : Nat := 0
deriving DecidableEq, Repr, Inhabited

/-- A generation-table entry (R166, Table 8.12) with the map and row sizes fixed at acceptance. An entry that has retired
(`live` false) is kept only while its home role still serves the other members. `n` is the batch, `inv` the elements of the inverse
map that Hawser has written (R170), `queued` the tokens that selection has passed to Hawser, and one more once the ENDs are due; their packets stand in `early` until the
send mode lets them into `sendQ` (R171 to R173). `counts` holds the TOKEN packets sent, at 2 × member + half, `endsSent` the ENDs sent; `slotsTo` and `rcvFrom` the slots sent to each
member and the answers received from it. `atLink` says that the switch does not accept the next packet (Table 8.10). `idx` is the
entry's place in the table of 64. -/
structure GenEnt where
  n : Nat := 0
  inv : Nat := 0
  queued : Nat := 0
  early : List SendPkt := []
  endsSent : Nat := 0
  atLink : Bool := false
  uid : Nat := 0
  idx : Nat := 0
  live : Bool := false
  xg : Nat := 0
  generation : Nat := 0
  ctx : Nat := 0
  cls : Bool := false
  void : Bool := false
  sent : Bool := false
  homeDone : Bool := false
  late : Bool := false
  sendMissed : Bool := false
  homeMissed : Bool := false
  expected : Nat := 0
  received : Nat := 0
  gone : Nat := 0
  ansHanks : Nat := 0
  tokHanks : Nat := 0
  stamp : Nat := 0
  oid : Nat := 0
  seq : Nat := 0
  uidL : Nat := 0
  step : Nat := 0
  map : HomeMap := {}
  mself : Nat := 0
  tpl : List Nat := []
  experts : Nat := 0
  deferred : Bool := false
  dispatchOid : Option Nat := none
  sendQ : List SendPkt := []
  counts : List Nat := []
  slotsTo : List Nat := []
  rcvFrom : List Nat := []
  slotsSent : Nat := 0
  combined : Bool := false
  combineDone : Bool := false
  cellBase : Nat := 0
  idxBase : Nat := 0
  retBase : Nat := 0
  home : HomeRole := {}
deriving DecidableEq, Repr, Inhabited

/-- A packet in the skein queue (R180 to R183). -/
structure SknPkt where
  xg : Nat := 0
  generation : Nat := 0
  gen : Nat := 0
  token : Nat := 0
  slot : Nat := 0
  expert : Nat := 0
  fail : Bool := false
  failStatus : Nat := 0
  payload : List Hank := []
  buf : Option CoilBuf := none
deriving DecidableEq, Repr, Inhabited

/-- The skein queue (R180 to R186, R192); `reading` is the packet that the read side has taken, `stage` the staging buffer
that the splice engine gave the read (R183). -/
structure Skein where
  bank : Bool := false
  fill : List SknPkt := []
  drain : List SknPkt := []
  reading : Option SknPkt := none
  stage : Option CoilBuf := none
  high : Bool := false
  droppedLive : Bool := false
  level : BitVec 12 := 0x600
  discard : W32 := 0
  stray : W32 := 0
deriving DecidableEq, Repr, Inhabited

/-! ### Fabric, thimble, tandem and STC (spec/10, spec/13) -/

/-- A packet: header fields of its flits, its hanks, the port it arrived on, and for a packet that this chip
originated the context it belongs to and the staging buffer of Hawser that it came from; `buf` is the receive staging of a
TOKEN packet whose write has missed (R218, R219, R389, Table 8.8). -/
structure Packet where
  dst : Nat := 0
  src : Nat := 0
  vc : Nat := 0
  hops : Nat := 0
  hanks : List Hank := []
  port : Option Nat := none
  origin : Bool := false
  ctx : Option Nat := none
  stg : Option Nat := none
  buf : Option CoilBuf := none
deriving DecidableEq, Repr, Inhabited

/-- A flit sent and not yet acknowledged: its LSEQ, the number of its packet on this port, and its bytes without LACK
and CRC (R221, R223). -/
structure SentFlit where
  lseq : Nat := 0
  pkt : Nat := 0
  bits : BitVec 640 := 0
  stg : Option Nat := none
deriving DecidableEq, Repr, Inhabited

/-- A packet queued on an output port: channel, number, the input it came from (36 the local one), whether the port has
granted it, and flits not yet sent (R226, R229). -/
structure QPkt where
  vc : Nat := 0
  pkt : Nat := 0
  input : Nat := 36
  begun : Bool := false
  origin : Bool := false
  ctx : Option Nat := none
  stg : Option Nat := none
  flits : List (BitVec 640) := []
deriving DecidableEq, Repr, Inhabited

/-- A packet being assembled on an input channel: header and hanks so far; `drop` once HOPS refused it (R219, R220). -/
structure RxPart where
  vc : Nat := 0
  pkt : Packet := {}
  drop : Bool := false
deriving DecidableEq, Repr, Inhabited

/-- A control flit: its LACK, and by its kind the counts of flits drained, the LSEQ expected, or the sender's STC (R218, R222,
R251). -/
inductive CtrlFlit where
  | credit (lack : Nat) (drained : List Nat)
  | nak (lack expected : Nat)
  | sync (lack : Nat) (stamp : Nat)
deriving DecidableEq, Repr, Inhabited

/-- A deficit round robin: the key served last, and the deficit of each key in flits (R226, R229). -/
structure Drr where
  cur : Nat := 0
  deficit : List (Nat × Nat) := []
deriving DecidableEq, Repr, Inhabited

/-- A link port (R216 to R223, Table 10.10). `acked` is the oldest LSEQ not acknowledged; `sentCnt`, `credit` and
`drained` are cumulative flit counts per channel; `owed` counts flits of channels whose consumer holds a packet; `gap` counts
flits of other channels since the last one of VC0, up to 63; `chans` and `inputs` are the arbiters of the channels and of
each channel's inputs; `lastCtrl` and `lastFlits` are what the port sent last. -/
structure Port where
  level : BitVec 3 := 0
  up : Bool := false
  down : Bool := false
  downEver : Bool := false
  trained : Bool := false
  replaces : BitVec 6 := 0
  subst : Bool := false
  retry : W32 := 0
  txSeq : Nat := 0
  rxSeq : Nat := 0
  acked : Nat := 0
  nakSent : Bool := false
  resends : Nat := 0
  replay : List SentFlit := []
  queue : List QPkt := []
  pktNo : Nat := 0
  sentCnt : List Nat := List.replicate 6 0
  credit : List Nat := List.replicate 6 0
  drained : List Nat := List.replicate 6 0
  owed : List Nat := List.replicate 6 0
  gap : Nat := 63
  chans : Drr := {}
  inputs : List Drr := List.replicate 6 {}
  rx : List RxPart := []
  lastCtrl : Option CtrlFlit := none
  lastFlits : List (BitVec 640) := []
deriving DecidableEq, Repr, Inhabited

/-- A tandem record (Table 13.6). -/
structure Tandem where
  tseq : Nat := 0
  ctx : Nat := 0
  code : Nat := 0
  outcome : Nat := 0
  digest : Nat := 0
  items : Nat := 0
  step : Nat := 0
deriving DecidableEq, Repr, Inhabited

/-- A record that waits in the compare table: own or partner's, since when, and the open command it holds (R331). -/
structure TandemEnt where
  own : Bool := true
  r : Tandem := {}
  since : Nat := 0
  oid : Option Nat := none
deriving DecidableEq, Repr, Inhabited

/-- The fabric switch (R225 to R230, R253) and tandem mode (R328 to R333, R341). -/
structure Fabric where
  ports : List Port := List.replicate 36 {}
  vcLo : W32 := 0
  vcHi : BitVec 8 := 0
  pedSel : BitVec 15 := 0
  hopDrop : W32 := 0
  lost : W32 := 0
  rx : List Packet := []
  unrouted : List Packet := []
  tEn : Bool := false
  tHold : Bool := true
  partner : BitVec 17 := 0
  tCtxLo : W32 := 0
  tCtxHi : W32 := 0
  window : W32 := 1000000
  div : W32 := 0
  divTseq : W32 := 0
  compare : List TandemEnt := []
  lead : BitVec 24 := 0
deriving DecidableEq, Repr, Inhabited

/-- A thimble group (R231, Table 10.14) with the chip's place in the tree (R238) and its early store (R465). -/
structure Group where
  opened : Bool := false
  openBad : Bool := false
  quota : BitVec 6 := 0
  part : BitVec 2 := 0
  closing : Bool := false
  membLo : W32 := 0
  membHi : BitVec 12 := 0
  count : BitVec 18 := 0
  seq : W32 := 0
  voids : List Nat := []
  parent : Option Nat := none
  kids : List Nat := []
  early : List Packet := []
deriving DecidableEq, Repr, Inhabited

/-- What a node has received from one partner for a piece: nothing, NULL, hanks, or VOID (R239, R243). -/
inductive Input where
  | none | null | data (hanks : List Hank) | void
deriving DecidableEq, Repr, Inhabited

/-- A piece of an accepted COLLECT, from acceptance until it is written or voided (R234, R240): its place `pos` among the
COLLECT's pieces, its KEY, hank offset and length, whether this chip's contribution is null, the contribution (`lines` as
far as it is read), the partners' inputs, what was sent, the value that the root decided and the result that was settled,
and the lines still to write. `doomed` marks a piece of the root that follows the first void, `stopped` one whose stream
met XLT_MISS, `orphan` one whose context was torn down. -/
structure Piece where
  group : Nat := 0
  seq : Nat := 0
  oid : Nat := 0
  ctx : Nat := 0
  pos : Nat := 0
  key : Nat := 0
  off : Nat := 0
  hanks : Nat := 0
  null : Bool := false
  op : Nat := 0
  digest : Nat := 0
  deadline : Nat := 0
  admitted : Bool := false
  own : Input := .none
  lines : List Hank := []
  inputs : List (Nat × Input) := []
  admitRecv : Bool := false
  sentUp : Bool := false
  decided : Option Input := none
  result : Option Input := none
  toWrite : List (Nat × Hank) := []
  doomed : Bool := false
  stopped : Bool := false
  orphan : Bool := false
deriving DecidableEq, Repr, Inhabited

/-- A tile on TP (R246): header fields, payload, its coil buffer once granted, and the COLLECT that it was matched to while
its piece is not admitted (R241, R247). -/
structure Tile where
  oid : Option Nat := none
  ctx : Nat := 0
  group : Nat := 0
  key : Nat := 0
  hanks : Nat := 0
  tag : Nat := 0
  payload : List Hank := []
  buf : Option CoilBuf := none
deriving DecidableEq, Repr, Inhabited

/-- What arrives on TP: the header hank of a tile, or its payload (R246). -/
inductive TpItem where
  | header (hank : Hank)
  | payload (hanks : List Hank)
deriving DecidableEq, Repr, Inhabited

/-- The thimble and the tile port (R240 to R247, R253); `bridge` is what TP's bridge holds while the block is frozen (R408,
R427). -/
structure Thimble where
  bridge : List TpItem := []
  groups : List Group := List.replicate 16 {}
  pieces : List Piece := []
  musters : List MusterWork := []
  drop : W32 := 0
  header : Option Tile := none
  tpHold : Bool := false
  tiles : List Tile := []
deriving DecidableEq, Repr, Inhabited

/-- The shared time counter (R251, R252): `good` counts syncs in a row with an error of at most 4 ticks, `slew` is the
correction left, `phase` the ticks since the last tick of correction, `hold` the ticks for which the count is held. -/
structure Stc where
  now : W64 := 0
  locked : Bool := false
  root : Bool := false
  lostLock : Bool := false
  err : W16 := 0
  good : Nat := 0
  slew : Int := 0
  phase : Nat := 0
  hold : Nat := 0
deriving DecidableEq, Repr, Inhabited

/-! ### Lay (spec/15) -/

/-- One loaded section: TYPE and its elements (R367). -/
structure Section where
  type : Nat := 0
  els : List Nat := []
deriving DecidableEq, Repr, Inhabited

/-- The lay in force (R374, R388): elements of sections 0x01 to 0x08, and the identity of the image. -/
structure Lay where
  loaded : Bool := false
  pending : Bool := true
  serving : Bool := false
  training : Bool := false
  tandem : Bool := false
  assay : Bool := false
  sigSkipped : Bool := false
  keyGen : BitVec 2 := 0
  id : W32 := 0
  build : W32 := 0
  lastErr : W16 := 0
  keyDigest : W32 := 0
  secs : List Section := []
  image : List Hank := []
deriving DecidableEq, Repr, Inhabited

/-! ### Observation (spec/16) -/

/-- A unit instance's watchdog (R403): when it last restarted, the instance's output count then, the ticks counted up to the last
pause, since when it counts on, whether the instance is idle, and whether it was reported. -/
structure Watch where
  unit : Nat := 0
  inst : Nat := 0
  since : Nat := 0
  seen : Nat := 0
  ticks : Nat := 0
  from_ : Option Nat := none
  idle : Bool := true
  hit : Bool := false
deriving DecidableEq, Repr, Inhabited

/-- The observation unit (R389 to R412). `left` is how many lines the reservoir still takes, none for no limit (R401). -/
structure Obs where
  glob : List Nat := List.replicate 18 0
  ctxSel : BitVec 6 := 0
  enable : Bool := false
  mode : BitVec 2 := 0
  classes : BitVec 5 := 0b10011
  tracePart : BitVec 2 := 0
  ctxLo : W32 := 0xFFFFFFFF
  ctxHi : W32 := 0xFFFFFFFF
  noticeMask : BitVec 9 := 0x24
  resBase : BitVec 33 := 0
  resLines : BitVec 28 := 0
  resPre : BitVec 28 := 0
  stage : List Hank := []
  bufs : List CoilBuf := []
  state : BitVec 3 := 0
  wrapped : Bool := false
  armed : Bool := false
  trigLate : Bool := false
  cfgBad : Bool := false
  wptr : BitVec 28 := 0
  trigLine : BitVec 28 := 0
  trigValid : Bool := false
  written : Nat := 0
  left : Option Nat := none
  lost : W32 := 0
  lostRun : Nat := 0
  acts : List (Nat × Nat) := []
  watch : List Watch := []
deriving DecidableEq, Repr, Inhabited

/-- Hang report, DUMP and the halt (R403 to R410, Table 16.11). `stamp` is S of the stop, `freezeKey` the free value that the
freeze stamps of the instances come from, `inHold` that the stop met a throttle hold (R431). -/
structure Hang where
  limit : W32 := 10000000
  hung : Bool := false
  unit : Nat := 0
  inst : Nat := 0
  ctx : Option Nat := none
  halted : Bool := false
  units : BitVec 21 := 0
  dumpBase : BitVec 33 := 0
  dumpLines : BitVec 28 := 0
  written : Bool := false
  trunc : Bool := false
  stamp : Nat := 0
  freezeKey : Nat := 0
  inHold : Bool := false
deriving DecidableEq, Repr, Inhabited

/-! ### Power (spec/17) -/

/-- The sources of the effective ceiling (R426). -/
structure CeilSrc where
  inp : BitVec 12 := 0
  valid : Bool := false
  sw : BitVec 12 := 1180
  fail : BitVec 12 := 780
  hold : Bool := false
deriving DecidableEq, Repr, Inhabited

/-- Rails, temperature, pace, energy, forecast and throttle (R413 to R433). Energies and the bucket are held in units of
10^-13 J, draws in units of 0.1 W. `binding` is the throttle hold of the bucket, `strobes` counts the pulses on PWR_FC_STROBE.
`accAt` is the tick up to which static energy is accounted, `secAt` the second that `secEnergy` belongs to and `endEnergy` the
energy of the second before it. `win` and `paceWin` are the last throttle and pace windows whose row ran, `hintAt` the second
whose publication has shifted the hints, `ceilOld` the ceiling's sources before their change at `ceilAt` (R8, R431). -/
structure Pwr where
  rate : W16 := 0
  min : W16 := 0
  max : W16 := 0
  vzc : BitVec 10 := 0
  vzs : BitVec 10 := 0
  tj : BitVec 8 := 0
  sensor : BitVec 4 := 0
  railLow : Bool := false
  railHigh : Bool := false
  sramHold : Bool := false
  floor : Bool := false
  ceilLost : Bool := false
  hot : Bool := false
  breached : Bool := false
  ceilSw : BitVec 12 := 1180
  ceilFail : BitVec 12 := 780
  holdToDecl : Bool := false
  tjMargin : BitVec 7 := 10
  ceilIn : BitVec 12 := 0
  ceilValid : Bool := false
  c : Nat := 0
  source : Nat := 0
  held : W64 := 0
  heldSince : Nat := 0
  lat : W16 := 2400
  fcSeq : W32 := 0
  declNow : Nat := 0
  actLast : Nat := 0
  energy : List Nat := List.replicate 8 0
  accAt : Nat := 0
  secAt : Nat := 0
  secEnergy : Nat := 0
  endEnergy : Nat := 0
  win : Option Nat := none
  paceWin : Option Nat := none
  hintAt : Option Nat := none
  ceilOld : CeilSrc := {}
  ceilAt : Option Nat := none
  winAt : Nat := 0
  winSpent : Nat := 0
  fc : List Nat := List.replicate 60 0
  hint : List Nat := List.replicate 60 0
  hintDefault : W16 := 1180
  decl : List (Nat × Nat) := []
  bucket : Int := 0
  binding : Bool := false
  raised : List (Nat × Nat) := []
  strobes : Nat := 0
  published : Option Nat := none
  ended : Option Nat := none
deriving DecidableEq, Repr, Inhabited

/-! ### Start, shutdown and assay (spec/18) -/

/-- An assay in progress (R444 to R452). `cur` is the slice in progress, whose save starts at tick `start`; until then the
slice before it, `prev`, is being restored (R445). -/
structure Assay where
  byCommand : Bool := false
  todo : List Nat := []
  cur : Option Nat := none
  prev : Option Nat := none
  first : Nat := 0
  start : Nat := 0
  done : List Nat := []
  partials : Nat := 0
  visit : List Nat := []
deriving DecidableEq, Repr, Inhabited

/-- An aging monitor: class, array, index, its last WEAR and the STC second in which it was measured (R453). -/
structure Monitor where
  cls : Nat := 0
  arr : Nat := 0
  idx : Nat := 0
  wear : Nat := 0
  sec : Nat := 0
deriving DecidableEq, Repr, Inhabited

/-- The start pins and the assay registers (R434 to R458). `life` is IN_FORCE, `grade` the mask in force, `repair` the
map in force (R381, R385). DX_OFF is computed
(`State.dxOff`). `startWaits` is a rising edge of DX_EN whose start has not begun, `assayNext` a shutdown assay that waits for
an assay by command to end. `fails` holds every failure of the latest assay, the fail log being its first 64 (R447). -/
structure Block where
  porst : Bool := false
  dxEn : Bool := false
  dxReady : Bool := false
  startWaits : Bool := false
  started : Bool := false
  shut : Bool := false
  shutting : Bool := false
  life : BitVec 2 := 0
  gradeRead : Bool := false
  grade : List W32 := []
  repair : List W32 := []
  kind : Bool := false
  asyPartial : Bool := false
  asyRan : Bool := false
  substNew : Bool := false
  autoCommit : Bool := false
  first : BitVec 7 := 0
  last : BitVec 7 := 0
  budget : W32 := 200000
  next : BitVec 7 := 0
  cover : BitVec 128 := 0
  asyState : BitVec 3 := 0
  asySlice : BitVec 7 := 0
  assay : Option Assay := none
  assayNext : Bool := false
  afterCommit : Option (List Nat) := none
  fails : List (W32 × W32) := []
  failCnt : Nat := 0
  overflow : Bool := false
  noBudget : Bool := false
  unrepaired : Bool := false
  partialLast : Bool := false
  failSel : BitVec 6 := 0
  wearCls : BitVec 4 := 0
  wearArr : BitVec 2 := 0
  wearIdx : BitVec 7 := 0
  wear : List Monitor := []
  wearWarn : W16 := 300
  wearSub : W16 := 500
  ctrl1500 : BitVec 4 := 0
  data1500 : W32 := 0
deriving DecidableEq, Repr, Inhabited

/-! ### The whole -/

/-- The fabric address and the bight chain (R361 to R365). -/
structure FabAddr where
  addr : BitVec 17 := 0
  locked : Bool := false
  bad : Bool := false
  repeat_ : Bool := false
  bco : Option (BitVec 24) := none
deriving DecidableEq, Repr, Inhabited

/-- A record of the tally store: the setting's words, and whether its CRC passes (R380, R383). -/
structure TalRec where
  words : List W32
  good : Bool
deriving DecidableEq, Repr, Inhabited

/-- The tally store and its registers (R380 to R388): the records of the four settings in commit order, the staging
words, and the commit in progress (setting, words). -/
structure Tally where
  recs0 : List TalRec := []
  recs1 : List TalRec := []
  recs2 : List TalRec := []
  recs3 : List TalRec := []
  sel : BitVec 2 := 0
  stageAddr : BitVec 6 := 0
  stage : List W32 := List.replicate 52 0
  valueAddr : BitVec 6 := 0
  refused : Bool := false
  code : W16 := 0
  busy : Option (Nat × List W32) := none
deriving DecidableEq, Repr, Inhabited

/-- A unit instance granted to a command (R16, R213): the unit by its code of Table 11.8, the instance, the number of the open
command, and its context. `item` is for a garnet array which work unit it runs, for a halyard engine WORK of Table 9.10; `wait` says
what access an engine waits for: none, a read, a write, a read of a page table. -/
structure Grant where
  unit : Nat := 0
  inst : Nat := 0
  oid : Nat := 0
  ctx : Nat := 0
  item : Nat := 0
  wait : Nat := 0
deriving DecidableEq, Repr, Inhabited

/-- The grants of units that stand between two steps: halyard engines (0), garnet arrays (1), selection (2), flint sorter (3),
splice engine (5), Hawser with its batch (6); Marlin's is `Marlin.held`. `lcRuns` counts by unit the latency-critical grants in a row made while a
best-effort request waited (R297); `parked` names by unit and command the buffers that hold the live state of a yield (R296). -/
structure Units where
  grants : List Grant := []
  lcRuns : List (Nat × Nat) := []
  parked : List (Nat × Nat × CoilBuf) := []
deriving DecidableEq, Repr, Inhabited

/-- Everything but the queue of commands, the fabric address and the tally store. -/
structure Body where
  mem : List Host.Cell := []
  blk : Block := {}
  cp : CmdPort := {}
  ctxs : List Ctx := List.replicate 64 {}
  opens : List Open := []
  nextOid : Nat := 0
  nextUid : Nat := 0
  freeCtr : Nat := 0
  xlt : Xlt := {}
  coil : Coil := {}
  parts : List Part := List.replicate 4 {}
  cr : CtxRegs := {}
  slots : List Slot := List.replicate 2 {}
  units : Units := {}
  mrl : Marlin := {}
  stepSel : BitVec 6 := 0
  ledSel : BitVec 6 := 0
  ledEnt : BitVec 3 := 0
  gens : List GenEnt := []
  genSel : BitVec 6 := 0
  skn : Skein := {}
  fab : Fabric := {}
  thm : Thimble := {}
  stc : Stc := {}
  lay : Lay := {}
  obs : Obs := {}
  hang : Hang := {}
  pwr : Pwr := {}
deriving DecidableEq, Repr, Inhabited

/-- The state of the block: the commands that wait, first in first out, and the parts above. -/
structure State where
  pending : List Instr := []
  addr : FabAddr := {}
  tal : Tally := {}
  b : Body := {}
deriving DecidableEq, Repr, Inhabited

/-- The block right after reset: every field at its default value. -/
def State.reset : State := {}

end Sys2Proof.Machine
end

