-- ==== Sys2Proof/Machine/Ops.lean ====
section
/-! DEFINITION. The named operations that every unit shares: table access, counters and trace staging (spec/16), replies
and notices (spec/14), memory, translation and coil buffers (spec/11). -/

namespace Sys2Proof.Machine

/-! ### Table access -/

def Body.ctx (b : Body) (c : Nat) : Ctx := tget b.ctxs c
def Body.modCtx (b : Body) (c : Nat) (f : Ctx → Ctx) : Body := { b with ctxs := tmod b.ctxs c f }
def Body.part (b : Body) (p : Nat) : Part := tget b.parts p
def Body.partOf (b : Body) (c : Nat) : Nat := (b.ctx c).part.toNat
def Body.now (b : Body) : Nat := b.stc.now.toNat
def Body.openOf (b : Body) (oid : Nat) : Option Open := b.opens.find? (fun o => o.oid == oid)
def Body.modOpen (b : Body) (oid : Nat) (f : Open → Open) : Body :=
  { b with opens := b.opens.map (fun o => if o.oid == oid then f o else o) }
def Body.setWork (b : Body) (oid : Nat) (w : Work) : Body := b.modOpen oid (fun o => { o with work := w })
def Body.gen (b : Body) (uid : Nat) : Option GenEnt := b.gens.find? (fun g => g.uid == uid)
def Body.modGen (b : Body) (uid : Nat) (f : GenEnt → GenEnt) : Body :=
  { b with gens := b.gens.map (fun g => if g.uid == uid then f g else g) }
def Body.group (b : Body) (n : Nat) : Group := tget b.thm.groups n
def Body.modGroup (b : Body) (n : Nat) (f : Group → Group) : Body :=
  { b with thm := { b.thm with groups := tmod b.thm.groups n f } }
def Body.port (b : Body) (n : Nat) : Port := tget b.fab.ports n
def Body.modPort (b : Body) (n : Nat) (f : Port → Port) : Body :=
  { b with fab := { b.fab with ports := tmod b.fab.ports n f } }

/-- Element `i` of section `t` of the lay in force; 0 without one (R360, R367). -/
def Body.layEl (b : Body) (t i : Nat) : Nat :=
  match b.lay.secs.find? (fun s => s.type == t) with
  | some s => s.els.getD i 0
  | none => 0

/-- Word `i` of the grade mask in force; before the first start's tally read no grade is set (R384, R385). -/
def gradeWord (b : Body) (i : Nat) : Nat := ((b.blk.grade.map BitVec.toNat).getD i 0)

def Ctx.created (c : Ctx) : Bool := c.st != .absent

/-! ### Sorting -/

/-- Insert by ascending key, after equal ones. -/
def insKey {α : Type} (key : α → Nat) (x : α) : List α → List α
  | [] => [x]
  | y :: ys => if key x < key y then x :: y :: ys else y :: insKey key x ys

def sortKey {α : Type} (key : α → Nat) (l : List α) : List α := l.foldl (fun acc x => insKey key x acc) []

/-! ### Command records (Table 14.3) -/

def CmdRec.code (r : CmdRec) : Nat := bits r.w0 7 0
def CmdRec.ctx (r : CmdRec) : Nat := bits r.w0 13 8
def CmdRec.live (r : CmdRec) : Bool := bit r.w0 14
def CmdRec.isGlobal (r : CmdRec) : Bool := bit r.w0 15
def CmdRec.bodyHanks (r : CmdRec) : Nat := bits r.w0 23 16
def CmdRec.seq (r : CmdRec) : Nat := r.w1
def CmdRec.addr (r : CmdRec) : Nat := r.w2 + 2 ^ 32 * bits r.w3 11 0
def CmdRec.b (r : CmdRec) (i : Nat) : Nat := r.body.getD i 0
/-- The queue of a record: its context, or 64 for the global queue (R350). -/
def CmdRec.queue (r : CmdRec) : Nat := if r.isGlobal then 64 else r.ctx
/-- A record's length in hanks. -/
def CmdRec.hanks (r : CmdRec) : Nat := 1 + r.bodyHanks

/-! ### Counters (R389, R390) -/

def bump (l : List Nat) (k n : Nat) : List Nat := tset l k ((l.getD k 0 + n) % 2 ^ 64)

/-- The counters with the events stamped before a tick (R8, R393). -/
def Ctx.before (now : Nat) (x : Ctx) : List Nat := if x.ctrAt == now then x.ctrOld else x.ctr

/-- `n` events of counter `k` at a tick. -/
def Ctx.count (now k n : Nat) (x : Ctx) : Ctx :=
  { x with ctr := bump x.ctr k n, ctrOld := x.before now, ctrAt := now }

/-- `n` events of counter `k`, of a context or of the block alone (R389). -/
def count (k n : Nat) (c : Option Nat) (b : Body) : Body :=
  let b := { b with obs := { b.obs with glob := bump b.obs.glob k n } }
  match c with
  | some c => if (b.ctx c).created then b.modCtx c (Ctx.count b.now k n) else b
  | none => b

/-! ### Energy and handshakes (R403, R419, R420, R427) -/

/-- The static draw at the rails and the temperature reported, in units of 0.1 mW; 0 before the first rail reading. -/
def Pwr.staticMw (p : Pwr) : Nat :=
  if p.vzc == 0 && p.vzs == 0 then 0 else Config.staticDraw p.vzc.toNat p.vzs.toNat p.tj.toNat

/-- Energy of a class, in the second and out of the bucket. -/
def Pwr.spend (p : Pwr) (cls e : Nat) : Pwr :=
  { p with energy := tmod p.energy cls (fun x => (x + e) % (2 ^ 64 * 10 ^ 7)), secEnergy := p.secEnergy + e,
           bucket := p.bucket - (e : Nat) }

/-- Throttle windows have 1,024 ticks (R427). -/
def windowOf (now : Nat) : Nat := now / 1024

/-- Energy incurred in the window of tick `now`, apart: that window's cap comes before it (R8, R427). -/
def Pwr.inWindow (now e : Nat) (p : Pwr) : Pwr :=
  { p with winAt := windowOf now, winSpent := (if p.winAt == windowOf now then p.winSpent else 0) + e }

/-- Static energy up to tick `now`, each part in the second and in the window in which it was drawn (R8, R419). -/
def Pwr.accrue (now : Nat) (p : Pwr) : Pwr :=
  let w := p.staticMw
  let s := now / 10 ^ 9
  let p := p.inWindow now (w * (now - Nat.max p.accAt (1024 * windowOf now)))
  if s == p.secAt then { p.spend 7 (w * (now - p.accAt)) with accAt := now }
  else
    let from_ := if s == p.secAt + 1 then p.accAt else (s - 1) * 10 ^ 9
    let e := (if s == p.secAt + 1 then p.secEnergy else 0) + w * (s * 10 ^ 9 - from_)
    { p.spend 7 (w * (now - p.accAt)) with
      accAt := now, secAt := s, endEnergy := e, secEnergy := w * (now - s * 10 ^ 9) }

/-- Static energy up to now (R419). -/
def accrue (b : Body) : Body := { b with pwr := b.pwr.accrue b.now }

/-- `n` completed handshakes of a unit for a command of a class (R419, R420): each adds its fixed dynamic energy, scaled by
(VZC / 0.75 V)². -/
def charge (cls unit n : Nat) (b : Body) : Body :=
  let b := accrue b
  let e := n * Config.handshake unit * b.pwr.vzc.toNat ^ 2 / 750 ^ 2
  { b with pwr := (b.pwr.spend cls e).inWindow b.now e }

/-- The energy class of a command (Table 17.2). -/
def classOf (code : Nat) : Nat :=
  if code == Cmd.routeStep then 0 else if code == Cmd.combine then 1 else if code == Cmd.copy then 2
  else if code == Cmd.collect || code == Cmd.muster then 3
  else if code == Cmd.dispatch || code == Cmd.cancelBatch then 4
  else if code == Cmd.saveContext || code == Cmd.resume then 5 else 6

/-- Handshakes counted for an instance's watchdog. -/
def bumpAct (key n : Nat) (acts : List (Nat × Nat)) : List (Nat × Nat) :=
  if acts.any (fun a => a.1 == key) then acts.map (fun a => if a.1 == key then (key, a.2 + n) else a)
  else acts ++ [(key, n)]

/-- `n` completed handshakes on an output channel of a unit instance for a command of a class: its watchdog restarts (R403)
and the energy counts. -/
def acts (cls unit inst n : Nat) (b : Body) : Body :=
  charge cls unit n { b with obs := { b.obs with acts := bumpAct (16 * unit + inst) n b.obs.acts } }

/-- One completed handshake. -/
def act (cls unit inst : Nat) (b : Body) : Body := acts cls unit inst 1 b

/-! ### Turns of best-effort requests (R297) -/

/-- Latency-critical grants in a row that a unit has made while a best-effort request waited. -/
def lcRun (b : Body) (unit : Nat) : Nat := ((b.units.lcRuns.find? (fun p => p.1 == unit)).map Prod.snd).getD 0

/-- It is the turn of a best-effort request (R297). -/
def floorTurn (b : Body) (unit : Nat) : Bool := b.cr.beFloor != 0 && b.cr.beFloor.toNat ≤ lcRun b unit

/-- A grant is counted for BE_FLOOR (R297). -/
def noteGrant (unit : Nat) (cls beWaits : Bool) (b : Body) : Body :=
  let n := if cls && beWaits then lcRun b unit + 1 else 0
  { b with units := { b.units with lcRuns := b.units.lcRuns.filter (fun p => p.1 != unit) ++ [(unit, n)] } }

/-! ### Trace staging (R396 to R402) -/

/-- A trace record (Table 16.2). -/
def traceHank (stamp unit : Nat) (c : Option Nat) (kind w2 w3 : Nat) : Hank :=
  i32Hank [stamp % 2 ^ 32,
    fld 15 0 (stamp / 2 ^ 32) + fld 20 16 unit + fld 26 21 (c.getD 0) + fld 27 27 (b2n c.isSome) + fld 31 28 kind, w2, w3]

/-- The staging holds four buffers of 256 hanks (R398). -/
def stageRoom : Nat := 1024

/-- The class bit of a record kind in OBS_TRACE_CTRL [7:3]; kinds 6 to 8 are always produced (Table 16.3). -/
def kindOn (cls : BitVec 5) (kind : Nat) : Bool :=
  if kind ≤ 2 then cls.getLsbD 0 else if kind == 3 then cls.getLsbD 1 else if kind == 4 then cls.getLsbD 2
  else if kind == 5 then cls.getLsbD 3 else if kind == 9 then cls.getLsbD 4 else true

/-- A record is produced only for traced contexts; one with CTX_VALID 0 always is (R397). -/
def ctxTraced (o : Obs) : Option Nat → Bool
  | none => true
  | some c => if c < 32 then o.ctxLo.getLsbD c else o.ctxHi.getLsbD (c - 32)

/-- A record that finds no room is lost and counted (R398, R401). -/
def obsLose (o : Obs) : Obs := { o with lost := o.lost + 1, lostRun := o.lostRun + 1 }

/-- A hank into the staging, preceded by a LOST record when records were lost (R398). -/
def obsStage (now : Nat) (h : Hank) (o : Obs) : Obs :=
  if o.lostRun == 0 then
    if o.stage.length < stageRoom then { o with stage := o.stage ++ [h] } else obsLose o
  else if o.stage.length + 2 ≤ stageRoom then
    { o with stage := o.stage ++ [traceHank now 19 none 8 o.lostRun 0, h], lostRun := 0 }
  else obsLose o

/-- A trace record on the observation state: produced while the trace runs, lost once the reservoir is full. -/
def obsTrace (now unit : Nat) (c : Option Nat) (kind w2 w3 : Nat) (o : Obs) : Obs :=
  if !kindOn o.classes kind || !ctxTraced o c then o
  else if o.state == 2 || o.state == 3 then obsStage now (traceHank now unit c kind w2 w3) o
  else if o.state == 4 then obsLose o
  else o

def trace (unit : Nat) (c : Option Nat) (kind w2 w3 : Nat) (b : Body) : Body :=
  { b with obs := obsTrace b.now unit c kind w2 w3 b.obs }

/-- A trigger (R401, R402): SOURCE 0 software, 1 notice. It acts once while ARMED; one that comes when stop mode is FULL sets
TRIG_LATE. TRIG_LINE is the line that the staged record will stand in; in stop mode, where the record may fall past the last
line, the line it would have (DESIGN CHOICE, log 96). In pivot mode the reservoir then takes the lines up to the first kept
pre-trigger line. In STAGING the record finds room once a buffer has been granted (log 96). -/
def obsTrigger (now source code : Nat) (o : Obs) : Obs :=
  if o.state == 4 && o.mode == 1 then { o with armed := false, trigLate := true }
  else if !o.armed then o
  else if o.state == 4 then { o with armed := false }
  else if o.state == 2 || o.state == 1 then
    let before := o.stage.length / 15
    let lines := o.resLines.toNat
    let line := if lines == 0 then 0 else if o.mode == 1 then o.wptr.toNat + before else (o.wptr.toNat + before) % lines
    let o1 := if o.state == 1 && o.bufs.isEmpty then obsLose o else obsStage now (traceHank now 19 none 7 source code) o
    let o2 := { o1 with armed := false, trigLine := BitVec.ofNat 28 line, trigValid := true }
    if o.mode == 0 then
      let kept := min o.resPre.toNat (o.written + before)
      { o2 with state := if o.state == 1 then 1 else 3, left := some (before + (lines - kept)) }
    else o2
  else o

/-! ### Replies and notices (R353 to R357) -/

def OutRec.size (r : OutRec) : Nat := 1 + r.hanks

/-- Hanks of the outward store that replies, or notices, hold. -/
def outHeld (b : Body) (notice : Bool) : Nat :=
  ((b.cp.out.filter (fun r => r.notice == notice)).map OutRec.size).sum

def replyRoom : Nat := 4096 - 512
def noticeRoom : Nat := 512

/-- N_FAULT_SOFT and N_FAULT_HARD are never dropped (R357). -/
def neverDropped (code : Nat) : Bool := code == Ntc.faultSoft || code == Ntc.faultHard

/-- Hanks of the reply part in use: replies, and fault notices beyond the reserve (R357). -/
def replyHeld (b : Body) : Nat := outHeld b false + (outHeld b true - noticeRoom)

/-- Raise a notice: its trace record, its place in the outward store or its drop, and the trigger it may be (R355 to R357,
R402). -/
def notice (code : Nat) (c : Option Nat) (seq status hanks : Nat) (body : List Nat) (unit : Nat) (b : Body) : Body :=
  let b := trace unit c 3 code status b
  let r : OutRec := { kind := code, notice := true, ctx := c, body := body, hanks := hanks, seq := seq, status := status }
  let b :=
    if outHeld b true + r.size ≤ noticeRoom || neverDropped code then
      { b with cp := { b.cp with out := b.cp.out ++ [r] } }
    else { b with cp := { b.cp with noticeLost := b.cp.noticeLost + 1, noticeLostFlag := true, lostFlag := true } }
  if b.obs.noticeMask.getLsbD code && code != 0 then { b with obs := obsTrigger b.now 1 code b.obs } else b

/-- The ledger entry of a step shows DONE (Table 7.2). -/
def setLedgerDone (c uid : Nat) (b : Body) : Body :=
  b.modCtx c (fun x => { x with ledger := x.ledger.map (fun e => if e.uid == uid then { e with done := true } else e) })

/-- A reply stands in the outward store; an N_DONE sets DONE in its ledger entry (R151). -/
def storeReply (r : OutRec) (b : Body) : Body :=
  let b := { b with cp := { b.cp with out := b.cp.out ++ [r] } }
  match r.ledger with
  | some u => setLedgerDone r.shown u b
  | none => b

/-- A reply record enters the outward store, or waits for room (R357). -/
def pushReply (r : OutRec) (b : Body) : Body :=
  if b.cp.waitOut.isEmpty && replyHeld b + r.size ≤ replyRoom then storeReply r b
  else { b with cp := { b.cp with waitOut := b.cp.waitOut ++ [r] } }

/-- The context of a record for its reply: none with GLOBAL 1 (R354). -/
def CmdRec.ctxOpt (r : CmdRec) : Option Nat := if r.isGlobal then none else some r.ctx

/-- LAY_LAST_ERR takes the code of a refused LOAD_LAY or APPLY_SPLICE (Table 15.9). -/
def layErr (code status : Nat) (b : Body) : Body :=
  if code == Cmd.loadLay || code == Cmd.applySplice then { b with lay := { b.lay with lastErr := BitVec.ofNat 16 status } }
  else b

/-- Refuse a record: BODY 0, KIND its CODE, STATUS the code; the reply counts, and its CMD_END is traced (R354, R394). -/
def refuse (r : CmdRec) (status : Nat) (b : Body) : Body :=
  let b := layErr r.code status b
  let b := pushReply { kind := r.code, ctx := r.ctxOpt, shown := r.ctx, seq := r.seq, status := status } b
  let b := trace 13 r.ctxOpt 1 r.seq (r.code + 2 ^ 16 * status) b
  count Cnt.cmdDone 1 r.ctxOpt b

/-- The COUNT records of a command: one for each counter whose latches differ (R396). -/
def traceCounts (unit : Nat) (c : Option Nat) (start fin : List Nat) (b : Body) : Body :=
  (List.range 18).foldl (fun b k =>
    let d := (fin.getD k 0 + 2 ^ 64 - start.getD k 0) % 2 ^ 56
    if fin.getD k 0 == start.getD k 0 then b
    else trace unit c 2 (d % 2 ^ 32) (fld 23 0 (d / 2 ^ 32) + fld 28 24 k) b) b

/-- The reply of an open command leaves: end latch, counters, trace, and the command is open no longer (R354, R393). -/
def sendReply (o : Open) (r : OutRec) (traced : Bool) (b : Body) : Body :=
  let fin := (b.ctx o.ctx).before b.now
  let copt := o.cmd.ctxOpt
  let b := match copt with
    | some c => b.modCtx c (fun x => { x with latch :=
        { valid := true, seq := o.cmd.seq, code := o.cmd.code, status := r.status, stampS := o.stamp, stampE := b.now,
          start := o.start, fin := fin } })
    | none => b
  let b := if traced then
      let b := trace 13 copt 1 o.cmd.seq (o.cmd.code + 2 ^ 16 * r.status) b
      if copt.isSome then traceCounts 13 copt o.start fin b else b
    else b
  let b := pushReply { r with acc := true } b
  let b := count Cnt.cmdDone 1 copt b
  { b with opens := b.opens.filter (fun x => x.oid != o.oid) }

/-! ### Memory (R37 to R43, R254 to R260)

The stacks behind the memory ports are kept as DX4 sees them, as bytes by physical byte address, sorted, with no entry
that equals what an unlisted address reads as. -/

/-- The seal of a line of 255 zero bytes (R38). -/
def sealZero : Byte := 0x42

/-- What an unlisted address reads as: a sealed line of zeros. DESIGN CHOICE, unsafe, log 1. -/
def memDefault (a : Nat) : Byte := if a % 256 = 255 then sealZero else 0

/-- The canonical form: addresses strictly rising, no entry equal to the default. -/
def Memory.wf (m : List Host.Cell) : Bool :=
  match m with
  | [] => true
  | c :: rest => c.2 != memDefault c.1 && (rest.head?.all (fun d => c.1 < d.1)) && Memory.wf rest

/-- The byte at an address. -/
def memByte (m : List Host.Cell) (a : Nat) : Byte :=
  match m with
  | [] => memDefault a
  | c :: rest => if c.1 = a then c.2 else memByte rest a

/-- `n` bytes from address `a`, walking a list whose entries lie at or above `a`. -/
def memWalk (m : List Host.Cell) (a : Nat) : Nat → List Byte
  | 0 => []
  | n + 1 =>
    match m with
    | [] => memDefault a :: memWalk [] (a + 1) n
    | c :: rest =>
      if c.1 = a then c.2 :: memWalk rest (a + 1) n else memDefault a :: memWalk (c :: rest) (a + 1) n

/-- `n` bytes from address `a`. -/
def memRead (m : List Host.Cell) (a n : Nat) : List Byte := memWalk (m.dropWhile (fun c => c.1 < a)) a n

/-- The cells of consecutive bytes that differ from the default. -/
def memCells (a : Nat) : List Byte → List Host.Cell
  | [] => []
  | x :: xs => if x = memDefault a then memCells (a + 1) xs else (a, x) :: memCells (a + 1) xs

/-- Write consecutive bytes from address `a`, keeping the canonical form. -/
def memWrite (m : List Host.Cell) (a : Nat) (xs : List Byte) : List Host.Cell :=
  m.filter (fun c => c.1 < a) ++ memCells a xs ++ m.filter (fun c => a + xs.length ≤ c.1)

/-- The 256 bytes of a physical line (R43). -/
def memLine (m : List Host.Cell) (line : Nat) : List Byte := memRead m (256 * line) 256

/-- The 15 hanks of a line's bytes (R37). -/
def lineHanks (bs : List Byte) : List Hank := (chunks 17 (bs.take 255)).map hOfBytes

/-- The bytes of a whole line with its seal (R37 to R39). -/
def sealedLine (hs : List Hank) : List Byte :=
  let body := ((hs ++ List.replicate 15 0).take 15).flatMap hBytes
  body ++ [crc8 body]

/-- Bytes a response carries (R254). -/
def responseBytes (d : BitVec 2048) : List Byte := leBytes 256 d.toNat

/-! ### Streams -/

/-- Why a stream stops (R273): a translation miss with its level and the hank's address and access, or a hard fault with
its code, ADDR_KIND, address, unit override and the words of N_FAULT_HARD hanks 1 and 2; `wait` is a read of acceptance that
must wait for a write of an earlier command of the context (R15), or a request that finds no identifier or a port that is not
ready (R285, R292): 1 for a read, 2 for a write, 3 for a read of a page table. -/
inductive Stop where
  | soft (level access vaddr : Nat)
  | hard (code kind addr : Nat) (unit : Option Nat) (extra : List Nat)
  | wait (on : Nat)
deriving DecidableEq, Repr

/-- A computation over the block that a fault may stop; what it did before the stop stands (R274). -/
abbrev Io := ExceptT Stop (StateM Body)

def Io.fail {α : Type} (x : Stop) : Io α := fun b => (Except.error x, b)
def Io.upd (f : Body → Body) : Io Unit := fun b => (Except.ok (), f b)
def Io.get : Io Body := fun b => (Except.ok b, b)
def Io.hard {α : Type} (code kind addr : Nat) : Io α := Io.fail (.hard code kind addr none [])

/-- Run a stream on the block. -/
def Io.on {α : Type} (m : Io α) (b : Body) : Except Stop α × Body := m b

/-- The accesses that translation checks (R264), in the codes of Table 11.8: READ, WRITE, MWRITE, RACC. -/
inductive Acc where
  | rd | wr | mwr | acc
deriving DecidableEq, Repr

def Acc.code : Acc → Nat
  | .rd => 0 | .wr => 1 | .mwr => 2 | .acc => 3

/-- STACK_LINES times 32: the first line that does not exist (R260). -/
def lineLimit (b : Body) : Nat := 32 * bits (b.layEl 1 5) 27 0

/-- The first response presented for a line, and the bridge without it. -/
def takeResponse (l : List Response) (line : Nat) : Option Response × List Response :=
  (l.find? (fun r => r.line == line), l.eraseP (fun r => r.line == line))

/-- The status of one access to a line: a presented response decides, otherwise 0. Status 1 counts, status 2 is MEM_UE
(R258). Answers the data of the response, if it carries any. -/
def portStatus (c : Option Nat) (line : Nat) : Io (Option (BitVec 2048)) := do
  let b ← Io.get
  let (r, rest) := takeResponse b.xlt.bridge line
  match r with
  | none => pure none
  | some r =>
    Io.upd (fun b => { b with xlt := { b.xlt with bridge := rest } })
    if r.status == 1 then Io.upd (count Cnt.eccCorr 1 c)
    if r.status == 2 then Io.hard Code.memUe 2 line
    pure r.data

/-- The port of a physical line (R260). -/
def portOfLine (l : Nat) : Nat := bits l 4 0 ^^^ bits l 9 5

/-- A free request identifier of the partition's block on a line's port (R292). -/
def freeId (b : Body) (part line : Nat) : Option Nat :=
  let x := (b.part part).port.toNat
  let used := (b.xlt.reqs.filter (fun r => portOfLine r.line == portOfLine line)).map PortReq.id
  ((List.range (bits x 16 8)).map (fun i => bits x 7 0 + i)).find? (fun i => !used.contains i)

/-- The slots of a line as RQ_MASK. -/
def slotMask (items : List (Nat × Hank)) : Nat := ((List.range 15).map (fun s => if items.any (fun p => p.1 == s) then 2 ^ s else 0)).sum

/-- The request that a port presents (R254, R255): operation, line, identifier, mask and data. -/
def presentRq (op line id mask : Nat) (data : List Byte) (b : Body) : Body :=
  { b with xlt := { b.xlt with ports := tmod b.xlt.ports (portOfLine line) (fun p => { p with
      op := BitVec.ofNat 3 op, line := BitVec.ofNat 28 (line / 32), id := BitVec.ofNat 8 id, mask := BitVec.ofNat 15 mask,
      data := if data.isEmpty then p.data else BitVec.ofNat 2048 (ofLe data) }) } }

/-- What a stalled request of an operation waits for. -/
def waitOn (op : Nat) : Nat := if op == 0 then 1 else 2

/-- The identifier of a request: one of the partition's block; requests of no context bear 0 (R292; DESIGN CHOICE, log 41). -/
def requestId (b : Body) (c : Option Nat) (line : Nat) : Option Nat :=
  match c with
  | none => some 0
  | some c => freeId b (b.partOf c) line

/-- Whether a line's port takes requests now. -/
def portReady (b : Body) (line : Nat) : Bool := (tget b.xlt.ports (portOfLine line)).ready

/-- A port whose RQ_READY is 0 holds the request that it presents (R285). -/
def holdRq (held : Bool) (line : Nat) (b : Body) : Body :=
  { b with xlt := { b.xlt with ports := tmod b.xlt.ports (portOfLine line) (fun p => { p with held := held }) } }

/-- A request of one line. While outstanding requests hold the partition's whole block of identifiers on the port, or the port is
not ready, the request waits (R285, R292). -/
def issueRq (c : Option Nat) (op line mask : Nat) (data : List Byte) : Io Unit := do
  let b ← Io.get
  match requestId b c line with
  | none => Io.fail (.wait (waitOn op))
  | some i => do
    Io.upd (holdRq (!portReady b line) line ∘ presentRq op line i mask data)
    if portReady b line then pure () else Io.fail (.wait (waitOn op))

/-- A request to a line finds an identifier and a ready port. -/
def canIssue (b : Body) (c : Option Nat) (line : Nat) : Bool := (requestId b c line).isSome && portReady b line

/-- One READ of a physical line (R255, R258). -/
def readOnce (c : Option Nat) (line : Nat) : Io (List Byte) := do
  issueRq c 0 line 0 []
  Io.upd (count Cnt.linesRd 1 c)
  let d ← portStatus c line
  let b ← Io.get
  pure (match d with
    | some x => responseBytes x
    | none => memLine b.mem line)

def sealOk (bs : List Byte) : Bool := crc8 (bs.take 255) == bs.getD 255 0

/-- A READ with its seal check and one repair (R40). -/
def readLine (c : Option Nat) (line : Nat) : Io (List Hank) := do
  let x ← readOnce c line
  if sealOk x then pure (lineHanks x)
  else do
    let y ← readOnce c line
    if sealOk y then do
      Io.upd (count Cnt.sealRetry 1 c)
      pure (lineHanks y)
    else Io.hard Code.sealBad 2 line

/-- What an access met, in place of its stop. -/
def Io.met {α : Type} (m : Io α) : Io (Option Stop) := fun b =>
  match m b with
  | (.ok _, b') => (.ok none, b')
  | (.error x, b') => (.ok (some x), b')

/-- A WRITE of a whole line with its seal (R39, R255), and the fault that its response reports. -/
def writeLine (c : Option Nat) (line : Nat) (hs : List Hank) : Io (Option Stop) := do
  issueRq c 1 line 0 (sealedLine hs)
  Io.upd (count Cnt.linesWr 1 c)
  Io.upd (fun b => { b with mem := memWrite b.mem (256 * line) (sealedLine hs) })
  Io.met (portStatus c line)

/-- A line with some slots replaced. -/
def mergeSlots (old : List Hank) (items : List (Nat × Hank)) : List Hank :=
  items.foldl (fun l p => tset l p.1 p.2) old

/-- The memory effect of an MWRITE on a line (R255). -/
def maskMem (m : List Host.Cell) (line : Nat) (items : List (Nat × Hank)) : List Host.Cell :=
  memWrite m (256 * line) (sealedLine (mergeSlots (lineHanks (memLine m line)) items))

/-- An MWRITE of the given slots: others are kept and the line is resealed (R41, R255); and the fault that its response
reports. -/
def maskLine (c : Option Nat) (line : Nat) (items : List (Nat × Hank)) : Io (Option Stop) := do
  issueRq c 2 line (slotMask items) (sealedLine (mergeSlots (List.replicate 15 0) items))
  Io.upd (count Cnt.linesWr 1 c)
  Io.upd (fun b => { b with mem := maskMem b.mem line items })
  Io.met (portStatus c line)

/-- One hank of a RACC: each FP32 word is added to the stored word read under tag 0x7F, the tag becomes 0x7F (R255, R256). -/
def raccHank (old new : Hank) : Hank :=
  i32Hank ((List.range 4).map (fun e => fadd (hW old e) (hW new e)))

/-- The memory effect of a RACC on a line (R255, R256). -/
def raccMem (m : List Host.Cell) (line : Nat) (items : List (Nat × Hank)) : List Host.Cell :=
  let old := lineHanks (memLine m line)
  memWrite m (256 * line) (sealedLine (mergeSlots old (items.map (fun p => (p.1, raccHank (old.getD p.1 0) p.2)))))

/-! ### Translation (R261 to R266, R291) -/

/-- A physical page lies in the window of a partition (R291). -/
def inWindow (p : Part) (page : Nat) : Bool :=
  p.ppnBase.toNat ≤ page && page < p.ppnBase.toNat + p.ppnCount.toNat

/-- A stalled read of a page table (Table 11.17). -/
def Io.walking {α : Type} (m : Io α) : Io α := fun b =>
  match m b with
  | (.error (.wait _), b') => (.error (.wait 3), b')
  | r => r

/-- A table entry: the window is checked before the line is read, then that the line exists (R262, R264, R291). -/
def tableEntry (c v base i : Nat) : Io Nat := do
  let b ← Io.get
  let line := base + i / 60
  if !inWindow (b.part (b.partOf c)) (line / 8192) then Io.hard Code.xltPart 1 v
  else if line ≥ lineLimit b then Io.hard Code.xltPhys 1 v
  else do
    let hs ← Io.walking (readLine (some c) line)
    pure (hW (hs.getD ((i % 60) / 4) 0) (i % 4))

def accAllowed (a : Acc) (rd wr acc : Bool) : Bool :=
  match a with
  | .rd => rd
  | .wr => wr
  | .mwr => wr
  | .acc => acc

/-- The checks that follow a level-2 entry, in order (R264, R291): permission, existence, window. -/
def finishXlt (c v : Nat) (a : Acc) (e : XltEntry) : Io Nat := do
  let b ← Io.get
  let vl := v / 15
  if !accAllowed a e.rd e.wr e.acc then Io.hard Code.xltPerm 1 v
  else
    let pl := e.ppn * 8192 + vl % 8192
    if pl ≥ lineLimit b then Io.hard Code.xltPhys 1 v
    else if !inWindow (b.part (b.partOf c)) e.ppn then Io.hard Code.xltPart 1 v
    else pure pl

/-- The translator holds up to 4,096 translations; the oldest makes room. DESIGN CHOICE, log 15. -/
def cacheAdd (l : List XltEntry) (e : XltEntry) : List XltEntry :=
  if l.length < 4096 then l ++ [e] else l.drop 1 ++ [e]

/-- Translate a virtual hank address of a context to its physical line (R264, R265). -/
def translate (c v : Nat) (a : Acc) : Io Nat := do
  let b ← Io.get
  let x := b.ctx c
  let vpn := (v / 15) / 8192
  if !x.rootValid then Io.hard Code.xltEntry 1 v
  else match b.xlt.cache.find? (fun e => e.ctx == c && e.vpn == vpn) with
  | some e => finishXlt c v a e
  | none => do
    let e1 ← tableEntry c v (x.root.toNat * 512) (vpn / 2 ^ 14)
    if !bit e1 31 then Io.fail (.soft 0 a.code v)
    else if bits e1 30 24 != 0 then Io.hard Code.xltEntry 1 v
    else do
      let e2 ← tableEntry c v (bits e1 23 0 * 512) (vpn % 2 ^ 14)
      if !bit e2 24 then Io.fail (.soft 1 a.code v)
      else if bits e2 23 20 != 0 || bits e2 31 28 != 0 then Io.hard Code.xltEntry 1 v
      else do
        let e : XltEntry :=
          { ctx := c, vpn := vpn, ppn := bits e2 19 0, rd := bit e2 25, wr := bit e2 26, acc := bit e2 27 }
        let pl ← finishXlt c v a e
        Io.upd (fun b => { b with xlt := { b.xlt with cache := cacheAdd b.xlt.cache e } })
        pure pl

/-! ### Hanks through a context's translation -/

def v44 (v : Nat) : Nat := v % 2 ^ 44

/-- Consecutive items that lie in one virtual line. -/
def groupLines {α : Type} : List (Nat × α) → List (Nat × List (Nat × α))
  | [] => []
  | (v, x) :: rest =>
    match groupLines rest with
    | (l, items) :: more =>
      if v / 15 = l then (l, (v % 15, x) :: items) :: more else (v / 15, [(v % 15, x)]) :: (l, items) :: more
    | [] => [(v / 15, [(v % 15, x)])]

/-- Read the named hanks; hanks that stand in one line and follow each other take one READ. -/
def readHanks (c : Nat) (vs : List Nat) : Io (List Hank) := do
  let gs := groupLines (vs.map (fun v => (v44 v, ())))
  let parts ← gs.mapM (fun g => do
    let v := 15 * g.1 + ((g.2.head?.map Prod.fst).getD 0)
    let pl ← translate c v .rd
    let hs ← readLine (some c) pl
    pure (g.2.map (fun p => hs.getD p.1 0)))
  pure parts.flatten

/-- Read `n` hanks from a base. -/
def readRun (c base n : Nat) : Io (List Hank) := readHanks c ((List.range n).map (fun i => base + i))

/-- A tandem output item (R329). -/
def tandemItem (key : Nat) (bs : List Byte) : Nat := crc32 (leBytes 8 key ++ bs)

/-- Add output items to a command's digest (R329). -/
def addItems (oid : Option Nat) (items : List (Nat × Hank)) (b : Body) : Body :=
  match oid with
  | none => b
  | some oid => b.modOpen oid (fun o => { o with
      digest := items.foldl (fun d p => d + BitVec.ofNat 64 (tandemItem p.1 (hBytes p.2))) o.digest,
      items := o.items + items.length })

/-- The access that a group of slots makes: WRITE of a whole line, MWRITE of part of one (R41, Table 11.8). -/
def groupAcc (slots : List (Nat × Hank)) : Acc := if slots.length == 15 then .wr else .mwr

/-- The groups of a unit of output, each in one virtual line. -/
def storeGroups (items : List (Nat × Hank)) : List (Nat × List (Nat × Hank)) := groupLines (items.map (fun p => (v44 p.1, p.2)))

/-- The physical lines that a unit of output stores to, one for each group. -/
def storeLines (c : Nat) (items : List (Nat × Hank)) : Io (List Nat) :=
  (storeGroups items).mapM (fun g => translate c (15 * g.1 + ((g.2.head?.map Prod.fst).getD 0)) (groupAcc g.2))

/-- Store one group of slots to its physical line. -/
def storeGroup (c : Nat) (p : (Nat × List (Nat × Hank)) × Nat) : Io (Option Stop) :=
  if p.1.2.length == 15 then writeLine (some c) p.2 (mergeSlots (List.replicate 15 0) p.1.2) else maskLine (some c) p.2 p.1.2

/-- A unit of output is issued whole: a line whose request would stall waits before any other is stored (R274). -/
def stallFirst (c : Nat) (gs : List ((Nat × List (Nat × Hank)) × Nat)) : Io Unit := do
  let b ← Io.get
  match gs.find? (fun p => !canIssue b (some c) p.2) with
  | none => pure ()
  | some p => do
    let _ ← storeGroup c p
    pure ()

/-- Write one unit of output: every line is translated and can be issued before any is written (R274), and every line is written before the fault
of a response stops the stream, so that no unit of output is left partly written (R155, R274). -/
def writeHanks (c : Nat) (oid : Option Nat) (items : List (Nat × Hank)) : Io Unit := do
  let pls ← storeLines c items
  stallFirst c ((storeGroups items).zip pls)
  let met ← ((storeGroups items).zip pls).mapM (storeGroup c)
  Io.upd (addItems oid (items.map (fun p => (v44 p.1, p.2))))
  match met.findSome? id with
  | some x => Io.fail x
  | none => pure ()

/-- The items at the front of a list that lie in one virtual line. -/
def frontLine (items : List (Nat × Hank)) : List (Nat × Hank) :=
  match items with
  | [] => []
  | p :: _ => items.takeWhile (fun q => v44 q.1 / 15 == v44 p.1 / 15)

/-- A check that answers a refusal code or passes. -/
abbrev Check := Except Nat Unit

def failIf (cond : Bool) (code : Nat) : Check := if cond then .error code else .ok ()

/-! ### Coil buffers (R267 to R272) -/

/-- Buffer sizes of the pools (Table 11.5). -/
def poolSizes : List Nat := [1, 4, 16, 64, 256, 1024, 4096, 16384]

def poolSize (p : Nat) : Nat := poolSizes.getD p 0
def perWay (b : Body) (p : Nat) : Nat := bits (b.layEl 7 p) 12 0

/-- Ways a request may use: the context's within those that its partition owns now, or all of its partition's (R267, R287,
R290). -/
def usableWays (b : Body) (c : Option Nat) (part : Nat) : List Nat :=
  let all := (b.part part).ways
  let w := match c with
    | some c => if (b.ctx c).ways == 0 then all else (b.ctx c).ways &&& all
    | none => all
  (List.range 16).filter (fun i => w.getLsbD i)

def bufTaken (b : Body) (way pool idx : Nat) : Bool :=
  b.coil.bufs.any (fun x => x.way == way && x.pool == pool && x.idx == idx)

/-- Hanks charged to a requester of a partition (R270). -/
def quotaHeld (b : Body) (part req : Nat) : Nat :=
  ((b.coil.bufs.filter (fun x => x.part == part && x.req == req)).map (fun x => poolSize x.pool)).sum

def quotaOf (b : Body) (part req : Nat) : Nat := (tget b.coil.quota part).getD req 0

/-- Hanks of coil buffers a context holds (CTX_HELD). -/
def ctxHeld (b : Body) (c : Nat) : Nat :=
  ((b.coil.bufs.filter (fun x => x.ctx == some c)).map (fun x => poolSize x.pool)).sum

/-- The buffers of a pool in the order a search takes them: by way in plumb mode, from the pool's cursor outside it
(R268). -/
def searchOrder (b : Body) (ways : List Nat) (pool : Nat) : List (Nat × Nat) :=
  let all := ways.flatMap (fun w => (List.range (perWay b pool)).map (fun i => (w, i)))
  if b.cr.plumb then all
  else
    let cur := b.coil.cursors.getD pool 0
    let key := fun (p : Nat × Nat) => p.1 * 4096 + p.2
    all.filter (fun p => cur ≤ key p) ++ all.filter (fun p => key p < cur)

/-- The first free buffer of a pool. -/
def freeIn (b : Body) (ways : List Nat) (pool : Nat) : Option (Nat × Nat) :=
  (searchOrder b ways pool).find? (fun p => !bufTaken b p.1 pool p.2)

/-- What a coil request meets (R268 to R271). -/
inductive CoilAns where
  | grant (buf : CoilBuf)
  | wait (quota : Bool)
  | quotaFault
deriving DecidableEq, Repr

/-- Search the fitting pools in ascending size. -/
def coilSearch (b : Body) (r : CoilReq) (limit : Nat) : List Nat → Bool → CoilAns
  | [], q => .wait q
  | p :: rest, q =>
    match freeIn b (usableWays b r.ctx r.part) p with
    | some (w, i) =>
      if quotaHeld b r.part r.req + poolSize p ≤ limit then
        .grant { way := w, pool := p, idx := i, req := r.req, ctx := r.ctx, part := r.part }
      else coilSearch b r limit rest true
    | none => coilSearch b r limit rest q

def fitting (size : Nat) : List Nat := (List.range 8).filter (fun p => size ≤ poolSize p)

/-- Two requests are one: a unit that asks again for what it waits for. -/
def sameReq (x r : CoilReq) : Bool := x.req == r.req && x.ctx == r.ctx && x.size == r.size

/-- The quota that a request is made under: that of its standing request, else the one in force. -/
def limitOf (b : Body) (r : CoilReq) : Nat :=
  (r.limit.or (((b.coil.chosen.toList ++ b.coil.wait).find? (fun x => sameReq x r)).bind CoilReq.limit)).getD (quotaOf b r.part r.req)

/-- What the pools and the quota say of a request (R268, R270): a buffer size that alone exceeds the quota can never be granted. -/
def coilFind (b : Body) (r : CoilReq) : CoilAns :=
  match fitting r.size with
  | [] => .quotaFault
  | p :: ps => if limitOf b r < poolSize p then .quotaFault else coilSearch b r (limitOf b r) (p :: ps) false

/-- A request that a free buffer within the quota would serve. -/
def grantable (b : Body) (r : CoilReq) : Bool :=
  match coilFind b r with
  | .grant _ => true
  | _ => false

/-- Requests in the order of R271 and R297: latency-critical before best-effort, each class in request order, and one best-effort
request first when BE_FLOOR gives it its turn. -/
def coilOrder (b : Body) (l : List CoilReq) : List CoilReq :=
  let lc := l.filter CoilReq.cls
  let be := l.filter (fun r => !r.cls)
  if floorTurn b 18 then be.take 1 ++ lc ++ be.drop 1 else lc ++ be

/-- The waiting requests that are served before a request, which stands among them or comes after them. -/
def coilAhead (b : Body) (r : CoilReq) : List CoilReq :=
  let l := if b.coil.wait.any (fun x => sameReq x r) then b.coil.wait else b.coil.wait ++ [r]
  (coilOrder b l).takeWhile (fun x => !sameReq x r)

/-- With BE_FLOOR 0 a best-effort request is not served while a latency-critical one of its partition waits (R297; DESIGN CHOICE, log
112). What a yield parks is exempt, since a latency-critical command waits for it. -/
def floorBars (b : Body) (r : CoilReq) : Bool :=
  !r.cls && r.req != 11 && b.cr.beFloor == 0 && b.coil.wait.any (fun x => x.cls && x.part == r.part)

/-- A request that must let others go first: one that a COIL_GRANT serves and that this buffer would keep from being served, or those
ahead of it that could be served. -/
def coilBehind (b : Body) (r : CoilReq) (buf : CoilBuf) : Bool :=
  let ahead := floorBars b r || (coilAhead b r).any (fun x => grantable b x && !floorBars b x)
  match b.coil.chosen with
  | some x => !sameReq x r && (ahead || !grantable { b with coil := { b.coil with bufs := b.coil.bufs ++ [buf] } } x)
  | none => ahead

/-- Answer a request (R268 to R271, R297). -/
def coilAsk (b : Body) (r : CoilReq) : CoilAns :=
  match coilFind b r with
  | .grant buf => if coilBehind b r buf then .wait false else .grant buf
  | x => x

/-- A request waits for quota and not for a buffer alone (R270, Table 11.20). -/
def waitsQuota (b : Body) (r : CoilReq) : Bool :=
  match coilFind b r with
  | .wait q => q
  | .quotaFault => true
  | .grant _ => false

/-- The energy class of what a requester's buffers serve (Tables 11.6, 17.2): trace staging belongs to the exempt logic. -/
def reqClass (req : Nat) : Nat :=
  if req == 0 then 2 else if req ≤ 5 then 0 else if req == 6 then 1 else if req == 7 then 0 else if req == 8 then 4
  else if req == 9 then 0 else if req == 10 then 3 else if req == 11 then 5 else 7

/-- A COIL_GRANT is over for the request that it serves once a buffer has been taken. -/
def unchoose (buf : CoilBuf) (o : Option CoilReq) : Option CoilReq := o.filter (fun x => !(x.req == buf.req && x.ctx == buf.ctx))

/-- Take a granted buffer: owner recorded, cursor advanced past it (R268, R269); the grant is a handshake of the coil manager for a
class of commands, and counts for BE_FLOOR (R297, R403, R420). -/
def coilTakeFor (cls : Nat) (buf : CoilBuf) (b : Body) : Body :=
  let lc := (buf.ctx.map (fun c => (b.ctx c).cls)).getD false
  let b := noteGrant 18 lc (b.coil.wait.any (fun r => !r.cls)) b
  act cls 18 0 { b with coil := { b.coil with
      bufs := b.coil.bufs ++ [buf], chosen := unchoose buf b.coil.chosen,
      cursors := if b.cr.plumb then b.coil.cursors else tset b.coil.cursors buf.pool (buf.way * 4096 + buf.idx + 1) } }

def coilTake (buf : CoilBuf) (b : Body) : Body := coilTakeFor (reqClass buf.req) buf b

/-- A request waits, its wait bit set (R271). -/
def coilWait (r : CoilReq) (b : Body) : Body :=
  { b with coil := { b.coil with wait := b.coil.wait ++ [{ r with limit := some (limitOf b r) }] } }

/-- Free a buffer if its owner matches; the flag says the free was refused (R269). -/
def coilFree (buf : CoilBuf) (b : Body) : Body × Bool :=
  if b.coil.bufs.any (fun x => x == buf) then
    ({ b with coil := { b.coil with bufs := b.coil.bufs.filter (fun x => x != buf) } }, false)
  else
    ({ b with coil := { b.coil with doubleFree := true, lastReq := buf.req, lastCtx := buf.ctx.getD 0 } }, true)

/-- Every buffer of a context is freed by its owners, and its waiting requests end (R190, R280). -/
def coilFreeCtx (c : Nat) (b : Body) : Body :=
  { b with coil := { b.coil with bufs := b.coil.bufs.filter (fun x => x.ctx != some c),
                                 staging := b.coil.staging.filter (fun x => x.buf.ctx != some c),
                                 wait := b.coil.wait.filter (fun x => x.ctx != some c) } }

/-- Buffers freed by their owner. -/
def coilDrop (l : List CoilBuf) (b : Body) : Body :=
  { b with coil := { b.coil with bufs := b.coil.bufs.filter (fun x => !l.contains x) } }

/-- A buffer taken and freed within one step: only the cursor shows it (R268). -/
def coilPass (buf : CoilBuf) (b : Body) : Body := coilDrop [buf] (coilTake buf b)

/-- A waiting request that has been served, or is no longer made. -/
def coilUnwait (r : CoilReq) (b : Body) : Body :=
  { b with coil := { b.coil with
      wait := b.coil.wait.filter (fun x => !sameReq x r) } }

/-- COIL_QUOTA is raised on a request's context (R270, Table 11.19). -/
def quotaFaultMark (r : CoilReq) (b : Body) : Body :=
  { b with coil := { b.coil with quotaFault := true, lastReq := r.req, lastCtx := r.ctx.getD 0 } }

/-! ### Holds -/

/-- A throttle hold is in force: the bucket's, or the hold of a low VZS (R415, R427). -/
def Pwr.holding (p : Pwr) : Bool := p.binding || p.sramHold

/-- Every unit instance is stopped: by a DUMP (R408) or by a throttle hold (R427). -/
def frozen (b : Body) : Bool := b.hang.halted || b.pwr.holding

/-- The free-value counter advances: a fresh argument for an opaque constant of Config (log 2). -/
def fresh (b : Body) : Nat × Body := (b.freeCtr, { b with freeCtr := b.freeCtr + 1 })

end Sys2Proof.Machine
end

