-- ==== Sys2Proof/Machine/Evict.lean ====
section
/-! DEFINITION. The choice of an eviction's victim (spec/12 R303, R304). -/

namespace Sys2Proof.Machine

/-- Contexts of the request's partition that hold buffers in the ways that the request may use. -/
def holdsWays (b : Body) (c : Nat) (ways : List Nat) : Bool :=
  b.coil.bufs.any (fun x => x.ctx == some c && ways.contains x.way)

/-- The key that the choice minimises: FAULTED or SAVE_STALLED first, then the most hanks, then the lowest number. -/
def victimBefore (b : Body) (c d : Nat) : Bool :=
  let k := fun c => if (b.ctx c).st == .run then 1 else 0
  if k c != k d then k c < k d
  else if ctxHeld b c != ctxHeld b d then ctxHeld b d < ctxHeld b c
  else c < d

/-- Best-effort contexts that may be chosen for a request. -/
def victims (b : Body) (r : CoilReq) : List Nat :=
  let ways := usableWays b r.ctx r.part
  (List.range 64).filter (fun c =>
    let x := b.ctx c
    (x.st == .run || x.st == .faulted || x.st == .saveStalled) && !x.cls && x.part.toNat == r.part
      && holdsWays b c ways)

/-- A latency-critical request that waits and that no free buffer serves makes DX4 choose a victim, unless its partition already
evicts one. -/
def chooseVictim (b : Body) : Body :=
  if !b.cr.evictEn then b
  else b.coil.wait.foldl (fun b r =>
    if !r.cls || (b.part r.part).evicting.isSome || grantable b r then b
    else match victims b r with
      | [] => b
      | v :: vs =>
        let c := vs.foldl (fun best d => if victimBefore b d best then d else best) v
        let b := { b with parts := tmod b.parts r.part (fun p => { p with evicting := some c }) }
        if (b.ctx c).st == .saveStalled then b
        else b.modCtx c (fun x => { x with evictPending := true })) b

/-- An eviction of a context ends. -/
def endEviction (c : Nat) (b : Body) : Body :=
  { b with parts := b.parts.map (fun (p : Part) => if p.evicting == some c then { p with evicting := none } else p) }

end Sys2Proof.Machine
end

