-- ==== Sys2Proof/Machine/Link.lean ====
section
/-! DEFINITION. Flits, link retry and credits, routing and arbitration (spec/10 R218 to R230): the shared operations of the
switch. -/

namespace Sys2Proof.Machine

/-! ### Flits (Tables 10.2, 10.3) -/

/-- The 64-bit header of a data flit. -/
def flitHeader (dst src vc pos lseq lack hops : Nat) (ctrl : Bool) : Nat :=
  fld 16 0 dst + fld 33 17 src + fld 36 34 vc + fld 38 37 pos + fld 39 39 (b2n ctrl) + fld 49 40 lseq
    + fld 59 50 lack + fld 63 60 hops

/-- A flit's 640 bits from its header and four hanks; the CRC-32 covers bytes 0 to 75 (R218, R219). -/
def mkFlit (header : Nat) (hs : List Hank) : BitVec 640 :=
  let body := leBytes 8 header ++ ((hs ++ List.replicate 4 0).take 4).flatMap hBytes
  BitVec.ofNat 640 (ofLe (body ++ leBytes 4 (crc32 body)))

def flitHdr (f : BitVec 640) : Nat := f.toNat % 2 ^ 64
def flitHanks (f : BitVec 640) : List Hank :=
  (List.range 4).map (fun h => BitVec.ofNat 136 (f.toNat >>> (64 + 136 * h)))
def flitCrcOk (f : BitVec 640) : Bool := crc32 (leBytes 76 f.toNat) == bits f.toNat 639 608
def hdrDst (h : Nat) : Nat := bits h 16 0
def hdrSrc (h : Nat) : Nat := bits h 33 17
def hdrVc (h : Nat) : Nat := bits h 36 34
def hdrPos (h : Nat) : Nat := bits h 38 37
def hdrLseq (h : Nat) : Nat := bits h 49 40
def hdrLack (h : Nat) : Nat := bits h 59 50
def hdrHops (h : Nat) : Nat := bits h 63 60

/-- The flit as it goes out now: LSEQ and LACK set, CRC computed. -/
def stampFlit (f : BitVec 640) (lseq lack : Nat) : BitVec 640 :=
  let h := flitHdr f
  mkFlit (flitHeader (hdrDst h) (hdrSrc h) (hdrVc h) (hdrPos h) lseq lack (hdrHops h) false) (flitHanks f)

/-- The flits of a packet: POS 0 only, 1 first, 2 middle, 3 last (R219). -/
def packetFlits (p : Packet) : List (BitVec 640) :=
  let cs := chunks 4 p.hanks
  let n := cs.length
  (List.range n).map (fun i =>
    let pos := if n == 1 then 0 else if i == 0 then 1 else if i + 1 == n then 3 else 2
    mkFlit (flitHeader p.dst p.src p.vc pos 0 0 p.hops false) (cs.getD i []))

/-- The hanks of a packet, from its channel and header hank (R167, R242, R330, R336). -/
def packetLen (vc : Nat) (h : Hank) : Nat :=
  if vc == 0 || vc == 5 then 2
  else if vc == 1 || vc == 2 then 1 + bits (hW h 2) 13 0
  else 1 + bits (hW h 3) 31 16

/-! ### Routing (R227, R228) -/

/-- The routing-table entry for a destination (R227). -/
def routeEntry (own dst : Nat) : Nat :=
  if dst / 512 != own / 512 then dst / 512
  else if bits dst 8 5 != bits own 8 5 then 256 + bits dst 8 5
  else if bits dst 4 2 != bits own 4 2 then 272 + bits dst 4 2
  else 280 + bits dst 1 0

def routeMask (b : Body) (q : Nat) : Nat := b.layEl 3 (2 * q) + 2 ^ 32 * bits (b.layEl 3 (2 * q + 1)) 3 0

/-- A reserve port stands in for the port it replaces (R217). -/
def standIn (b : Body) (p : Nat) : Nat :=
  ((List.range 4).map (fun i => 32 + i)).foldl (fun r i =>
    if (b.port i).subst && (b.port i).replaces.toNat == p then i else r) p

/-- A port that the chip has: an active port that the grade enables, or a reserve port that replaces one (R14, R217). -/
def portPresent (b : Body) (n : Nat) : Bool := if n < 32 then bit (gradeWord b 3) n else (b.port n).subst

/-- A port that the lay enables: LINK_EN speaks for the active ports (R216, R217, R367). -/
def portEnabled (b : Body) (n : Nat) : Bool :=
  b.lay.loaded && portPresent b n && (32 ≤ n || bit (b.layEl 1 3) n)

/-- Candidate ports of a routing entry, ascending: those that the chip has and that are not DOWN (R14, R227, R228). -/
def entryPorts (b : Body) (entry : Nat) : List Nat :=
  let m := routeMask b entry
  let ps := ((List.range 36).filter (fun i => bit m i)).map (standIn b)
  (List.range 36).filter (fun i => ps.contains i && portPresent b i && !(b.port i).down)

/-- Candidate ports of a destination (R227). -/
def candidates (b : Body) (own dst : Nat) : List Nat := entryPorts b (routeEntry own dst)

def queuedFlits (p : Port) : Nat := (p.queue.map (fun q => q.flits.length)).sum

/-- The port of a packet (R228). -/
def choosePort (b : Body) (own : Nat) (p : Packet) : Option Nat :=
  let cs := candidates b own p.dst
  match cs with
  | [] => none
  | c :: rest =>
    if b.cr.plumb then some (cs.getD ((p.src + p.dst) % cs.length) c)
    else some (rest.foldl (fun best i => if queuedFlits (b.port i) < queuedFlits (b.port best) then i else best) c)

/-! ### Arbitration (R225, R226, R229) -/

/-- Flits that the peer's buffers still take on a channel: 32, less those sent and not drained (R222). -/
def creditLeft (p : Port) (vc : Nat) : Nat := 32 - (p.sentCnt.getD vc 0 + 2 ^ 16 - p.credit.getD vc 0) % 2 ^ 16

/-- What a deficit round robin chooses from: key, weight, and the flits of the packet at its head. -/
structure Turn where
  key : Nat
  weight : Nat
  need : Nat
deriving DecidableEq, Repr

def Drr.of (d : Drr) (k : Nat) : Nat := ((d.deficit.find? (fun x => x.1 == k)).map Prod.snd).getD 0

/-- Visits after which a turn's deficit covers its packet, at least one. -/
def Drr.visits (d : Drr) (t : Turn) : Nat := max 1 (cdiv (t.need - d.of t.key) (max 1 t.weight))

/-- The grant of a deficit round robin: the key served last goes on while its deficit covers its next packet; otherwise the
others follow in ascending cyclic order, each visit adding the weight, until a deficit covers a packet. Keys without a packet
keep no deficit. -/
def Drr.grant (d : Drr) (ts : List Turn) : Option (Nat × Drr) :=
  match ts.find? (fun t => t.key == d.cur && t.need ≤ d.of t.key) with
  | some t => some (t.key,
      { d with deficit := ts.map (fun x => (x.key, d.of x.key - (if x.key == t.key then x.need else 0))) })
  | none =>
    let order := ts.filter (fun t => d.cur < t.key) ++ ts.filter (fun t => t.key ≤ d.cur)
    match order with
    | [] => none
    | t0 :: rest =>
      let w := rest.foldl (fun best t => if d.visits t < d.visits best then t else best) t0
      let before := order.takeWhile (fun t => t.key != w.key)
      let added := fun (t : Turn) =>
        max 1 t.weight * (if t.key == w.key || before.contains t then d.visits w else d.visits w - 1)
      some (w.key, { cur := w.key, deficit := order.map (fun t =>
        (t.key, d.of t.key + added t - (if t.key == w.key then t.need else 0))) })

/-- The weight of a channel (R225): elements of the lay as FAB_VC_WEIGHT_LO and _HI hold them. -/
def vcWeight (b : Body) (v : Nat) : Nat :=
  if v == 5 then b.fab.vcHi.toNat else bits b.fab.vcLo.toNat (8 * v - 1) (8 * v - 8)

/-- The port whose roles a port takes: the one a substituted reserve port replaces, else itself (R217). -/
def roleOf (b : Body) (n : Nat) : Nat := if (b.port n).subst then (b.port n).replaces.toNat else n

/-- The pedigree weight P(i, p, v) (R229); a substituted port has the weights of the port it replaces (R217). -/
def pedigree (b : Body) (i p v : Nat) : Nat :=
  let i := if i < 36 then roleOf b i else i
  fld 16 0 (b.layEl 5 ((roleOf b p * 37 + i) * 6 + v))

/-- The head of an input's queue on a channel. -/
def headOf (p : Port) (v i : Nat) : Option QPkt := p.queue.find? (fun q => q.vc == v && q.input == i)

/-- The inputs that have a packet ready on a channel of port `n`. -/
def inputTurns (b : Body) (n v : Nat) : List Turn :=
  (List.range 37).filterMap (fun i => (headOf (b.port n) v i).map (fun q => ⟨i, pedigree b i n v, q.flits.length⟩))

/-- The packet that a channel grants next, with its inputs' arbiter after the grant (R229). -/
def channelHead (b : Body) (n v : Nat) : Option (QPkt × Drr) :=
  (Drr.grant (tget (b.port n).inputs v) (inputTurns b n v)).bind (fun g => (headOf (b.port n) v g.1).map (fun q => (q, g.2)))

/-- A packet begun on a channel: the channel sends no other before its last flit (R226). -/
def begunOn (p : Port) (v : Nat) : Option QPkt := p.queue.find? (fun q => q.vc == v && q.begun)

/-- Channels of VC1 to VC5 that may be granted a packet: one is ready, none is begun, credit remains. -/
def grantTurns (b : Body) (n : Nat) : List Turn :=
  let p := b.port n
  [1, 2, 3, 4, 5].filterMap (fun v =>
    if (begunOn p v).isSome || creditLeft p v == 0 then none
    else (channelHead b n v).map (fun h => ⟨v, vcWeight b v, h.1.flits.length⟩))

/-- A grant of a packet: it is begun, and the arbiters have moved on. -/
def grantPkt (v : Nat) (q : QPkt) (ins : Drr) (chans : Drr) (p : Port) : Port :=
  { p with queue := p.queue.map (fun x => if x.pkt == q.pkt then { x with begun := true } else x),
           inputs := tset p.inputs v ins, chans := chans }

/-- What port `n` sends next, with the port after the grant: VC0 first, at most one flit in 64; then packets begun, then the
next grant (R225, R226). A link with nothing else to send lets VC0's slots go by idle, so VC0 goes on (DESIGN CHOICE,
log 45). -/
def nextSend (b : Body) (n : Nat) : Option (QPkt × Port) :=
  let p := b.port n
  let vc0 := if creditLeft p 0 == 0 then none else (channelHead b n 0).map (fun h => (h.1, grantPkt 0 h.1 h.2 p.chans p))
  let begun := (p.queue.find? (fun q => q.begun && q.vc != 0 && creditLeft p q.vc != 0)).map (fun q => (q, p))
  let granted := (Drr.grant p.chans (grantTurns b n)).bind (fun g =>
    (channelHead b n g.1).map (fun h => (h.1, grantPkt g.1 h.1 h.2 g.2 p)))
  if p.gap == 63 && vc0.isSome then vc0 else begun.orElse (fun _ => granted.orElse (fun _ => vc0))

/-! ### Sending -/

/-- Send one flit of a queued packet: it takes the next LSEQ and stays in the replay buffer (R221). -/
def sendFlit (q : QPkt) (p : Port) : Port :=
  match q.flits with
  | [] => { p with queue := p.queue.filter (fun x => x.pkt != q.pkt) }
  | f :: rest =>
    let w := stampFlit f p.txSeq p.rxSeq
    { p with
      queue := if rest.isEmpty then p.queue.filter (fun x => x.pkt != q.pkt)
        else p.queue.map (fun x => if x.pkt == q.pkt then { x with flits := rest } else x),
      replay := p.replay ++ [{ lseq := p.txSeq, pkt := q.pkt, bits := f, stg := q.stg }],
      txSeq := (p.txSeq + 1) % 1024,
      sentCnt := tset p.sentCnt q.vc ((p.sentCnt.getD q.vc 0 + 1) % 2 ^ 16),
      gap := if q.vc == 0 then 0 else min 63 (p.gap + 1),
      lastFlits := p.lastFlits ++ [w] }

/-- The energy class of a flit of a channel (Table 17.2): collectives and MUSTER, batches, answers; other traffic, flits for
other chips among it, is class 6. -/
def flitClass (q : QPkt) : Nat :=
  if !q.origin then 6 else if q.vc ≤ 2 then 3 else if q.vc == 3 then 0 else if q.vc == 4 then 4 else 6

/-- Send what a port may send now, at most `fuel` flits: while it is UP, credit remains and the replay buffer of 512
flits has room (R221, R222). -/
def pumpPort (n : Nat) : Nat → Body → Body
  | 0, b => b
  | fuel + 1, b =>
    let p := b.port n
    if !p.up || p.down || frozen b || p.replay.length ≥ 512 then b
    else match nextSend b n with
      | none => b
      | some (q, p) =>
        let b := b.modPort n (fun _ => sendFlit q p)
        let b := if q.origin then count Cnt.flitsTx 1 q.ctx b else b
        pumpPort n fuel (act (flitClass q) 7 0 b)

/-- Send what may be sent, behind what the port has sent in this step. -/
def pumpOn (n : Nat) (b : Body) : Body := pumpPort n (queuedFlits (b.port n)) b

/-- A step begins with nothing sent on the port. -/
def clearOut (n : Nat) (b : Body) : Body := b.modPort n (fun p => { p with lastFlits := [] })

/-- A port takes up sending after a change. -/
def pump (n : Nat) (b : Body) : Body := pumpOn n (clearOut n b)

/-- Queue a packet on a port. -/
def queueOn (n : Nat) (p : Packet) (b : Body) : Body :=
  pump n (b.modPort n (fun q => { q with
    queue := q.queue ++ [{ vc := p.vc, pkt := q.pktNo, input := p.port.getD 36, origin := p.origin, ctx := p.ctx, stg := p.stg, flits := packetFlits p }],
    pktNo := q.pktNo + 1 }))

/-- The value that stands for the chip's own address while none is taken: no packet bears it (R364). -/
def noAddress : Nat := 2 ^ 17

/-- The chip's own address for the switch and the units. -/
def FabAddr.own (a : FabAddr) : Nat := if a.locked then a.addr.toNat else noAddress

/-- Hand a packet to the switch: the local port for the chip's own address, otherwise a candidate port (R167, R227). A
packet without a candidate waits in the switch, and so does every packet while the chip has no address (R364). -/
def sendPacket (own : Nat) (p : Packet) (b : Body) : Body :=
  let p := if p.origin then { p with src := own } else p
  if own == noAddress then { b with fab := { b.fab with unrouted := b.fab.unrouted ++ [p] } }
  else if p.dst == own then { b with fab := { b.fab with rx := b.fab.rx ++ [{ p with port := none, stg := none }] } }
  else match choosePort b own p with
    | some n => queueOn n p b
    | none => { b with fab := { b.fab with unrouted := b.fab.unrouted ++ [p] } }

/-- The switch takes a packet of the chip on a channel: no earlier one of the chip still waits on the port for that channel, or for
a port at all (DESIGN CHOICE, log 118). One for the chip itself is always taken. -/
def switchTakes (own vc dst : Nat) (b : Body) : Bool :=
  dst == own || (match choosePort b own { dst := dst, src := own, vc := vc } with
    | some n => !(b.port n).queue.any (fun q => q.vc == vc && q.input == 36)
    | none => !b.fab.unrouted.any (fun p => p.vc == vc && p.origin))

/-- Packets that waited for a candidate port are tried again. -/
def retryUnrouted (own : Nat) (b : Body) : Body :=
  let ps := b.fab.unrouted
  ps.foldl (fun b p => sendPacket own p b) { b with fab := { b.fab with unrouted := [] } }

/-! ### Acknowledgement, resend and DOWN (R221 to R223) -/

/-- A link that comes UP starts anew: both ends expect LSEQ 0, hold full credit, and keep nothing of what came before (DESIGN
CHOICE, log 110). -/
def alignPort (p : Port) : Port :=
  { p with
    queue := p.queue.filter (fun q => !q.begun), txSeq := 0, rxSeq := 0, acked := 0, nakSent := false, resends := 0, replay := [], gap := 63, rx := [],
    sentCnt := List.replicate 6 0, credit := List.replicate 6 0, drained := List.replicate 6 0, owed := List.replicate 6 0 }

/-- LACK releases the flits below it from the replay buffer; an advance ends a run of resends (R221, R223). -/
def takeLack (lack : Nat) (p : Port) : Port :=
  let k := (lack + 1024 - p.acked) % 1024
  if k == 0 || p.replay.length < k then p
  else { p with replay := p.replay.drop k, acked := lack, resends := 0 }

/-- Resend from an LSEQ: each resend is counted (R221). -/
def resendFrom (lseq : Nat) (p : Port) : Port :=
  let fs := p.replay.filter (fun f => (f.lseq + 1024 - p.acked) % 1024 ≥ (lseq + 1024 - p.acked) % 1024)
  if fs.isEmpty then p
  else { p with lastFlits := fs.map (fun f => stampFlit f.bits f.lseq p.rxSeq), retry := p.retry + 1,
                resends := p.resends + 1 }

/-- Mark a port DOWN (R223): N_FAULT_HARD with LINK_DOWN, lost packets counted, partly received packets discarded. A packet
whose first flits are acknowledged and whose rest is unsent is lost and counted too (DEDUCED, log 92); whole packets still
queued are routed again over the remaining candidates (DESIGN CHOICE, log 92). -/
def markDown (own n : Nat) (b : Body) : Body :=
  let p := b.port n
  let ids := (p.replay.map SentFlit.pkt ++ (p.queue.filter QPkt.begun).map QPkt.pkt).eraseDups
  let keep := p.queue.filter (fun q => !ids.contains q.pkt)
  let b := b.modPort n (fun p => { p with down := true, up := false, downEver := true, replay := [], queue := [],
                                          rx := [], resends := 0 })
  let b := { b with fab := { b.fab with lost := b.fab.lost + BitVec.ofNat 32 ids.length } }
  let b := notice Ntc.faultHard none 0 Code.linkDown 3 [7, 0, 0, 0, n, 0, 0, 0, 0, 0, 0, 0] 7 b
  keep.foldl (fun b q =>
    let hs := q.flits.flatMap flitHanks
    let h := flitHdr (q.flits.headD 0)
    let len := packetLen q.vc (hs.headD 0)
    sendPacket own { dst := hdrDst h, src := hdrSrc h, vc := q.vc, hops := hdrHops h, hanks := hs.take len,
                     port := if q.input < 36 then some q.input else none,
                     origin := q.origin, ctx := q.ctx, stg := q.stg } b) b

/-- After 16 resends in a row without an advance of LACK the port goes DOWN (R223). -/
def resendOrDown (own n lseq : Nat) (b : Body) : Body :=
  let b := b.modPort n (resendFrom lseq)
  if (b.port n).resends ≥ 16 then markDown own n b else b

/-! ### Staging buffers of Hawser (Table 8.8) -/

/-- The numbers of the staging buffers whose packets are not sent, or not acknowledged to the last flit. A packet that a
port lost with its link holds none. -/
def stagingInUse (b : Body) : List Nat :=
  b.fab.unrouted.filterMap Packet.stg
    ++ b.fab.ports.flatMap (fun p => p.queue.filterMap QPkt.stg ++ p.replay.filterMap SentFlit.stg)
    ++ b.gens.flatMap (fun g => (g.sendQ ++ g.early).filterMap SendPkt.stg)

/-- Hawser frees the staging buffers that nothing needs any more. -/
def settleStaging (b : Body) : Body :=
  let ids := stagingInUse b
  let gone := b.coil.staging.filter (fun x => !ids.contains x.id)
  { b with coil := { b.coil with
      staging := b.coil.staging.filter (fun x => ids.contains x.id),
      bufs := b.coil.bufs.filter (fun x => !gone.any (fun s => s.buf == x)) } }

/-! ### Receiving (R219 to R222, R226) -/

/-- A port sends a control flit, which the throttle exempts (R222, R420, R427). -/
def sendCtrl (n : Nat) (c : CtrlFlit) (b : Body) : Body := charge 7 7 1 (b.modPort n (fun p => { p with lastCtrl := some c }))

/-- Credit of a channel goes back as the consumer drains it; while a complete packet of the channel from this port waits
for its consumer, or the block is frozen, the flits behind it are owed. Either way a credit flit leaves, and its LACK acknowledges
what has been accepted (R218, R222, R226, R408). -/
def drainFlits (n vc k : Nat) (b : Body) : Body :=
  let held := frozen b || b.fab.rx.any (fun p => p.vc == vc && p.port == some n)
  let b := b.modPort n (fun p =>
    if held then { p with owed := tset p.owed vc (p.owed.getD vc 0 + k) }
    else { p with drained := tset p.drained vc ((p.drained.getD vc 0 + p.owed.getD vc 0 + k) % 2 ^ 16), owed := tset p.owed vc 0 })
  sendCtrl n (.credit (b.port n).rxSeq (b.port n).drained) b

/-- After a hold the ports go on: credit owed goes back and queued flits are sent (R408, R427). -/
def thaw (b : Body) : Body :=
  (List.range 36).foldl (fun b n =>
    pump n ((List.range 6).foldl (fun b v =>
      if (b.port n).owed.getD v 0 == 0 then b else drainFlits n v 0 b) b)) b

/-- A packet taken by its consumer leaves the inbox and frees its channel (R226). -/
def consumePacket (p : Packet) (b : Body) : Body :=
  let b := { b with fab := { b.fab with rx := b.fab.rx.erase p } }
  match p.port with
  | some n => drainFlits n p.vc 0 b
  | none => b

/-- A complete packet: forwarded with HOPS increased, or put before its consumer (R220, R227, R228). -/
def packetArrived (own : Nat) (p : Packet) (b : Body) : Body :=
  if p.dst == own then { b with fab := { b.fab with rx := b.fab.rx ++ [p] } }
  else sendPacket own { p with hops := p.hops + 1, origin := false, ctx := none } b

/-- An accepted data flit joins its packet; a packet whose HOPS is already 12 is discarded whole and counted (R219,
R220). One that bears the reserved VC 6 or 7 is taken as any other (DESIGN CHOICE, log 111). -/
def assemble (own n : Nat) (f : BitVec 640) (b : Body) : Body :=
  let h := flitHdr f
  let vc := hdrVc h
  let pos := hdrPos h
  let first := pos == 0 || pos == 1
  let last := pos == 0 || pos == 3
  let old := ((b.port n).rx.find? (fun r => r.vc == vc))
  let start : RxPart :=
    { vc := vc, drop := hdrHops h ≥ 12,
      pkt := { dst := hdrDst h, src := hdrSrc h, vc := vc, hops := hdrHops h, port := some n } }
  let cur := if first then some start else old
  match cur with
  | none => drainFlits n vc 1 b
  | some r =>
    let b := if first && r.drop then { b with fab := { b.fab with hopDrop := b.fab.hopDrop + 1 } } else b
    let hs := if r.drop then [] else r.pkt.hanks ++ flitHanks f
    let r := { r with pkt := { r.pkt with hanks := hs } }
    let b := drainFlits n vc 1 b
    let b := b.modPort n (fun p => { p with
      rx := p.rx.filter (fun x => x.vc != vc) ++ (if last then [] else [r]) })
    if last && !r.drop then
      packetArrived own { r.pkt with hanks := hs.take (packetLen vc (hs.headD 0)) } b
    else b

/-- A data flit on a port (R221; CTRL 1 marks a control flit, which is not one): accepted only with the expected LSEQ and a good CRC; otherwise discarded, with one NAK
until the expected flit arrives. -/
def flitReceived (own n : Nat) (f : BitVec 640) (b : Body) : Body :=
  let p := b.port n
  if !p.up || p.down then b
  else
    let h := flitHdr f
    if bit h 39 then b
    else if flitCrcOk f && hdrLseq h == p.rxSeq then
      let b := b.modPort n (fun p => { takeLack (hdrLack h) p with rxSeq := (p.rxSeq + 1) % 1024, nakSent := false })
      settleStaging (pump n (assemble own n f b))
    else if p.nakSent then b
    else sendCtrl n (.nak p.rxSeq p.rxSeq) (b.modPort n (fun p => { p with nakSent := true }))

end Sys2Proof.Machine
end

