-- ==== Sys2Proof/Machine/Tree.lean ====
section
/-! DEFINITION. The trees of a group and what a node of a tree does (spec/10 R238 to R245, spec/13 R336 to R339). Writing a
result, and the replies, follow in Thimble. -/

namespace Sys2Proof.Machine

/-! ### The tree of a group (R238) -/

/-- One level of pairs of an ascending list: the messages (from, to) and the inputs that pass up. -/
def pairLevel : List Nat → List (Nat × Nat) × List Nat
  | a :: b :: rest =>
    let (es, up) := pairLevel rest
    ((b, a) :: es, a :: up)
  | l => ([], l)

/-- The pairwise tree over a list, level by level; fuel is the list's length. -/
def pairTree : Nat → List Nat → List (Nat × Nat)
  | 0, _ => []
  | n + 1, l =>
    if l.length ≤ 1 then []
    else
      let (es, up) := pairLevel l
      es ++ pairTree n up

/-- Ascending addresses cut where the stage's key changes. -/
def cutBy (key : Nat → Nat) : List Nat → List (List Nat)
  | [] => []
  | a :: rest =>
    match cutBy key rest with
    | (b :: l) :: more => if key a == key b then (a :: b :: l) :: more else [a] :: (b :: l) :: more
    | other => [a] :: other

/-- The keys of the four stages: package, tray, rack, hall. -/
def stageKeys : List (Nat → Nat) := [(· / 4), (· / 32), (· / 512), fun _ => 0]

/-- The messages of all stages in order. -/
def treeEdges (members : List Nat) : List (Nat × Nat) :=
  (stageKeys.foldl (fun (acc : List (Nat × Nat) × List Nat) key =>
    let gs := cutBy key acc.2
    (acc.1 ++ gs.flatMap (fun l => pairTree l.length l), gs.filterMap List.head?)) ([], members)).1

def treeParent (members : List Nat) (own : Nat) : Option Nat :=
  ((treeEdges members).find? (fun e => e.1 == own)).map Prod.snd

/-- Partners that send to this chip, in the order in which their values are added. -/
def treeKids (members : List Nat) (own : Nat) : List Nat :=
  ((treeEdges members).filter (fun e => e.2 == own)).map Prod.fst

/-! ### Packets (R242, R336) -/

/-- A packet of the collective or MUSTER kind from this chip to a partner. -/
def partnerPkt (own dst vc c : Nat) (hs : List Hank) : Packet :=
  { dst := dst, src := own, vc := vc, hanks := hs, origin := true, ctx := some c }

/-- The header hank of a collective packet (Table 10.8). -/
def collHeader (seq group kind op hanks digest : Nat) : Hank :=
  i32Hank [seq, fld 3 0 group + fld 6 4 kind + fld 8 7 op, hanks, digest]

/-- Send a collective packet of a piece: UP on VC1, DOWN on VC2. KIND 0 PARTIAL, 1 NULL, 2 RESULT, 3 VOID, 4 ADMIT. -/
def sendColl (own dst vc kind : Nat) (p : Piece) (hs : List Hank) (b : Body) : Body :=
  act 3 8 0 <| sendPacket own (partnerPkt own dst vc p.ctx (collHeader p.seq p.group kind p.op hs.length p.digest :: hs)) b

/-- The two hanks of a MUSTER packet (R336). KIND 0 ARRIVE, 1 RELEASE, 2 VOID. -/
def musterHanks (seq group kind tag t : Nat) : List Hank :=
  [i32Hank [seq, fld 3 0 group + fld 6 4 kind, tag, 0], i32Hank [t % 2 ^ 32, t / 2 ^ 32 % 2 ^ 32, 0, 0]]

/-- Send a MUSTER packet on VC0. -/
def sendMuster (own dst kind : Nat) (m : MusterWork) (t : Nat) (b : Body) : Body :=
  act 3 8 0 <| sendPacket own (partnerPkt own dst 0 m.ctx (musterHanks m.seq m.group kind m.tag t)) b

/-! ### Sums (R239) -/

/-- One element: binary32 for OP 0 and 2, modulo 2^32 for OP 1. -/
def addEl (op a c : Nat) : Nat := if op == 1 then add32 a c else fadd a c

/-- One hank of a sum. -/
def addHank (op : Nat) (x y : Hank) : Hank := i32Hank ((List.range 4).map (fun e => addEl op (hW x e) (hW y e)))

/-- A node's sum of two inputs; a NULL beside data counts as zero in every element. -/
def addInput (op : Nat) (x y : Input) : Input :=
  match x, y with
  | .void, _ => .void
  | _, .void => .void
  | .data a, .data c => .data ((a.zip c).map (fun p => addHank op p.1 p.2))
  | .data a, _ => .data (a.map (fun h => addHank op h (i32Hank [])))
  | _, .data c => .data (c.map (fun h => addHank op (i32Hank []) h))
  | _, _ => .null

/-- The input received from a partner. -/
def inputOf (p : Piece) (kid : Nat) : Option Input := (p.inputs.find? (fun i => i.1 == kid)).map Prod.snd

/-- What a node's output is, once it is complete: VOID as soon as one input is VOID (R243). -/
def nodeOutput (g : Group) (p : Piece) : Option Input :=
  if p.inputs.any (fun i => i.2 == .void) then some .void
  else if p.own == .none || !g.kids.all (fun k => (inputOf p k).isSome) then none
  else some (g.kids.foldl (fun acc k => addInput p.op acc ((inputOf p k).getD .null)) p.own)

/-! ### Pieces of a COLLECT -/

def pieceIs (oid pos : Nat) (p : Piece) : Bool := p.oid == oid && p.pos == pos

def Body.piece (b : Body) (oid pos : Nat) : Option Piece := b.thm.pieces.find? (pieceIs oid pos)

def Body.modPiece (b : Body) (oid pos : Nat) (f : Piece → Piece) : Body :=
  { b with thm := { b.thm with pieces := b.thm.pieces.map (fun p => if pieceIs oid pos p then f p else p) } }

def Body.modCollect (b : Body) (oid : Nat) (f : CollectWork → CollectWork) : Body :=
  b.modOpen oid (fun o => match o.work with
    | .collect w => { o with work := .collect (f w) }
    | _ => o)

/-- The COLLECT of a piece, unless it has been torn down. -/
def collectOf (b : Body) (oid : Nat) : Option CollectWork :=
  (b.openOf oid).bind (fun o => match o.work with
    | .collect w => some w
    | _ => none)

/-- A piece is written or voided: its slot is free and its COLLECT counts it (R240, R250). -/
def endPiece (p : Piece) (void : Bool) (b : Body) : Body :=
  let b := { b with thm := { b.thm with pieces := b.thm.pieces.filter (fun x => !pieceIs p.oid p.pos x) } }
  let b := if void then b.modGroup p.group (fun g => { g with voids := g.voids ++ [p.seq] }) else b
  if p.orphan then b else b.modCollect p.oid (fun w =>
    let w := { w with ended := w.ended + 1 }
    if void && (w.firstVoid.isNone || p.pos < w.firstVoid.getD 0) then
      { w with firstVoid := some p.pos, voidSeq := p.seq }
    else w)

/-- The hanks of a result: a NULL output is written as zeros (R144, R239). -/
def resultHanks (p : Piece) : Input → List Hank
  | .data hs => hs
  | _ => List.replicate p.hanks (i32Hank [])

/-- A result as the member writes it: statistics triples are finished (R104). Also the number of special cases. -/
def finishHanks (op : Nat) (hs : List Hank) : List Hank × Nat :=
  if op == 2 then
    let rs := hs.map (fun h => onePass (hW h 0) (hW h 1) (hW h 2))
    (rs.map Prod.fst, (rs.filter Prod.snd).length)
  else (hs, 0)

/-- A piece is settled: RESULT or VOID goes down to the partners whose input came (R244); a VOID ends the piece, a RESULT
waits to be written; a torn member writes none (R249). -/
def settlePiece (own : Nat) (p : Piece) (v : Input) (b : Body) : Body :=
  let kids := ((b.group p.group).kids).filter (fun k => (inputOf p k).isSome)
  if v == .void then
    endPiece p true (kids.foldl (fun b k => sendColl own k 2 3 p [] b) b)
  else
    let hs := resultHanks p v
    let b := kids.foldl (fun b k => sendColl own k 2 2 p hs b) b
    match if p.orphan then none else collectOf b p.oid with
    | some w =>
      let (out, special) := finishHanks p.op hs
      let b := count Cnt.statSpecial special (some p.ctx) b
      let items := (List.range out.length).map (fun i => (v44 (w.dst + p.off + i), out.getD i 0))
      b.modPiece p.oid p.pos (fun p => { p with result := some v, toWrite := items })
    | none => endPiece p false b

/-- After the first VOID of a COLLECT the root voids every later piece of it (R244). -/
def doomLater (oid pos : Nat) (b : Body) : Body :=
  { b with thm := { b.thm with pieces := b.thm.pieces.map (fun p =>
    if p.oid == oid && pos < p.pos && p.result.isNone then
      { p with doomed := true, decided := if p.admitted then some .void else p.decided }
    else p) } }

/-- The root releases the pieces of a COLLECT in ascending order (R244); fuel bounds the pieces. -/
def releaseRoot (own oid : Nat) : Nat → Body → Body
  | 0, b => b
  | n + 1, b =>
    match b.thm.pieces.find? (fun p => p.oid == oid && p.result.isNone) with
    | none => b
    | some p => match p.decided with
      | none => b
      | some v =>
        let b := if v == .void then doomLater oid p.pos b else b
        releaseRoot own oid n (settlePiece own p v b)

/-- The root's own decision for a piece whose sum is complete: a deadline that has passed makes it VOID (R245). -/
def decide_ (now : Nat) (p : Piece) (v : Input) : Input :=
  if p.deadline != 0 && p.deadline ≤ now then .void else v

/-- A node of the tree goes on with a piece: the root decides, another member sends up once it has admitted the piece and
received ADMIT (R239, R240, R243). -/
def progressPiece (own oid pos : Nat) (b : Body) : Body :=
  match b.piece oid pos with
  | none => b
  | some p =>
    let g := b.group p.group
    if !p.admitted || p.sentUp || p.decided.isSome || p.result.isSome then b
    else match nodeOutput g p with
      | none => b
      | some v => match g.parent with
        | none =>
          let b := b.modPiece oid pos (fun x => { x with decided := some (decide_ b.now p v) })
          releaseRoot own oid b.thm.pieces.length b
        | some up =>
          if !p.admitRecv then b
          else
            let b := b.modPiece oid pos (fun x => { x with sentUp := true })
            match v with
            | .void => sendColl own up 1 3 p [] b
            | .data hs => sendColl own up 1 0 p hs b
            | _ => sendColl own up 1 1 p []
                (if p.orphan then b else b.modCollect oid (fun w => { w with nullLocal := w.nullLocal + 1 }))

/-- Every piece that satisfies a test goes on. -/
def progressWhere (own : Nat) (f : Piece → Bool) (b : Body) : Body :=
  (b.thm.pieces.filter f).foldl (fun b p => progressPiece own p.oid p.pos b) b

/-- The pieces of a torn context: the own contribution is NULL where it was not sent, results are forwarded and not
written (R249). Pieces not yet admitted are admitted later and count as NULL too, so that the group drains (DEDUCED, log
29). -/
def orphanPieces (own c : Nat) (b : Body) : Body :=
  let mine := fun (p : Piece) => p.ctx == c && !p.orphan
  let done := b.thm.pieces.filter (fun p => mine p && p.result.isSome)
  let ids := (b.thm.pieces.filter mine).map Piece.oid
  let b := { b with thm := { b.thm with pieces := b.thm.pieces.map (fun p =>
    if mine p then { p with orphan := true, toWrite := [], own := if p.sentUp then p.own else .null } else p) } }
  let b := done.foldl (fun b p => endPiece { p with orphan := true } false b) b
  progressWhere own (fun p => ids.contains p.oid) b

/-! ### MUSTER -/

def Body.muster (b : Body) (oid : Nat) : Option MusterWork := b.thm.musters.find? (fun m => m.oid == oid)

def Body.modMuster (b : Body) (oid : Nat) (f : MusterWork → MusterWork) : Body :=
  { b with thm := { b.thm with musters := b.thm.musters.map (fun m => if m.oid == oid then f m else m) } }

/-- A MUSTER leaves the thimble; one that ended in a void answers late partners with VOID (R339). -/
def endMuster (m : MusterWork) (void : Bool) (b : Body) : Body :=
  let b := { b with thm := { b.thm with musters := b.thm.musters.filter (fun x => x.oid != m.oid) } }
  if void then b.modGroup m.group (fun g => { g with voids := g.voids ++ [m.seq] }) else b

/-- RELEASE or VOID goes down to the partners whose ARRIVE or VOID came (R339). -/
def musterDown (own kind : Nat) (m : MusterWork) (t : Nat) (b : Body) : Body :=
  (m.below ++ m.voidBelow).foldl (fun b k => sendMuster own k kind m t b) b

/-- MUSTERs of a torn context: one that has not sent ARRIVE sends VOID upward; at the root VOID goes down to the partners
that arrived (R339). One that is released owes nothing more. -/
def orphanMusters (own c : Nat) (b : Body) : Body :=
  let ms := b.thm.musters.filter (fun m => m.ctx == c && !m.orphan)
  ms.foldl (fun b m =>
    let b := b.modMuster m.oid (fun m => { m with orphan := true })
    if m.release.isSome then endMuster m false b
    else if m.sentUp then b
    else match (b.group m.group).parent with
      | some p => (sendMuster own p 2 m 0 b).modMuster m.oid (fun x => { x with sentUp := true })
      | none => endMuster m true (musterDown own 2 m 0 b)) b

end Sys2Proof.Machine
end

