-- ==== Sys2Proof/Machine/Units.lean ====
section
/-! DEFINITION. Grants of units (spec/01 R16, spec/12 R295 to R297, spec/09 R213): who holds an instance between two steps, and
which of the commands that wait for a unit gets it. -/

namespace Sys2Proof.Machine

/-! ### Steps and home roles -/

/-- The route work of an open command. -/
def routeOf (b : Body) (oid : Nat) : Option RouteWork :=
  match b.openOf oid with
  | some o => (match o.work with
    | .route w => some w
    | _ => none)
  | none => none

/-- A step of a context in RUN that has begun and stands at a stage. -/
def standsAt (b : Body) (o : Open) (w : RouteWork) (st : RouteStage) : Bool :=
  w.stage == st && (b.ctx o.ctx).st == .run && !o.held && o.reply.isNone

/-- The oldest step that stands at a stage. -/
def stepAt (b : Body) (st : RouteStage) : Option (Open × RouteWork) :=
  b.opens.findSome? (fun o => match o.work with
    | .route w => if standsAt b o w st then some (o, w) else none
    | _ => none)

/-- Halves of an exchange. -/
def halves (g : GenEnt) : Nat := if g.map.mode == 2 then 2 else 1

/-- The half that is sorted or written next. -/
def nextHalf (g : GenEnt) : Option Nat := (List.range (halves g)).find? (fun h => g.home.sorted.getD h true == false)

/-- Home roles with a half that is complete and not yet written (R176). -/
def halfDue (b : Body) (g : GenEnt) : Bool :=
  !g.home.ended && (b.ctx g.ctx).st == .run && (nextHalf g).any (fun h => !(g.home.counts.getD h []).isEmpty)

/-! ### Who asks -/

/-- A command that waits for a unit: its number, its class, and its place in submission order. -/
structure Claim where
  oid : Nat
  cls : Bool
  arr : Nat
deriving DecidableEq, Repr

/-- Submission order of an open command; a command that is no longer open keeps its acceptance number. -/
def orderOf (b : Body) (oid : Nat) : Nat := ((b.openOf oid).map (fun o => o.cmd.arr)).getD oid

/-- The claim of a command of a context. -/
def claimOf (b : Body) (oid c : Nat) : Claim := { oid := oid, cls := (b.ctx c).cls, arr := orderOf b oid }

/-- The first claim in submission order. -/
def firstClaim (cs : List Claim) : Option Claim :=
  match cs with
  | [] => none
  | x :: rest => some (rest.foldl (fun best y => if y.arr < best.arr then y else best) x)

/-- The claim that a unit is granted to (R16, R297): latency-critical first, in submission order within a class, and one
best-effort claim after BE_FLOOR latency-critical grants made while one waited. -/
def pickClaim (b : Body) (unit : Nat) (cs : List Claim) : Option Claim :=
  let lc := cs.filter Claim.cls
  let be := cs.filter (fun c => !c.cls)
  if floorTurn b unit && !be.isEmpty then firstClaim be else (firstClaim lc).orElse (fun _ => firstClaim be)

/-- Claims in the order in which a unit serves them (R16, R297). -/
def claimOrder (b : Body) (unit : Nat) (cs : List Claim) : List Claim :=
  let lc := sortKey Claim.arr (cs.filter Claim.cls)
  let be := sortKey Claim.arr (cs.filter (fun c => !c.cls))
  if floorTurn b unit then be.take 1 ++ lc ++ be.drop 1 else lc ++ be

/-! ### Who holds -/

def unitGrants (b : Body) (unit : Nat) : List Grant := b.units.grants.filter (fun g => g.unit == unit)

/-- The grant of an instance. -/
def grantAt (b : Body) (unit inst : Nat) : Option Grant := b.units.grants.find? (fun g => g.unit == unit && g.inst == inst)

/-- A command holds an instance of a unit. -/
def holdsUnit (b : Body) (unit oid : Nat) : Bool := b.units.grants.any (fun g => g.unit == unit && g.oid == oid)

/-- The command that holds a unit of one instance. -/
def holderOf (b : Body) (unit : Nat) : Option Nat := (grantAt b unit 0).map Grant.oid

/-- The buffers in which a yield parked the live state of a command in a unit are freed once the command has it back (R296). -/
def unpark (unit oid : Nat) (b : Body) : Body :=
  let mine := fun (p : Nat × Nat × CoilBuf) => p.1 == unit && p.2.1 == oid
  coilDrop ((b.units.parked.filter mine).map (fun p => p.2.2))
    { b with units := { b.units with parked := b.units.parked.filter (fun p => !mine p) } }

/-- A save or a restore holds a halyard engine under a number of its own, one for each context. -/
def saveHolder (c : Nat) : Nat := 2 ^ 64 + c

/-- The context of the command, home role, save or restore with a number. -/
def ctxOfOid (b : Body) (k : Nat) : Nat :=
  if 2 ^ 64 ≤ k then k - 2 ^ 64
  else match b.openOf k with
  | some o => o.ctx
  | none => ((b.gens.find? (fun g => g.oid == k)).map GenEnt.ctx).getD 0

/-- A switch ends with the first grant of a unit to the incoming context (R309, Table 12.11): one that no restore brings back has L_in
0. -/
def switchIn (oid : Nat) (b : Body) : Body :=
  if !b.cr.swWaits || 2 ^ 64 ≤ oid then b
  else { b with cr := { b.cr with swWaits := false, swIn := BitVec.ofNat 32 (fld 28 23 (ctxOfOid b oid)) } }

/-- Grant an instance to a command. -/
def giveUnit (unit inst oid item : Nat) (b : Body) : Body :=
  let b := switchIn oid b
  unpark unit oid { b with units := { b.units with
    grants := b.units.grants ++ [{ unit := unit, inst := inst, oid := oid, ctx := ctxOfOid b oid, item := item }] } }

/-- A command gives a unit back. -/
def dropUnit (unit oid : Nat) (b : Body) : Body :=
  { b with units := { b.units with grants := b.units.grants.filter (fun g => !(g.unit == unit && g.oid == oid)) } }

/-- A command holds a unit of one instance from now on, if it is free and the command is first among those that wait. -/
def takeUnit (unit oid : Nat) (cs : List Claim) (b : Body) : Bool × Body :=
  match holderOf b unit with
  | some k => (k == oid, b)
  | none =>
    match pickClaim b unit cs with
    | some c =>
      if c.oid == oid then (true, giveUnit unit 0 oid 0 (noteGrant unit c.cls (cs.any (fun x => !x.cls)) b)) else (false, b)
    | none => (false, b)

/-! ### Halyard engines (R213)

A COPY keeps its engines until it completes or yields. Every other stream takes one engine for each turn, and keeps it to the next
only while its memory access stalls. -/

def engineCount : Nat := 8

/-- Engines that hold no work, lowest first. -/
def idleEngines (b : Body) : List Nat := (List.range engineCount).filter (fun n => (grantAt b 0 n).isNone)

/-- A stream that needs an engine for a step finds one. -/
def engineFree (b : Body) : Bool := !(idleEngines b).isEmpty

/-- A stream of a command holds an engine or finds one. -/
def engineFor (b : Body) (oid : Nat) : Bool := holdsUnit b 0 oid || engineFree b

/-- The engine that a command holds for a WORK of Table 9.10. -/
def engineOf (b : Body) (oid work : Nat) : Option Grant :=
  b.units.grants.find? (fun g => g.unit == 0 && g.oid == oid && g.item == work)

/-- What the engine of a command waits for, from now on. -/
def engineWait (oid work on : Nat) (b : Body) : Body :=
  { b with units := { b.units with grants := b.units.grants.map (fun (g : Grant) =>
      if g.unit == 0 && g.oid == oid && g.item == work then { g with wait := on } else g) } }

/-- A COPY that is to run has no engine yet. -/
def copyWaits (b : Body) (o : Open) : Bool :=
  !o.held && o.reply.isNone && (b.ctx o.ctx).st == .run && !holdsUnit b 0 o.oid && (match o.work with
    | .copy x => !x.identity
    | _ => false)

/-- A best-effort COPY goes without an engine when the last idle one is granted. -/
def beCopyWaits (b : Body) : Bool :=
  (idleEngines b).length ≤ 1 && b.opens.any (fun o => !(b.ctx o.ctx).cls && copyWaits b o)

/-- A stream takes the engine that it holds, or the lowest idle one (R213), which counts for BE_FLOOR (R297). -/
def takeEngine (oid work : Nat) (b : Body) : Bool × Body :=
  if (engineOf b oid work).isSome then (true, engineWait oid work 0 b)
  else match idleEngines b with
    | e :: _ => (true, giveUnit 0 e oid work (noteGrant 0 (b.ctx (ctxOfOid b oid)).cls (beCopyWaits b) b))
    | [] => (false, b)

/-- A stream gives its engine back. -/
def dropEngine (oid work : Nat) (b : Body) : Body :=
  { b with units := { b.units with grants := b.units.grants.filter (fun g => !(g.unit == 0 && g.oid == oid && g.item == work)) } }

/-! ### Release -/

/-- Marlin lets its list go, and frees the card staging. -/
def freeMarlin (b : Body) : Body := coilDrop b.mrl.buf.toList { b with mrl := { b.mrl with held := none, buf := none } }

/-- Every unit that serves a context is released at its stop point (R275, R299). -/
def releaseUnits (c : Nat) (b : Body) : Body :=
  let b := { b with units := { b.units with grants := b.units.grants.filter (fun g => g.ctx != c) } }
  if b.mrl.held.any (fun k => ctxOfOid b k == c) then freeMarlin b else b

/-- The buffers of a context's yields are gone with its others. -/
def forgetParked (c : Nat) (b : Body) : Body :=
  { b with units := { b.units with parked := b.units.parked.filter (fun p => p.2.2.ctx != some c) } }

end Sys2Proof.Machine
end

