-- ==== Sys2Proof/Machine/Faults.lean ====
section
/-! DEFINITION. Completion of commands, tandem comparison, and what a soft or hard fault does (spec/11 R273 to R284,
spec/13 R328 to R333, spec/14 R354). -/

namespace Sys2Proof.Machine

/-! ### Reply bodies (Table 14.6) -/

/-- FIRST_VOID: the number of pieces when there was no void (R250). -/
def CollectWork.firstVoidOr (w : CollectWork) : Nat := w.firstVoid.getD w.names.length

/-- The body words of a command's reply and its hanks. -/
def replyBody (b : Body) (o : Open) : List Nat × Nat :=
  match o.work with
  | .route w =>
    let l := (b.ctx o.ctx).ledger.find? (fun l => l.uid == w.uid)
    ([w.step, (l.map Ledger.w).getD w.w, (l.map Ledger.s).getD 0, 0], 1)
  | .combine w =>
    ([w.step, w.rowsDone, w.emptyRows, fld 11 0 w.failExpert + fld 23 16 w.failStatus], 1)
  | .copy w => ([w.hanks, 0, 0, 0], 1)
  | .collect w => ([w.names.length, w.firstVoidOr, w.nullLocal, w.dropped], 1)
  | .muster t => ([t % 2 ^ 32, t / 2 ^ 32 % 2 ^ 32, 0, 0], 1)
  | .save => ([(b.ctx o.ctx).lout, 0, 0, 0], 1)
  | .resume restore => ([if restore then (b.ctx o.ctx).lin else 0, 0, 0, 0], 1)
  | .dispatch _ => ([], 0)
  | .cancel _ => ([], 0)
  | .none => ([], 0)

/-- The ledger entry that the reply of a command marks DONE: that of its ROUTE_STEP (R151). -/
def Open.ledger (o : Open) : Option Nat :=
  match o.work with
  | .route w => some w.uid
  | _ => none

/-- FLAGS of a command's reply: CELL_BAD of a COLLECT (R250). -/
def Open.flags (o : Open) : Nat :=
  match o.work with
  | .collect w => b2n w.cellBad
  | _ => 0

/-- A reply record of an open command (R354). -/
def mkReply (b : Body) (o : Open) (status flags : Nat) : OutRec :=
  let (ws, n) := replyBody b o
  { kind := o.cmd.code, ctx := o.cmd.ctxOpt, shown := o.cmd.ctx, body := ws, hanks := n, seq := o.cmd.seq, status := status,
    flags := flags, ledger := o.ledger }

/-- The body of a command that a teardown stops: a save counts the hanks written and a restore those read, so far (R281). -/
def stopBody (b : Body) (o : Open) : List Nat × Nat :=
  let s := (b.ctx o.ctx).save
  match o.work with
  | .save => ([if o.held then 0 else (s.map (fun w => w.total - w.items.length)).getD 0, 0, 0, 0], 1)
  | .resume restore => ([if restore then (s.map (fun w => w.got.length)).getD 0 else 0, 0, 0, 0], 1)
  | _ => replyBody b o

/-- The reply of a command that a teardown stops, with the fault hank after its body (R281, R354). -/
def tornReply (b : Body) (o : Open) (status : Nat) (fault : List Nat) : OutRec :=
  let (ws, n) := stopBody b o
  { mkReply b o status o.flags with body := ws ++ fault, hanks := n + 1 }

/-- The fault hank of R354: UNIT, ADDR_KIND, PART_RESET and CMD_SEQ of a notice, address. -/
def faultHank (unit kind addr seq : Nat) (reset : Bool) : List Nat :=
  [fld 3 0 (if unit > 15 then 15 else unit) + fld 5 4 kind + fld 6 6 (b2n reset), seq, addr % 2 ^ 32,
   addr / 2 ^ 32 % 2 ^ 12]

/-! ### Tandem records (R328 to R333) -/

def tandemCtx (b : Body) (c : Nat) : Bool :=
  b.fab.tEn && (if c < 32 then b.fab.tCtxLo.getLsbD c else b.fab.tCtxHi.getLsbD (c - 32))

/-- The two hanks of a tandem record (Table 13.6). -/
def tandemHanks (t : Tandem) : List Hank :=
  [i32Hank [t.tseq, fld 5 0 t.ctx + fld 13 6 t.code + fld 15 14 t.outcome, t.digest % 2 ^ 32, t.digest / 2 ^ 32],
   i32Hank [t.items, t.step, 0, 0]]

/-- The tandem record that a packet's hanks spell. -/
def tandemOf (hs : List Hank) : Tandem :=
  let a := hs.getD 0 0
  let c := hs.getD 1 0
  { tseq := hW a 0, ctx := bits (hW a 1) 5 0, code := bits (hW a 1) 13 6, outcome := bits (hW a 1) 15 14,
    digest := hW a 2 + 2 ^ 32 * hW a 3, items := hW c 0, step := hW c 1 }

/-- STEP of a command's tandem record: of ROUTE_STEP and COMBINE (Table 13.6). -/
def workStep : Work → Nat
  | .route w => w.step
  | .combine w => w.step
  | _ => 0

def tandemRec (o : Open) (outcome : Nat) : Tandem :=
  { tseq := o.tseq.getD 0, ctx := o.ctx, code := o.cmd.code, outcome := outcome, digest := o.digest.toNat,
    items := o.items % 2 ^ 32, step := workStep o.work }

/-- Send a command's tandem record to the partner on VC5 (R330). -/
def sendTandem (own : Nat) (t : Tandem) (b : Body) : Body :=
  sendPacket own (partnerPkt own b.fab.partner.toNat 5 t.ctx (tandemHanks t)) b

/-- The first divergence or loss is latched (R332, Table 13.10). -/
def latchDiv (t : Tandem) (lost : Bool) (b : Body) : Body :=
  let b := count Cnt.tandemDiv 1 (some t.ctx) b
  if b.fab.div.getLsbD 15 then b
  else
    let w := fld 5 0 t.ctx + fld 13 6 t.code + fld 14 14 (b2n lost) + 2 ^ 15
    { b with fab := { b.fab with div := BitVec.ofNat 32 w, divTseq := BitVec.ofNat 32 t.tseq } }

/-- Words 0 to 5 of hanks 1 and 2 of N_FAULT_HARD for the tandem codes (Table 14.7). -/
def tandemWords (t : Tandem) (own partner : Nat) : List Nat :=
  [t.tseq, t.code, own % 2 ^ 32, own / 2 ^ 32, partner % 2 ^ 32, partner / 2 ^ 32, 0, 0]

/-! ### Teardown (R280 to R282) -/

/-- The ENDs of a half, in ascending member index. -/
def endPkts (m : HomeMap) (half : Nat) : List SendPkt :=
  (List.range m.members.length).map (fun d => { dest := d, half := half, isEnd := true })

/-- Tokens of half A in halves mode, at least one place before the end of the batch (R173). -/
def halfA (n : Nat) : Nat := max 1 (cdiv n 2)

/-- ENDs that the sending role has not sent: those in its queue, and those of the halves that have not entered it. -/
def unsentEnds (g : GenEnt) : List SendPkt :=
  if g.sent then []
  else g.sendQ.filter SendPkt.isEnd
    ++ (if g.map.mode == 2 then (if g.queued < halfA g.n then endPkts g.map 0 else []) ++ (if g.queued ≤ g.n then endPkts g.map 1 else [])
        else if g.queued ≤ g.n then endPkts g.map 0 else [])

/-- Word 1 of a packet of an exchange (R167). -/
def exchangeW1 (g : GenEnt) (half kind : Nat) : Nat :=
  fld 15 0 g.generation + fld 23 16 g.xg + fld 24 24 (b2n g.cls) + fld 25 25 half + fld 27 26 kind

/-- The header of an END (Table 8.2): COUNT is the TOKEN packets sent to the member in the half. -/
def endHeader (g : GenEnt) (p : SendPkt) (voided : Bool) : Hank :=
  i32Hank [fld 27 16 g.mself, exchangeW1 g p.half 1,
    fld 16 0 (g.counts.getD (2 * p.dest + p.half) 0) + fld 17 17 (b2n voided), 0]

/-- A packet of the sending role before the switch. -/
def sendPkt (own : Nat) (g : GenEnt) (p : SendPkt) (hs : List Hank) (b : Body) : Body :=
  let pkt : Packet :=
    { dst := g.map.members.getD p.dest 0, src := own, vc := 3, hanks := hs, origin := true, ctx := some g.ctx, stg := p.stg }
  act (if g.dispatchOid.isSome then 4 else 0) 6 0 (sendPacket own pkt b)

/-- An END with VOIDED 1 for every END still unsent (Table 8.7). -/
def voidEnds (own : Nat) (g : GenEnt) (b : Body) : Body :=
  (unsentEnds g).foldl (fun b e => sendPkt own g e [endHeader g e true] b) b

/-- Void a live entry (R187, Table 8.7): unsent TOKEN packets are dropped and the unsent ENDs go out VOIDED. Hawser and its halyard
engine are free of it. -/
def voidGen (own uid : Nat) (b : Body) : Body :=
  match b.gen uid with
  | none => b
  | some g =>
    if g.void || !g.live then b
    else
      let b := dropUnit 6 g.oid (dropEngine g.oid 5 (voidEnds own g b))
      let b := b.modCtx g.ctx (fun x => { x with
        ledger := x.ledger.map (fun e => if e.uid == g.uidL then { e with genVoid := true } else e) })
      b.modGen uid (fun g => { g with
        void := true, sendQ := [], early := [], sent := true,
        expected := if g.sent then g.expected else g.slotsSent })

/-- The home role ends: no further card, no further answer (R189, R224). Its units and its sort buffers are free. -/
def endHome (uid : Nat) (b : Body) : Body :=
  match b.gen uid with
  | none => b
  | some g =>
    let b := dropUnit 3 g.oid (dropEngine g.oid 2 (dropEngine g.oid 5 (coilDrop g.home.fltBufs b)))
    b.modGen uid (fun g => { g with
      home := { g.home with ended := true, walk := [], outQ := [], answers := [], fltBufs := [] } })

/-- The home role of an entry still has packets to take, cards to emit or answers to send (R178). -/
def homeBusy (b : Body) (g : GenEnt) : Bool :=
  g.home.opened && !g.home.ended && (!g.homeDone || !g.home.answers.isEmpty || b.mrl.cards.any (fun e => e.gen == some g.uid))

/-- Retired entries go once their home role and their ROUTE_STEP are over. -/
def pruneGens (b : Body) : Body :=
  { b with gens := b.gens.filter (fun g => g.live || homeBusy b g || b.opens.any (fun o => o.oid == g.oid)) }

/-- An entry retires (R166); the model keeps it while its home role is busy or its ROUTE_STEP is open. -/
def retireGen (uid : Nat) (b : Body) : Body := pruneGens (b.modGen uid (fun g => { g with live := false }))

/-- Cards of a torn context stay until their completions, and count toward nothing (R141, R280). -/
def deadCards (c : Nat) (b : Body) : Body :=
  { b with mrl := { b.mrl with cards := b.mrl.cards.map (fun e => if e.ctx == c then { e with dead := true } else e) } }

/-- The command or home role with a card list under this number still has cards or cells to emit. -/
def listAlive (b : Body) (k : Nat) : Bool :=
  b.opens.any (fun o => o.oid == k && (match o.work with
    | .route w => w.stage == .cards
    | _ => false))
  || b.gens.any (fun g => g.oid == k && !g.home.walk.isEmpty)

/-- Marlin lets go of a card list that is finished or whose command has ended. -/
def dropMarlin (b : Body) : Body :=
  match b.mrl.held with
  | some k => if listAlive b k then b else freeMarlin b
  | none => b

/-- Reply to every open command of a torn context: the faulting one with the code, the others TORN_DOWN (R281). A tandem
command's record carries OUTCOME 3 (R333). -/
def replyTorn (own c : Nat) (faulting : Option Nat) (code : Nat) (fh : List Nat) (b : Body) : Body :=
  let os := b.opens.filter (fun o => o.ctx == c && !o.cmd.isGlobal)
  os.foldl (fun b o =>
    let st := if some o.oid == faulting then code else Code.tornDown
    let b := if tandemCtx b c && o.tseq.isSome && o.reply.isNone then sendTandem own (tandemRec o 3) b else b
    sendReply o (tornReply b o st fh) true b) b

/-- A context leaves the save path: its save area is abandoned and an eviction of it ends (R284, R310). -/
def leaveSave (c : Nat) (b : Body) : Body :=
  endEviction c (b.modCtx c (fun x => { x with
    savePending := false, evictPending := false, save := none, auto := false, dropped := false, cmdRec := none, saveRec := none }))

/-- The skein and the splice engine have freed the buffers of a torn context: packets stay as strays (R182, R190), and a
read of one of its packets is cut and discarded, as by CANCEL_BATCH (R185, R280). -/
def sknForget (c : Nat) (b : Body) : Body :=
  let f := fun (p : SknPkt) => if p.buf.bind CoilBuf.ctx == some c then { p with buf := none } else p
  let cut := b.skn.reading.any (fun p => (b.gen p.gen).any (fun g => g.ctx == c))
  let kept := fun (p : Packet) => if p.buf.bind CoilBuf.ctx == some c then { p with buf := none } else p
  { b with
    fab := { b.fab with rx := b.fab.rx.map kept },
    skn := { b.skn with
      fill := b.skn.fill.map f, drain := b.skn.drain.map f, reading := if cut then none else b.skn.reading,
      stage := if cut then none else b.skn.stage, discard := if cut then b.skn.discard + 1 else b.skn.discard } }

/-- Tear down one context (R280, R281). -/
def teardown (own c : Nat) (faulting : Option Nat) (code : Nat) (fh : List Nat) (b : Body) : Body :=
  let x := b.ctx c
  if !x.created || x.st == .torn then b
  else
    let b := sknForget c (forgetParked c (coilFreeCtx c (releaseUnits c b)))
    let gs := (b.gens.filter (fun g => g.ctx == c)).map GenEnt.uid
    let b := gs.foldl (fun b u => retireGen u (endHome u (voidGen own u b))) b
    let b := orphanPieces own c b
    let b := orphanMusters own c b
    let b := deadCards c b
    let b := b.modCtx c (fun x => { x with st := .torn })
    let b := { b with thm := { b.thm with tiles := b.thm.tiles.filter (fun t => t.ctx != c) } }
    let b := if b.thm.header.any (fun t => t.ctx == c) then
        { b with thm := { b.thm with header := none, tpHold := false } } else b
    let b := { b with fab := { b.fab with compare := b.fab.compare.filter (fun e => e.r.ctx != c) } }
    chooseVictim (pruneGens (dropMarlin (leaveSave c (replyTorn own c faulting code fh b))))

/-- Contexts of a partition. -/
def ctxsOf (b : Body) (p : Nat) : List Nat :=
  (List.range 64).filter (fun c => (b.ctx c).created && b.partOf c == p)

/-- Group `n` has pieces or MUSTERs outstanding (Table 10.14 BUSY). -/
def groupBusy (b : Body) (n : Nat) : Bool :=
  b.thm.pieces.any (fun p => p.group == n) || b.thm.musters.any (fun m => m.group == n)

/-- A closing group closes once nothing of it is outstanding (R231). -/
def settleGroups (b : Body) : Body :=
  { b with thm := { b.thm with groups := (List.range 16).map (fun n =>
    let g := b.group n
    if g.closing && !groupBusy b n then { g with closing := false, early := [] } else g) } }

/-- Close a group: OPEN falls at once, and the group is closing while it is busy (R231, R282). -/
def closeGroup (n : Nat) (b : Body) : Body :=
  settleGroups (b.modGroup n (fun g => if g.opened then { g with opened := false, closing := true } else g))

/-- Partition modes whose scope of a hard fault is the partition (Table 12.3): every mode but SERVICE. -/
def resetsPartition (b : Body) (p : Nat) : Bool := (b.part p).mode != 2

/-- A hard fault of a context (R280 to R282): N_FAULT_HARD, then the teardown of the context, or in START, TEST and
RECOVERY the reset of its partition. `faulting` is the open command that faulted. A context that is not created or
already torn meets nothing (Table 11.9). -/
def hardFault (own c : Nat) (faulting : Option Nat) (seq code unit kind addr : Nat) (extra : List Nat) (b : Body) : Body :=
  let x := b.ctx c
  if !x.created || x.st == .torn then b
  else
    let p := b.partOf c
    let reset := resetsPartition b p
    let fh := faultHank unit kind addr seq reset
    let b := notice Ntc.faultHard (some c) seq code 3 (fh ++ (extra ++ List.replicate 8 0).take 8) unit b
    let rh := faultHank unit kind addr 0 false
    let b := teardown own c faulting code rh b
    if reset then
      let b := (ctxsOf b p).foldl (fun b d => teardown own d none code rh b) b
      let ways := (b.part p).ways
      let b := { b with coil := { b.coil with bufs := b.coil.bufs.filter (fun x => !ways.getLsbD x.way) } }
      let b := (List.range 16).foldl (fun b n => if (b.group n).part.toNat == p then closeGroup n b else b) b
      { b with parts := tmod b.parts p (fun x => { x with mode := 3, resetSeen := true, evicting := none }) }
    else settleGroups b

/-- The words of a restart record (Table 11.8). -/
def recWords (r : RestartRec) : List Nat :=
  [fld 3 0 r.unit + fld 5 4 r.access + fld 6 6 r.level + fld 7 7 r.kind + fld 13 8 r.ctx + fld 14 14 (b2n r.more), r.cmdSeq,
   r.vaddr % 2 ^ 32, r.vaddr / 2 ^ 32, r.position, 0, 0, 0]

/-- N_FAULT_SOFT of a context that still stands in the outward store takes another record. -/
def retell (c : Nat) (r : RestartRec) (b : Body) : Body :=
  { b with cp := { b.cp with out := b.cp.out.map (fun x =>
      if x.notice && x.kind == Ntc.faultSoft && x.ctx == some c then { x with body := recWords r, seq := r.cmdSeq } else x) } }

/-- A miss of a context in FAULTED (R275): at the tick of the recorded one the units have not all stopped (DESIGN CHOICE,
log 97), so MORE is set, and of the two misses the lower UNIT is recorded; later it changes nothing (R277). -/
def furtherMiss (now : Nat) (r : RestartRec) (x : Ctx) : Ctx :=
  if x.recAt != now then x
  else { x with cmdRec := x.cmdRec.map (fun old => if r.unit < old.unit then { r with more := true } else { old with more := true }) }

/-- The first soft fault of a context in RUN stops it in FAULTED with its restart record and N_FAULT_SOFT; a further one
sets MORE; in any other state it changes nothing (R275, Table 11.9). -/
def softFault (c unit access level vaddr seq pos : Nat) (b : Body) : Body :=
  let x := b.ctx c
  let r : RestartRec :=
    { unit := unit, access := access, level := level, kind := 0, ctx := c, cmdSeq := seq, vaddr := vaddr, position := pos }
  match x.st with
  | .run =>
    let b := releaseUnits c (b.modCtx c (fun x => { x with st := .faulted, cmdRec := some r, recAt := b.now }))
    notice Ntc.faultSoft (some c) seq Code.xltMiss 2 (recWords r) unit b
  | .faulted =>
    let b := b.modCtx c (furtherMiss b.now r)
    if x.recAt == b.now && (x.cmdRec.any (fun old => r.unit < old.unit)) then retell c { r with more := true } b else b
  | _ => b

/-- Lines read and written by the whole block. -/
def linesMoved (b : Body) : Nat := b.obs.glob.getD Cnt.linesRd 0 + b.obs.glob.getD Cnt.linesWr 0

/-- The energy class of an open command. -/
def openClass (b : Body) (oid : Option Nat) : Nat := ((oid.bind b.openOf).map (fun o => classOf o.cmd.code)).getD 6

/-- Lines that a stream of an energy class moved, as handshakes of the translator (R403, R419). -/
def countLines (cls : Nat) (old b : Body) : Body :=
  let n := linesMoved b - linesMoved old
  if n == 0 then b else acts cls 17 0 n b

/-- Run a stream of a class of commands; what a stop does is the fault rules'. `pos` reads the position after the stop. The number
says what a stalled access waits for. -/
def streamRun (own c cls : Nat) (oid : Option Nat) (seq unit : Nat) (pos : Body → Nat) (m : Io Unit) (b : Body) : Nat × Body :=
  let moved := countLines cls b
  match Io.on m b with
  | (.ok _, b') => (0, moved b')
  | (.error (.soft level access v), b') => (0, softFault c unit access level v seq (pos b') (moved b'))
  | (.error (.hard code kind addr u extra), b') => (0, hardFault own c oid seq code (u.getD unit) kind addr extra (moved b'))
  | (.error (.wait on), b') => (on, moved b')

/-- A stream of an open command that needs no halyard engine. -/
def runStream (own c : Nat) (oid : Option Nat) (seq unit : Nat) (pos : Body → Nat) (m : Io Unit) (b : Body) : Body :=
  (streamRun own c (openClass b oid) oid seq unit pos m b).2

/-- A stream on a halyard engine, which it takes and gives back; it keeps the engine while its access stalls (R213, R215). -/
def engineRun (holder work : Nat) (run : Body → Nat × Body) (b : Body) : Body :=
  let k := takeEngine holder work b
  if !k.1 then b
  else
    let r := run k.2
    if r.1 == 0 then dropEngine holder work r.2 else engineWait holder work r.1 r.2

/-- A stream of an open command on a halyard engine. -/
def engineStream (own c work : Nat) (oid : Option Nat) (holder seq unit : Nat) (pos : Body → Nat) (m : Io Unit) (b : Body) : Body :=
  engineRun holder work (streamRun own c (openClass b oid) oid seq unit pos m) b

/-! ### Completion -/

/-- Replies that a removed compare entry lets go (R331): every command without HOLD whose own record now stands within the
table's 1,024 records. -/
def releaseHeld (b : Body) : Body :=
  if b.fab.tHold then b
  else
    let ids := (b.fab.compare.take 1024).filterMap TandemEnt.oid
    (b.opens.filter (fun o => ids.contains o.oid)).foldl (fun b o =>
      match o.reply with
      | some r => sendReply o r true b
      | none => b) b

/-- Two records of one command meet: equal ones let the reply go, different ones raise TANDEM_DIVERGE (R331, R332). -/
def compareTandem (own : Nat) (mine theirs : Tandem) (oid : Option Nat) (b : Body) : Body :=
  if mine = theirs then
    match oid.bind b.openOf with
    | some o => match o.reply with
      | some r => sendReply o r true b
      | none => b
    | none => b
  else
    let b := latchDiv mine false b
    let seq := ((oid.bind b.openOf).map (fun o => o.cmd.seq)).getD 0
    hardFault own mine.ctx oid seq Code.tandemDiverge 7 0 0 (tandemWords mine mine.digest theirs.digest) b

/-- The partner's record has come already: with HOLD 0 the command has replied, and its reply stands (R332). -/
def meetPartner (own oid : Nat) (r : OutRec) (mine theirs : Tandem) (b : Body) : Body :=
  if b.fab.tHold then compareTandem own mine theirs (some oid) (b.modOpen oid (fun o => { o with reply := some r }))
  else match b.openOf oid with
    | some o => compareTandem own mine theirs none (sendReply o r true b)
    | none => b

/-- No port that is not DOWN leads to the partner (R333). -/
def partnerLost (own : Nat) (b : Body) : Bool :=
  b.fab.tEn && b.fab.ports.any Port.down && (candidates b own b.fab.partner.toNat).isEmpty

/-- A record of this chip has no partner's record within the window, or no path to it: TANDEM_LOST on the context, with
the reports of R332. The partner's DIGEST in them is a free value (log 33). -/
def lostRecord (own : Nat) (e : TandemEnt) (b : Body) : Body :=
  if !b.fab.compare.contains e then b
  else
    let b := { b with fab := { b.fab with compare := b.fab.compare.erase e } }
    let (k, b) := fresh b
    let seq := ((e.oid.bind b.openOf).map (fun o => o.cmd.seq)).getD 0
    hardFault own e.r.ctx e.oid seq Code.tandemLost 7 0 0
      (tandemWords e.r e.r.digest (Config.lostDigest k).toNat) (latchDiv e.r true b)

/-- A record of this chip waits for its partner's; without a path to the partner it is lost at once (R331, R333). -/
def awaitPartner (own oid : Nat) (o : Open) (r : OutRec) (t : Tandem) (b : Body) : Body :=
  let room := b.fab.compare.length < 1024
  let hold := b.fab.tHold || !room
  let e : TandemEnt := { own := true, r := t, since := b.now, oid := if hold then some oid else none }
  let b := { b with fab := { b.fab with compare := b.fab.compare ++ [e] } }
  let b := if hold then b.modOpen oid (fun o => { o with reply := some r }) else sendReply o r true b
  if partnerLost own b then releaseHeld (lostRecord own e b) else b

/-- Complete an open command with a given reply (R354): at once, or for a tandem command under R330 and R331. -/
def completeWith (own oid : Nat) (r : OutRec) (outcome : Nat) (b : Body) : Body :=
  match b.openOf oid with
  | none => b
  | some o =>
    if tandemCtx b o.ctx && o.tseq.isSome then
      let t := tandemRec o outcome
      let b := sendTandem own t b
      match b.fab.compare.find? (fun e => !e.own && e.r.ctx == t.ctx && e.r.tseq == t.tseq) with
      | some e =>
        let b := { b with fab := { b.fab with compare := b.fab.compare.erase e } }
        releaseHeld (meetPartner own oid r t e.r b)
      | none => awaitPartner own oid o r t b
    else sendReply o r true b

/-- Complete an open command with the body of its kind (Table 14.6). -/
def complete (own oid status flags outcome : Nat) (b : Body) : Body :=
  match b.openOf oid with
  | none => b
  | some o => completeWith own oid (mkReply b o status flags) outcome b

end Sys2Proof.Machine
end

