-- ==== Sys2Proof/Machine/Intake.lean ====
section
/-! DEFINITION. Inward records: framing (R344, R345), the checks of intake (R347, R349, R351) and which registers are
reserved to privileged firmware (R460). -/

namespace Sys2Proof.Machine

/-! ### Registers reserved to privileged firmware (R460, Table 19.4)

A row is (first offset, count, stride). -/

def inRows (rows : List (Nat × Nat × Nat)) (off : Nat) : Bool :=
  rows.any (fun r => r.1 ≤ off && (off - r.1) % r.2.2 == 0 && (off - r.1) / r.2.2 < r.2.1)

/-- The registers marked † of chapters 14, 15, 3 to 8. -/
def reservedA : List (Nat × Nat × Nat) :=
  [(0x010010, 2, 4), (0x020100, 8, 4), (0x040030, 4, 4), (0x060010, 8, 4), (0x080004, 1, 4), (0x080010, 2, 4),
   (0x080104, 1, 4), (0x090004, 1, 4), (0x090010, 2, 4), (0x0A0004, 1, 4), (0x0A0010, 3, 4), (0x0C0004, 1, 4),
   (0x0C0010, 4, 4)]

/-- The registers marked † of chapters 9 to 13. -/
def reservedB : List (Nat × Nat × Nat) :=
  [(0x100300, 6, 4), (0x100320, 1, 4), (0x140004, 5, 4), (0x140020, 8, 4), (0x144000, 8, 4), (0x144020, 4, 4),
   (0x148010, 8, 4), (0x180000, 7, 4), (0x180020, 1, 4), (0x180028, 3, 4), (0x180100, 16, 4), (0x180200, 2, 4),
   (0x180300, 1, 4)]

/-- The registers marked † of chapters 16 to 18. -/
def reservedC : List (Nat × Nat × Nat) :=
  [(0x1C0100, 36, 4), (0x1C0418, 1, 4), (0x1C0500, 12, 4), (0x1C0600, 3, 4), (0x1C0610, 4, 4), (0x200004, 6, 4),
   (0x200020, 8, 4), (0x200040, 16, 4), (0x200100, 30, 4), (0x200180, 30, 4), (0x2001F8, 1, 4), (0x200200, 5, 4),
   (0x200220, 4, 4), (0x200240, 3, 4), (0x200250, 3, 4), (0x200260, 2, 4)]

/-- The registers marked ‡: reserved for writes only. -/
def reservedWrite (off : Nat) : Bool :=
  inRows [(0x100220, 2, 4)] off || (0x101000 ≤ off && off < 0x101200 && (off - 0x101000) % 0x20 ≤ 0x10)

/-- Reserved in whole (†). -/
def reservedWhole (off : Nat) : Bool := inRows reservedA off || inRows reservedB off || inRows reservedC off

/-- The context copies of the counters and the latches, which follow R391. -/
def obsContextReg (off : Nat) : Bool :=
  inRows [(0x1C0000, 36, 4), (0x1C0200, 36, 4), (0x1C0300, 36, 4), (0x1C0400, 2, 4), (0x1C0408, 4, 4)] off

/-- A register access needs CPI_PRIV 1 (R349, R391). -/
def accessPriv (write isGlobal : Bool) (off : Nat) : Bool :=
  reservedWhole off || (write && reservedWrite off) || (!write && isGlobal && obsContextReg off)

/-! ### Checks of intake (R347, R349, Table 14.4) -/

def knownCodes : List Nat :=
  [0x01, 0x02, 0x10, 0x11, 0x12, 0x13, 0x14, 0x15, 0x16, 0x20, 0x21, 0x30, 0x31, 0x38, 0x39]

/-- Body hanks of a command (Table 14.4). -/
def bodyOf (code : Nat) : Nat :=
  if code == Cmd.routeStep then 3
  else if [Cmd.loadLay, Cmd.applySplice, Cmd.combine, Cmd.dispatch, Cmd.muster, Cmd.cancelBatch, Cmd.regWrite].contains code
  then 1 else 0

/-- GLOBAL is required, or forbidden, or either. -/
def globalOk (code : Nat) (g : Bool) : Bool :=
  if [Cmd.loadLay, Cmd.applySplice, Cmd.dump, Cmd.shutdown].contains code then g
  else if [Cmd.regRead, Cmd.regWrite].contains code then true
  else !g

/-- Commands that need CPI_PRIV 1 (Table 14.4). -/
def privCode (code : Nat) : Bool := [Cmd.loadLay, Cmd.applySplice, Cmd.dump, Cmd.shutdown].contains code

/-- Bits of w3 [31:12] that a command's ARG leaves reserved. -/
def argReserved (r : CmdRec) : Nat :=
  if r.code == Cmd.routeStep then bits r.w3 31 29
  else if r.code == Cmd.muster then bits r.w3 31 16
  else bits r.w3 31 12

/-- A header ADDR that the table gives as 0. -/
def addrZero (code : Nat) : Bool :=
  [Cmd.dispatch, Cmd.muster, Cmd.cancelBatch, Cmd.saveContext, Cmd.resume, Cmd.dump, Cmd.shutdown].contains code

/-- The body bits that a command leaves reserved, as one number that must be 0. -/
def bodyReserved (r : CmdRec) : Nat :=
  let rest := fun n => (r.body.drop n).sum
  let c := r.code
  if c == Cmd.routeStep then bits (r.b 5) 31 29 + bits (r.b 7) 31 28 + bits (r.b 8) 31 8 + rest 9
  else if c == Cmd.dispatch then bits (r.b 0) 31 24 + rest 1
  else if c == Cmd.muster then rest 3
  else if c == Cmd.cancelBatch then bits (r.b 0) 31 25 + rest 1
  else rest 1

def registerCode (code : Nat) : Bool := code == Cmd.regRead || code == Cmd.regWrite

/-- CMD_FORM (R349 check 2). -/
def formOk (r : CmdRec) : Bool :=
  r.bodyHanks == bodyOf r.code && globalOk r.code r.isGlobal && bits r.w0 31 24 == 0 && argReserved r == 0
    && (!addrZero r.code || r.addr == 0) && bodyReserved r == 0
    && (!registerCode r.code || (r.addr % 4 == 0 && r.addr < 0x400000))

/-- CMD_PRIV (R349 check 3). -/
def privOk (r : CmdRec) : Bool :=
  r.priv || !(privCode r.code || (registerCode r.code && accessPriv (r.code == Cmd.regWrite) r.isGlobal r.addr))

/-- Commands that do not join a queue: they are checked and accepted when they arrive (R350, R406). -/
def expressCode (code : Nat) : Bool := [Cmd.dispatch, Cmd.cancelBatch, Cmd.resume, Cmd.dump].contains code

/-- Hanks of the records queued and not accepted on a queue (R351). -/
def queueHanks (b : Body) (q : Nat) : Nat := ((b.cp.queue.filter (fun r => r.queue == q)).map CmdRec.hanks).sum

/-- Open commands of a context, those whose reply still waits for room included (R354, R357). -/
def openCount (b : Body) (c : Nat) : Nat :=
  (b.opens.filter (fun o => o.ctx == c && !o.cmd.isGlobal)).length
    + (b.cp.waitOut.filter (fun r => r.acc && r.ctx == some c)).length

/-- Records of a context that wait for acceptance. -/
def queuedCount (b : Body) (c : Nat) : Nat :=
  ((b.cp.queue ++ b.cp.express).filter (fun r => !r.isGlobal && r.ctx == c)).length

/-- CP_QUOTA (R351). -/
def quotaOk (r : CmdRec) (b : Body) : Bool :=
  (expressCode r.code || queueHanks b r.queue + r.hanks ≤ 256)
    && (r.isGlobal || openCount b r.ctx + queuedCount b r.ctx + 1 ≤ 1023)

/-- Commands that a lay must precede: all but LOAD_LAY, REG_READ, REG_WRITE, DUMP and SHUTDOWN (R375, R438). -/
def needsLay (code : Nat) : Bool :=
  !(List.contains [Cmd.loadLay, Cmd.regRead, Cmd.regWrite, Cmd.dump, Cmd.shutdown] code)

/-- Refusals by the condition of the block: SHUTTING (R441), OBS_HALTED (R410). -/
def conditionCheck (r : CmdRec) (b : Body) : Check := do
  failIf ((b.blk.shutting || b.blk.shut) && !registerCode r.code) Code.shutting
  failIf (b.hang.halted && !(registerCode r.code || r.code == Cmd.dump || r.code == Cmd.shutdown)) Code.obsHalted

/-- The checks of intake in order (R349). -/
def intakeCheck (r : CmdRec) (b : Body) : Check := do
  failIf (!knownCodes.contains r.code) Code.cmdUnknown
  failIf (!formOk r) Code.cmdForm
  failIf (!privOk r) Code.cmdPriv
  conditionCheck r b
  failIf (!quotaOk r b) Code.cpQuota

/-- A record taken whole: refused, queued, or kept for its immediate acceptance (R349 to R351). -/
def intake (r : CmdRec) (b : Body) : Body :=
  match intakeCheck r b with
  | .error code => refuse r code b
  | .ok () =>
    let r := { r with arr := b.cp.arr }
    let b := { b with cp := { b.cp with arr := b.cp.arr + 1 } }
    if expressCode r.code then { b with cp := { b.cp with express := b.cp.express ++ [r] } }
    else { b with cp := { b.cp with queue := b.cp.queue ++ [r] } }

/-! ### Heads of queues (R350, R352, Table 14.14) -/

/-- The record at the head of a queue. -/
def headRec (b : Body) (q : Nat) : Option CmdRec := b.cp.queue.find? (fun r => r.queue == q)

/-- A record on the global queue and a REG_WRITE wait for every record taken before them (R352). -/
def waitsEarlier (b : Body) (r : CmdRec) : Bool :=
  (r.isGlobal || r.code == Cmd.regWrite) && (b.cp.queue ++ b.cp.express).any (fun x => x.arr < r.arr)

/-- A record whose acceptance met XLT_MISS stays at the head until RESUME (R463). -/
def headFaulted (b : Body) (r : CmdRec) : Bool :=
  !r.isGlobal && (b.ctx r.ctx).st != .run && (((b.ctx r.ctx).cmdRec.map RestartRec.unit) == some 13)

/-- A MUSTER of a context that is not released. -/
def musterOpen (b : Body) (c : Nat) : Bool :=
  b.opens.any (fun o => o.ctx == c && !o.cmd.isGlobal && o.reply.isNone && o.cmd.code == Cmd.muster)

/-- A REG_READ or REG_WRITE acts at its acceptance, which an earlier MUSTER of its context holds back (R334). -/
def regFenced (b : Body) (r : CmdRec) : Bool := registerCode r.code && !r.isGlobal && musterOpen b r.ctx

/-- The head record waits before acceptance for other records, for a MUSTER or for a RESUME. -/
def headWaits (b : Body) (r : CmdRec) : Bool := waitsEarlier b r || regFenced b r || headFaulted b r

/-- A throttle hold stops the acceptance of commands that use units; register commands, DUMP and SHUTDOWN go on (R427,
R410). -/
def holdStops (b : Body) (code : Nat) : Bool :=
  b.pwr.holding && !b.hang.halted && !(registerCode code || code == Cmd.dump || code == Cmd.shutdown)

/-- HEAD_WAIT and WHY of a queue (Table 14.14). -/
def queueState (b : Body) (q : Nat) : Nat :=
  if q > 64 then 0
  else
    let h := match headRec b q with
      | none => 0
      | some r =>
        let why := if r.why != 0 then r.why else if waitsEarlier b r then 3 else 0
        fld 9 9 (b2n (why != 0 || headWaits b r || holdStops b r.code)) + fld 11 10 (why % 4)
    fld 8 0 (queueHanks b q) + h

/-! ### Framing (R344, R345) -/

/-- Hank `h` of a record's transfers: stream byte b lies in transfer ⌊b/32⌋ (R344). -/
def transfersHank (ts : List (BitVec 256)) (h : Nat) : Hank :=
  BitVec.ofNat 136 ((ts.foldr (fun t acc => t.toNat + 2 ^ 256 * acc) 0) >>> (136 * h))

/-- The record that transfers spell: header and body words (R346). -/
def recordOf (ts : List (BitVec 256)) (priv : Bool) : CmdRec :=
  let h := transfersHank ts 0
  let n := bits (hW h 0) 23 16
  let body := (List.range n).flatMap (fun i => (List.range 4).map (fun e => hW (transfersHank ts (i + 1)) e))
  { w0 := hW h 0, w1 := hW h 1, w2 := hW h 2, w3 := hW h 3, body := body, priv := priv }

/-- Transfers of a record with the header of its first transfer (R344). -/
def transferCount (t : BitVec 256) : Nat := cdiv (17 * (1 + bits (hW (transfersHank [t] 0) 0) 23 16)) 32

/-- A record broke framing: one event, and FRAME_BAD with the header of its first transfer, if there is one (R345). -/
def frameBad (ts : List (BitVec 256)) (b : Body) : Body :=
  let b := { b with cp := { b.cp with
    partial_ := none, discard := true, frameBad := true, frameBadCnt := b.cp.frameBadCnt + 1 } }
  match ts with
  | [] => b
  | t :: _ => refuse (recordOf [t] false) Code.frameBad b

/-- A transfer joins the record that it continues: the record ends, goes on, or breaks framing because LAST falls on
another transfer than BODY implies (R345). -/
def joinTransfer (ts : List (BitVec 256)) (priv last : Bool) (b : Body) : Body :=
  let n := transferCount (ts.headD 0)
  if last != (ts.length == n) then frameBad ts b
  else if last then intake (recordOf ts priv) { b with cp := { b.cp with partial_ := none } }
  else { b with cp := { b.cp with partial_ := some (ts, priv) } }

/-- One transfer (R345). A transfer that breaks framing is discarded with every later one up to the next FIRST. -/
def takeTransfer (t : Transfer) (b : Body) : Body :=
  match b.cp.partial_ with
  | some (ts, p) => if t.first then frameBad ts b else joinTransfer (ts ++ [t.data]) p t.last b
  | none =>
    if t.first then joinTransfer [t.data] t.priv t.last { b with cp := { b.cp with discard := false } }
    else if b.cp.discard then b
    else frameBad [] b

/-- Transfers on CPI while CPI_READY is 1: from DX_READY on (R437). Each is a handshake of the exempt logic (R420, R427). -/
def takeTransfers (ts : List Transfer) (b : Body) : Body :=
  if b.blk.dxReady then ts.foldl (fun b t => takeTransfer t (charge 7 13 1 b)) b else b

end Sys2Proof.Machine
end

