-- ==== Sys2Proof/Machine/Score.lean ====
section
/-! DEFINITION. Scores of the garnet arrays (spec/03): the exact path, the fallback path and the K tiles. -/

namespace Sys2Proof.Machine

/-! ### Operand pairs (R72, Table 3.1) -/

/-- The path of a format pair: true for exact, false for fallback, none where the pair is refused. -/
def scorePath (t w : Fmt) : Option Bool :=
  if fmtIsExact t && fmtIsExact w then some true
  else if (t == .bf16 || t == .fp32) && (w == .bf16 || w == .fp32) then some false
  else none

/-! ### The exact path (R75 to R78) -/

/-- One K position enters a long accumulator entry (R77). Bit 0 of the entry weighs 2^-288 (R76). -/
def accStep (a : LongAcc) (x y : Val) : LongAcc :=
  match mulVal x y with
  | .nan => { a with nan := true }
  | .inf true => { a with ninf := true }
  | .inf false => { a with pinf := true }
  | .fin neg m e =>
    let n : Int := (shl m (e + 288) : Nat)
    { a with entry := if neg then a.entry - n else a.entry + n }

/-- The products of consecutive K positions enter an entry. -/
def accRow (a : LongAcc) (xs ys : List Val) : LongAcc := (xs.zip ys).foldl (fun a p => accStep a p.1 p.2) a

/-- The exact value of an entry with its flags (R77). -/
def accVal (a : LongAcc) : Val :=
  if a.nan || (a.pinf && a.ninf) then .nan
  else if a.pinf then .inf false
  else if a.ninf then .inf true
  else .fin (a.entry < 0) a.entry.natAbs (-288)

/-- The score of an entry, rounded once to FP32, and once directly to BF16 (R78). -/
def accScore (a : LongAcc) : Score := { f32 := toF32 (accVal a), bf16 := toBf16 (accVal a) }

/-! ### The fallback path (R80, R81) -/

/-- ⌊log2⌋ of the largest magnitude among the nonzero finite products; none without one. -/
def groupTop (ps : List Val) : Option Int :=
  ps.foldl (fun acc p => match p with
    | .fin _ m e =>
      if m = 0 then acc
      else
        let l : Int := (flog2 m : Int) + e
        match acc with
        | none => some l
        | some a => some (max a l)
    | _ => acc) none

/-- A finite product in units of u = 2^k, its magnitude rounded down. -/
def inUnits (k : Int) : Val → Int
  | .fin neg m e =>
    let n : Int := (shl m (e - k) : Nat)
    if neg then -n else n
  | _ => 0

/-- The sum of one group of at most 32 K positions (R80 steps 2 to 4, R81). -/
def groupSum (xs ys : List Val) : Nat :=
  let ps := (xs.zip ys).map (fun p => mulVal p.1 p.2)
  let pos := ps.contains (.inf false)
  let neg := ps.contains (.inf true)
  if ps.contains .nan || (pos && neg) then f32NaN
  else if pos then f32PInf
  else if neg then f32NInf
  else match groupTop ps with
    | none => 0
    | some e =>
      let t := (ps.map (inUnits (e - 26))).sum
      toF32 (.fin (t < 0) t.natAbs (e - 26))

/-- The group sums of consecutive K positions that start at a group. -/
def groupSums (xs ys : List Val) : List Nat := ((chunks 32 xs).zip (chunks 32 ys)).map (fun p => groupSum p.1 p.2)

/-- The score of the group sums of a column (R80 step 5); its BF16 form is that of R62. -/
def sumsScore (s : List Nat) : Score :=
  let v := ((treeFold faddTree s.length s).head?).getD 0
  { f32 := v, bf16 := f32ToBf16 v }

/-! ### Runs, tiles and work units (R65 to R69) -/

def expertTiles (w : RouteWork) : Nat := cdiv w.cfg.experts 128
def kTiles (w : RouteWork) : Nat := cdiv w.hidden 128
/-- Work units of a step (R66). -/
def unitCount (w : RouteWork) : Nat := cdiv w.n 64 * expertTiles w

/-- Work unit `u` with its entries cleared: units are taken in ascending (run, expert tile). -/
def newUnit (w : RouteWork) (u : Nat) : UnitWork :=
  let run := u / expertTiles w
  let tile := u % expertTiles w
  let nt := min 64 (w.n - 64 * run)
  let nc := min 128 (w.cfg.experts - 128 * tile)
  { run := run, tile := tile, acc := List.replicate nt (List.replicate nc {}),
    sums := List.replicate nt (List.replicate nc []) }

/-- The index of a work unit: units are issued in ascending (run, expert tile). -/
def unitItem (w : RouteWork) (u : UnitWork) : Nat := u.run * expertTiles w + u.tile

/-- The unfinished unit with an index. -/
def unitAt (w : RouteWork) (item : Nat) : Option UnitWork := w.units.find? (fun u => unitItem w u == item)

/-- Hanks of K tile `j` within a row: first and count (R65, R67, R73). -/
def tileHanks (f : Fmt) (hidden j : Nat) : Nat × Nat :=
  (j * (128 / fmtGe f * fmtHg f), rowHanks f (min 128 (hidden - 128 * j)))

/-- The lines of consecutive hanks: first hank and number of each. -/
def lineRuns (base n : Nat) : List (Nat × Nat) :=
  let first := base % 15
  (List.range (cdiv (first + n) 15)).map (fun i =>
    let lo := if i == 0 then base else base - first + 15 * i
    (lo, min (base - first + 15 * (i + 1)) (base + n) - lo))

/-- What is left of line runs after `k` of their hanks. -/
def leftRuns (k : Nat) : List (Nat × Nat) → List (Nat × Nat)
  | [] => []
  | r :: rest => if r.2 ≤ k then leftRuns (k - r.2) rest else r :: rest

/-- The values of a row's hanks from address `v`, with the tag rules checked where they are decoded (R56, R57, R79). -/
def decodeHanks (f : Fmt) (v n : Nat) (hs : List Hank) : Io (List Val) := do
  let gs := chunks (fmtHg f) hs
  match (gs.findIdx? (tagBad f)) with
  | some i => Io.hard Code.fmtTagMismatch 1 (v44 (v + i * fmtHg f))
  | none => pure ((gs.flatMap (groupVals f)).take n)

/-- What a pass reads of one operand (R65, R67, R68): its format, the base of its rows and their distance in hanks, the first row,
the number of rows, and the K tile of the hidden size. -/
structure Operand where
  fmt : Fmt
  base : Nat
  dist : Nat
  first : Nat
  count : Nat
  hidden : Nat
  tile : Nat

/-- The operand rows of a step for the next pass of a unit: the tokens of its run. -/
def tokenRows (w : RouteWork) (u : UnitWork) : Operand :=
  { fmt := (fmtOfCode w.tokFmt).getD .fp32, base := w.tokBase, dist := w.tokRow, first := 64 * u.run,
    count := min 64 (w.n - 64 * u.run), hidden := w.hidden, tile := u.kTile }

/-- The operand rows of a step for the next pass of a unit: its weight tile. -/
def weightRows (w : RouteWork) (u : UnitWork) : Operand :=
  { fmt := (fmtOfCode w.wFmt).getD .fp32, base := w.wBase, dist := w.wRow, first := 128 * u.tile,
    count := min 128 (w.cfg.experts - 128 * u.tile), hidden := w.hidden, tile := u.kTile }

/-- Hanks of one row of a pass. -/
def Operand.rowHanks (p : Operand) : Nat := (tileHanks p.fmt p.hidden p.tile).2

/-- Hanks of a pass. -/
def Operand.size (p : Operand) : Nat := p.count * p.rowHanks

/-- The address of row `i` of a pass. -/
def Operand.row (p : Operand) (i : Nat) : Nat := p.base + (p.first + i) * p.dist + (tileHanks p.fmt p.hidden p.tile).1

/-- The lines of a pass. -/
def Operand.runs (p : Operand) : List (Nat × Nat) := (List.range p.count).flatMap (fun i => lineRuns (p.row i) p.rowHanks)

/-- The values of a pass from its hanks. -/
def Operand.decode (p : Operand) (hs : List Hank) : Io (List (List Val)) :=
  ((List.range p.count).zip (chunks p.rowHanks hs)).mapM (fun q =>
    decodeHanks p.fmt (p.row q.1) (min 128 (p.hidden - 128 * p.tile)) q.2)

/-- The entries after a pass: each token of the run against each expert of the tile. -/
def passUnit (exact : Bool) (u : UnitWork) (toks wts : List (List Val)) : UnitWork :=
  let next := { u with kTile := u.kTile + 1 }
  if exact then
    { next with acc := (u.acc.zip toks).map (fun p => (p.1.zip wts).map (fun q => accRow q.1 p.2 q.2)) }
  else
    { next with sums := (u.sums.zip toks).map (fun p => (p.1.zip wts).map (fun q => q.1 ++ groupSums p.2 q.2)) }

/-- The segments of a finished unit (R69). -/
def unitSegs (exact : Bool) (u : UnitWork) : List Segment :=
  let rows := if exact then u.acc.map (fun r => r.map accScore) else u.sums.map (fun r => r.map sumsScore)
  rows.mapIdx (fun i r => { token := 64 * u.run + i, tile := u.tile, scores := r })

/-- Every segment of a token's row has arrived (R69). -/
def rowReady (w : RouteWork) (t : Nat) : Bool := (w.segs.filter (fun s => s.token == t)).length == expertTiles w

/-- The score row of a token, its segments in expert order (R69). -/
def scoreRow (w : RouteWork) (t : Nat) : List Score :=
  (List.range (expertTiles w)).flatMap (fun i =>
    ((w.segs.find? (fun s => s.token == t && s.tile == i)).map Segment.scores).getD [])

end Sys2Proof.Machine
end

