-- ==== Sys2Proof/Machine/UnitWaits.lean ====
section
/-! DEFINITION. The waiting-on and position registers of the units that serve ROUTE_STEP, COPY and homed placement, as functions of
the state (spec/03 R84, spec/04 Table 4.15, spec/05 R125, spec/06 R148, spec/08 R192, spec/09 R215). A stream runs inside one row
as far as it can; between rows a unit holds for a coil buffer, a free engine, another unit or the work port. -/

namespace Sys2Proof.Machine

/-! ### Grade and repair map (R71, R384, R385, R436) -/

/-- Garnet arrays that the grade enables. -/
def garPresent (b : Body) : Nat := bits (gradeWord b 0) 3 0

/-- Mica lanes that the grade enables. -/
def micPresent (b : Body) : Nat := gradeWord b 1 + 2 ^ 32 * gradeWord b 2

/-- Garnet arrays that take work: enabled by the grade and active in the lay (R14, R367). -/
def garActive (b : Body) : Nat := garPresent b &&& bits (b.layEl 1 0) 3 0

/-- Mica lanes that take work (R14, R367). -/
def micActive (b : Body) : Nat := micPresent b &&& (b.layEl 1 1 + 2 ^ 32 * b.layEl 1 2)

/-- Set bits of a 64-bit mask. -/
def popCount (n : Nat) : Nat := ((List.range 64).filter (fun i => bit n i)).length

/-- A coil request of a unit for a context waits (R271). -/
def coilHolds (b : Body) (req c : Nat) : Bool := b.coil.wait.any (fun r => r.req == req && r.ctx == some c)

/-! ### Garnet arrays (Tables 3.7, 3.9) -/

/-- What an array runs: context, step and unit. -/
structure ArrayWork where
  ctx : Nat
  w : RouteWork
  u : UnitWork

def arrayWork (b : Body) (n : Nat) : Option ArrayWork :=
  match grantAt b 1 n with
  | none => none
  | some g => match b.openOf g.oid, routeOf b g.oid with
    | some o, some w => (unitAt w g.item).map (fun u => { ctx := o.ctx, w := w, u := u })
    | _, _ => none

/-- The group of an array in GAR_WAIT: a finished unit whose segments are not all accepted, the weight tile of its next pass not
swapped in, the tokens of the pass still to come, or no unit. -/
def garGroup (b : Body) (n : Nat) : Nat :=
  match arrayWork b n with
  | none => 8
  | some a => if a.u.kTile == kTiles a.w then 4 else if a.u.swapped then 1 else 2

/-- GAR_WAIT of the enabled arrays. -/
def garWait (b : Body) : Nat :=
  ((List.range 4).map (fun n => if bit (garPresent b) n then garGroup b n <<< (4 * n) else 0)).sum

/-- GAR_POS_n; the K tile of a finished unit is its last. -/
def garPos (b : Body) (n : Nat) : Nat :=
  match arrayWork b n with
  | none => 0
  | some a => fld 9 0 a.u.run + fld 14 10 a.u.tile + fld 22 15 (min a.u.kTile (kTiles a.w - 1)) + fld 28 23 a.ctx + 2 ^ 31

/-! ### Mica lanes (Table 4.15) -/

/-- Score rows that the mica lanes hold: whether each is complete. A row that selection has taken is held no longer. -/
def heldRows (b : Body) : List Bool :=
  b.opens.flatMap (fun o => match o.work with
    | .route w => w.rowBufs.map (fun p => rowReady w p.1)
    | _ => [])

/-- MIC_WAIT: lanes with a partial row, lanes with a complete row that selection has not taken, idle lanes. A lane holds one row
until there are more rows than lanes (DESIGN CHOICE, log 101). -/
def micWait (b : Body) : Nat :=
  let rows := heldRows b
  let all := popCount (micPresent b)
  let seg := min (popCount (micActive b)) (rows.filter (!·)).length
  let sel := min (popCount (micActive b) - seg) (rows.filter (·)).length
  fld 6 0 seg + fld 22 16 sel + fld 30 24 (all - seg - sel)

/-! ### Selection and the flint sorter (Tables 5.7, 5.8, 6.9, 6.10) -/

/-- The step that selection holds. -/
def selHeld (b : Body) : Option (Open × RouteWork) :=
  match holderOf b 2 with
  | some k => (match b.openOf k, routeOf b k with
    | some o, some w => some (o, w)
    | _, _ => none)
  | none => none

/-- The flint sorter does not accept a step: another holds it, or the step waits for its buffers. -/
def sorterFull (b : Body) (o : Open) (w : RouteWork) : Bool :=
  w.gen.isNone && ((holderOf b 3).any (fun k => k != o.oid) || coilHolds b 4 o.ctx)

/-- FLT_SEL_WAIT. A held step that waits both for a key row and for the flint sorter shows WAIT_SORT (DESIGN CHOICE, log 117). -/
def selWait (b : Body) : Nat :=
  match selHeld b with
  | some (o, w) => if sorterFull b o w then 2 else if w.stage == .write || coilHolds b 3 o.ctx then 0 else 1
  | none => if (stepAt b .bias).isSome then 4 else 8

def selPos (b : Body) : Nat :=
  match (selHeld b).orElse (fun _ => stepAt b .bias) with
  | some (o, w) => fld 16 0 w.taken + fld 22 17 o.ctx + fld 23 23 (b2n w.cfg.ec) + 2 ^ 31
  | none => 0

/-- What the flint sorter holds: context, whether it still counts, and the assignments counted; once all have come it writes (PHASE 3),
and DONE stays at all of them (DESIGN CHOICE, log 117). -/
def sortHeld (b : Body) : Option (Nat × Bool × Nat) :=
  match holderOf b 3 with
  | none => none
  | some k => match b.openOf k, routeOf b k with
    | some o, some w =>
      if w.gen.isNone then some (o.ctx, w.stage == .score, (w.load.map LoadCnt.assigned).sum) else
      (b.gens.find? (fun g => g.oid == k)).map (fun g => (g.ctx, false, (((nextHalf g).map (fun h => g.home.counts.getD h [])).getD []).sum))
    | _, _ => (b.gens.find? (fun g => g.oid == k)).map (fun g =>
        (g.ctx, false, (((nextHalf g).map (fun h => g.home.counts.getD h [])).getD []).sum))

def sortWait (b : Body) : Nat :=
  match sortHeld b with
  | none => 8
  | some (c, counting, _) => if coilHolds b 4 c then 2 else if counting then 1 else 4

def sortPos (b : Body) : Nat :=
  match sortHeld b with
  | none => 0
  | some (c, counting, n) => fld 1 0 (if counting then 0 else 3) + fld 7 2 c + fld 25 8 n + 2 ^ 31

/-! ### Marlin (Tables 6.11, 6.12) -/

/-- CONTEXT of a card list. -/
def listCtx (b : Body) (k : Nat) : Nat := ctxOfOid b k

/-- What is left of the list that Marlin holds. -/
def heldWalk (b : Body) : List WalkItem :=
  match b.mrl.held with
  | none => []
  | some k => match b.gens.find? (fun g => g.oid == k) with
    | some g => g.home.walk
    | none => ((routeOf b k).map RouteWork.walk).getD []

/-- The outstanding-card table is full, or holds the next card's CONTEXT and SEQ (R136, R141). -/
def tableBlocks (b : Body) (c : Nat) : Bool :=
  b.mrl.cards.length ≥ 16384 || b.mrl.cards.any (fun e => e.ctx == c && e.seq == (b.ctx c).cardCtr.toNat)

/-- The context whose card list comes next, once its flint writes are done (R28). -/
def sortComes (b : Body) : Option Nat :=
  ((stepAt b .sort).map (fun p => p.1.ctx)).orElse (fun _ => (b.gens.find? (halfDue b)).map GenEnt.ctx)

/-- MRL_WAIT. While the flint sorter writes, the list that comes next counts as held (DESIGN CHOICE, log 117). -/
def mrlWait (b : Body) : Nat :=
  match b.mrl.held with
  | none => if (sortComes b).isSome then 1 else 0x10
  | some k => match heldWalk b with
    | .card _ _ :: _ => if b.mrl.buf.isNone then 0 else if tableBlocks b (listCtx b k) then 4 else 2
    | _ => 8

/-- Next expert of the walk. -/
def nextExpert (b : Body) : Nat :=
  match heldWalk b with
  | .card _ x :: _ => x
  | .cell _ x :: _ => x
  | _ => 0

def mrlPos (b : Body) : Nat :=
  match b.mrl.held with
  | some k => fld 11 0 (nextExpert b) + fld 17 12 (listCtx b k) + 2 ^ 31
  | none => ((sortComes b).map (fun c => fld 17 12 c + 2 ^ 31)).getD 0

/-! ### Hawser (Tables 8.10, 8.11) -/

/-- The batch that Hawser holds. -/
def hawBatch (b : Body) : Option GenEnt := (holderOf b 6).bind (fun k => b.gens.find? (fun g => g.oid == k))

/-- Assignments of an entry's batch are still to come from selection. -/
def hawSelects (g : GenEnt) : Bool := g.queued ≤ g.n

/-- Answers of a home role are to be sent. -/
def hawRows (b : Body) (g : GenEnt) : Bool := !g.home.answers.isEmpty && !g.home.ended && (b.ctx g.ctx).st == .run

/-- The batch or the home role that Hawser serves. -/
def hawServes (b : Body) : Option GenEnt := (b.gens.find? (hawRows b)).orElse (fun _ => hawBatch b)

def hawWait (b : Body) : Nat :=
  if b.coil.wait.any (fun r => r.req == 7) then 4
  else if (b.gens.filter (hawRows b) ++ (hawBatch b).toList).any GenEnt.atLink then 2
  else if b.gens.any (hawRows b) then 8
  else match hawBatch b with
    | some g => if hawSelects g then 1 else 0
    | none => 0x10

/-- Packets of a batch that Hawser holds, those that it may send first. -/
def hawPkts (g : GenEnt) : List SendPkt := g.sendQ ++ g.early

/-- The next token to send and its half: those of the next TOKEN packet, else the next token that selection passes. -/
def hawNext (g : GenEnt) : Nat × Nat :=
  match (hawPkts g).find? (fun p => !p.isEnd) with
  | some p => (p.token, p.half)
  | none => (min g.queued g.n, b2n (g.map.mode == 2 && halfA g.n ≤ g.queued))

def hawPos (b : Body) : Nat :=
  match hawBatch b with
  | none => 0
  | some g => fld 16 0 (hawNext g).1 + fld 22 17 g.ctx + fld 23 23 (hawNext g).2 + 2 ^ 31

/-! ### Halyard engines (Tables 9.9, 9.10)

A COPY keeps its engines between two rows, a save or a restore the engine that it has begun on, and any other stream the engine
whose access is stalled. -/

/-- MODE of the COPY that holds an engine. -/
def engineMode (b : Body) (g : Grant) : Nat :=
  match (b.openOf g.oid).map Open.work with
  | some (.copy x) => x.mode
  | _ => 0

def halGroup (b : Body) (n : Nat) : Nat :=
  match grantAt b 0 n with
  | none => 8
  | some g => if g.item == 4 && coilHolds b 0 g.ctx then 4 else if g.wait == 2 then 2 else 1

def halWait (b : Body) : Nat := ((List.range 8).map (fun n => halGroup b n <<< (4 * n))).sum

def halPos (b : Body) (n : Nat) : Nat :=
  match grantAt b 0 n with
  | none => 0
  | some g => fld 3 0 g.item + fld 9 4 g.ctx + fld 11 10 (engineMode b g) + 2 ^ 31

end Sys2Proof.Machine
end

