-- ==== Sys2Proof/Machine/Waiting.lean ====
section
/-! DEFINITION. The other waiting-on registers (Table 16.5) as functions of the state, and what every step does to the observation
unit after its own effect: WAIT records (R396) and the watchdogs' restarts (R403). -/

namespace Sys2Proof.Machine

/-! ### Splice engine (Table 7.6) -/

/-- The COMBINE that the splice engine holds. -/
def splHeld (b : Body) : Option Open := (holderOf b 5).bind b.openOf

/-- A replicated COMBINE waits under R152: its ledger entry does not yet show DONE and every completion. -/
def splWaits (b : Body) (o : Open) : Bool :=
  o.reply.isNone && (match o.work with
    | .combine w => !w.homed && !w.started && (((b.ctx o.ctx).ledger.find? (fun l => l.uid == w.uid)).any (fun l =>
        !(l.done && l.completed == l.w)))
    | _ => false)

/-- The oldest COMBINE that waits under R152. -/
def splWaiting (b : Body) : Option Open := b.opens.find? (splWaits b)

/-- What a held COMBINE waits for: a coil buffer, write acknowledges, or, a homed one for its inverse map and then for answers, a
replicated one for its gather. -/
def splHeldBit (b : Body) (o : Open) : Nat :=
  if b.coil.wait.any (fun r => r.req == 6 && r.ctx == some o.ctx) then 8
  else if (engineOf b o.oid 3).any (fun g => g.wait == 2) then 16
  else match o.work with
    | .combine w => if w.homed && w.next == (bits (w.w.getD 0 0) 16 0) then 4 else 2
    | _ => 0

def splWait (b : Body) : Nat :=
  match splHeld b with
  | some o => splHeldBit b o
  | none => if (splWaiting b).isSome then 1 else 0x20

/-! ### Skein queue (R181, R182, Table 8.14) -/

/-- The live entry of an exchange's generation. -/
def liveGen (b : Body) (xg generation : Nat) : Option GenEnt :=
  b.gens.find? (fun g => g.live && g.xg == xg && g.generation == generation)

/-- What the read side does with a packet (R182): discard it as stray, discard it, read it, or leave it. -/
inductive SknRead where
  | stray | drop | read (g : GenEnt) | stay
deriving DecidableEq, Repr

def sknRead (b : Body) (p : SknPkt) : SknRead :=
  match liveGen b p.xg p.generation with
  | none => .stray
  | some g => if g.void || g.combineDone then .drop else if g.combined then .read g else .stay

/-- The COMBINE of a generation takes reads: it holds the splice engine. An eligible packet whose COMBINE does not is passed over
for a later one (DESIGN CHOICE, log 99). -/
def takesReads (b : Body) (g : GenEnt) : Bool :=
  b.opens.any (fun o => o.reply.isNone && holdsUnit b 5 o.oid && (b.ctx o.ctx).st == .run && (match o.work with
    | .combine x => x.homed && x.stop.isNone && x.gen == some g.uid
    | _ => false))

/-- FILL: a packet whose read is in progress still stands in its slot. -/
def sknFill (b : Body) : Nat := b.skn.fill.length + b.skn.drain.length + (if b.skn.reading.isSome then 1 else 0)

def sknWait (b : Body) : Nat :=
  if b.coil.wait.any (fun r => r.req == 8) then 4
  else if b.coil.wait.any (fun r => r.req == 6) then 2
  else if b.skn.reading.isSome then 0
  else if b.skn.fill.isEmpty && b.skn.drain.isEmpty then 8
  else if b.skn.drain.all (fun p => sknRead b p == .stay) then 1
  else if b.skn.drain.all (fun p => match sknRead b p with
      | .read g => !takesReads b g
      | .stay => true
      | _ => false) then 2
  else 0

/-! ### Switch and thimble (Tables 10.11 to 10.13) -/

/-- Bit `v` for each channel of which `f` holds. -/
def vcMask (f : Nat → Bool) : Nat := ((List.range 6).map (fun v => if f v then 2 ^ v else 0)).sum

def fabWait (b : Body) : Nat :=
  let noCredit := fun v => b.fab.ports.any (fun p => p.queue.any (fun q => q.vc == v) && creditLeft p v == 0)
  let heldRx := fun v => b.fab.rx.any (fun p => p.vc == v && p.port.isSome)
  let idle := b.fab.ports.all (fun p => p.queue.isEmpty)
  vcMask noCredit + 64 * vcMask heldRx + 4096 * b2n idle

/-- Bit `n` for each group of which `f` holds. -/
def groupMask (f : Nat → Bool) : Nat := ((List.range 16).map (fun n => if f n then 2 ^ n else 0)).sum

/-- An admitted piece without a result waits for what a partner sends: a partial from below, or ADMIT or RESULT from above. One
that has all this waits for its own contribution alone. -/
def inputDue (b : Body) (p : Piece) : Bool :=
  p.admitted && p.result.isNone
    && ((b.group p.group).kids.any (fun k => !p.inputs.any (fun i => i.1 == k))
      || ((b.group p.group).parent.isSome && (!p.admitRecv || p.sentUp)))

def thmWait (b : Body) : Nat :=
  let admits := fun n => b.thm.pieces.any (fun p => p.group == n && !p.admitted)
  let inputs := fun n => b.thm.pieces.any (fun p => p.group == n && inputDue b p)
  groupMask admits + 2 ^ 16 * groupMask inputs

/-! ### Translator, coil manager, save path, command port (Tables 11.17, 11.20, 12.16, 14.12) -/

/-- XLT_MP_WAIT: the ports that hold a request because RQ_READY is 0. -/
def mpWait (b : Body) : Nat :=
  ((List.range 32).map (fun n => let p := tget b.xlt.ports n; if p.held && !p.ready then 2 ^ n else 0)).sum

/-- A read of a page table is stalled at its port. -/
def walkWaits (b : Body) : Bool := b.units.grants.any (fun g => g.wait == 3)

def xltWait (b : Body) : Nat := if walkWaits b then 1 else if b.xlt.inval.isEmpty then 4 else 2

def coilWaitReg (b : Body) : Nat :=
  groupMask (fun r => b.coil.wait.any (fun x => x.req == r))
    + 2 ^ 16 * groupMask (fun r => b.coil.wait.any (fun x => x.req == r && waitsQuota b x))

/-- The context that the save path serves, with its bit: a save or restore in progress before a save that waits. -/
def savePath (b : Body) : Option (Nat × Nat) :=
  let first := fun (f : Ctx → Bool) => (List.range 64).find? (fun c => f (b.ctx c))
  match first (fun x => x.st == .saving || x.st == .saveStalled), first (fun x => x.st == .restoring || x.st == .restoreStalled),
    first (fun x => x.savePending || x.evictPending) with
  | some c, _, _ => some (c, 2)
  | none, some c, _ => some (c, 4)
  | none, none, some c => some (c, 1)
  | none, none, none => none

def ctxWait (b : Body) : Nat :=
  match savePath b with
  | some (c, v) => v + 16 * c
  | none => 8

def cpIdle (b : Body) : Bool :=
  b.cp.partial_.isNone && b.cp.queue.isEmpty && b.cp.express.isEmpty && b.cp.out.isEmpty && b.cp.waitOut.isEmpty

/-- CP_STATUS. Whatever stands in the outward store waits for the host. CPI_READY is never held for checks (R351). -/
def cpStatus (b : Body) : Nat :=
  b2n (!b.cp.out.isEmpty) + 2 * b2n (!b.cp.waitOut.isEmpty) + 8 * b2n (cpIdle b) + 16 * b2n b.cp.frameBad
    + 32 * b2n b.cp.noticeLostFlag

/-- THM_STATUS: free slots of the 48, and TP_HOLD. -/
def thmStatus (b : Body) : Nat := fld 5 0 (48 - (b.thm.pieces.filter Piece.admitted).length) + 64 * b2n b.thm.tpHold

/-! ### Instances (R403) -/

/-- A unit instance with a waiting-on register: unit code, number, register offset and value, the instance's group in it, the wait
bits of all its registers, whether it is idle, and the context that it holds work of. -/
structure WaitInst where
  unit : Nat
  inst : Nat
  offset : Nat
  value : Nat
  group : Nat
  waits : Nat
  rests : Bool
  ctx : Option Nat

/-- An instance that has its register for itself: the wait bits lie below `bitMask`, and IDLE follows them where the register has
one (below bit 24). -/
def oneInst (unit offset value bitMask : Nat) (c : Option Nat) : WaitInst :=
  { unit := unit, inst := 0, offset := offset, value := value, group := value, waits := value % bitMask,
    rests := 2 ^ 24 ≤ bitMask || value / bitMask % 2 == 1, ctx := c }

/-- The instances of a register with a group of four bits for each. -/
def groupInsts (unit offset value n : Nat) (ctx : Nat → Option Nat) : List WaitInst :=
  (List.range n).map (fun i =>
    let g := bits value (4 * i + 3) (4 * i)
    { unit := unit, inst := i, offset := offset, value := value, group := g, waits := g % 8, rests := bit g 3, ctx := ctx i })

/-- No bit is 1 and the instance holds no work (R403). -/
def WaitInst.idle (i : WaitInst) : Bool := i.waits == 0 && i.rests

/-- The context of the oldest request that waits for a coil buffer. -/
def coilCtx (b : Body) : Option Nat := b.coil.wait.head?.bind CoilReq.ctx

/-- The context of the oldest piece that waits, or of the tile that waits for a buffer. -/
def thmCtx (b : Body) : Option Nat :=
  ((b.thm.pieces.find? (fun p => !p.admitted || inputDue b p)).map Piece.ctx).orElse (fun _ =>
    if b.thm.tpHold then b.thm.header.map Tile.ctx else none)

/-- The context of the packet that the skein holds first. -/
def sknCtx (b : Body) : Option Nat :=
  ((b.skn.reading.toList ++ b.skn.drain ++ b.skn.fill).findSome? (fun p => liveGen b p.xg p.generation)).map GenEnt.ctx

/-- The instances with a waiting-on register, in ascending unit code and number. -/
def waitInsts (b : Body) : List WaitInst :=
  groupInsts 0 0x148000 (halWait b) 8 (fun n => (grantAt b 0 n).map Grant.ctx)
  ++ (groupInsts 1 0x040004 (garWait b) 4 (fun n => (arrayWork b n).map ArrayWork.ctx)).filter (fun i => bit (garPresent b) i.inst)
  ++ [ oneInst 2 0x080000 (selWait b) 8 (((selHeld b).orElse (fun _ => stepAt b .bias)).map (fun p => p.1.ctx)),
       oneInst 3 0x080100 (sortWait b) 8 ((sortHeld b).map Prod.fst),
       oneInst 4 0x090000 (mrlWait b) 16 ((b.mrl.held.map (listCtx b)).orElse (fun _ => sortComes b)),
       oneInst 5 0x0A0000 (splWait b) 32 (((splHeld b).orElse (fun _ => splWaiting b)).map Open.ctx),
       oneInst 6 0x0C0000 (hawWait b) 16 ((hawServes b).map GenEnt.ctx),
       oneInst 7 0x100208 (fabWait b) 4096 none,
       { oneInst 8 0x100404 (thmWait b) (2 ^ 32) (thmCtx b) with waits := thmWait b + b2n b.thm.tpHold },
       oneInst 9 0x180024 (ctxWait b) 8 ((savePath b).map Prod.fst),
       oneInst 10 0x06010C (micWait b) (2 ^ 24) none,
       { oneInst 13 0x010000 (cpStatus b) 8 none with waits := cpStatus b % 8 + bits (queueState b b.cp.queueSel.toNat) 11 10 },
       oneInst 16 0x0C010C (sknWait b) 8 (sknCtx b),
       { oneInst 17 0x140040 (xltWait b) 4 none with waits := xltWait b % 4 + mpWait b },
       oneInst 18 0x144030 (coilWaitReg b) (2 ^ 32) (coilCtx b) ]

/-- The second waiting-on registers of units that have two (Table 16.5): they give WAIT records, and their bits count in the
watchdog of the first. -/
def secondRegs (b : Body) : List WaitInst :=
  [ oneInst 8 0x100400 (thmStatus b) (2 ^ 32) none,
    oneInst 13 0x010014 (queueState b b.cp.queueSel.toNat) (2 ^ 32) none,
    oneInst 17 0x140044 (mpWait b) (2 ^ 32) none ]

/-- Handshakes that an instance has completed on its output channels. -/
def actCount (o : Obs) (unit inst : Nat) : Nat :=
  ((o.acts.find? (fun a => a.1 == 16 * unit + inst)).map Prod.snd).getD 0

/-- The ticks that a watchdog has counted. -/
def Watch.count (w : Watch) (now : Nat) : Nat := w.ticks + ((w.from_.map (fun t => now - t)).getD 0)

/-- The watchdog of an instance; one that has not been idle since reset restarted then. -/
def watchOf (o : Obs) (i : WaitInst) : Watch :=
  (o.watch.find? (fun w => w.unit == i.unit && w.inst == i.inst)).getD { unit := i.unit, inst := i.inst }

/-- A watchdog restarts from 0. -/
def Watch.restart (w : Watch) (now : Nat) : Watch := { w with since := now, ticks := 0, from_ := none, hit := false }

/-- A watchdog after a step (R403): restarted at a handshake and when the instance becomes idle; counting while a wait bit is 1;
else as far as it has come. -/
def rewatch (o : Obs) (now : Nat) (i : WaitInst) : Watch :=
  let n := actCount o i.unit i.inst
  let w := watchOf o i
  let w := if w.seen != n || (i.idle && !w.idle) then w.restart now else w
  let w := { w with seen := n, idle := i.idle }
  if i.waits != 0 then { w with from_ := w.from_.orElse (fun _ => some now) }
  else { w with ticks := w.count now, from_ := none }

/-- A WAIT record for each instance whose group a step changed, with the register's new value (R396, log 102). -/
def waitRecords (now : Nat) (old new : List WaitInst) (o : Obs) : Obs :=
  new.foldl (fun o i =>
    match old.find? (fun p => p.offset == i.offset && p.inst == i.inst) with
    | some p => if p.group == i.group then o
        else obsTrace now i.unit i.ctx 5 (i.offset + fld 25 22 i.inst) i.value o
    | none => o) o

/-- What the observation unit does after a step: WAIT records and watchdogs. -/
def settleObs (old new : Body) : Obs :=
  let is := waitInsts new
  let o := if new.obs.classes.getLsbD 3 then waitRecords new.now (waitInsts old ++ secondRegs old) (is ++ secondRegs new) new.obs
    else new.obs
  { o with watch := is.map (rewatch o new.now) }

/-- The state after a step, the observation unit brought up to date. Nothing but `obs` changes. -/
def settle (old new : Body) : Body := { new with obs := settleObs old new }

/-- A meaning on the body alone, with the chip's own fabric address given. While PORST_N is asserted the block is in
reset and nothing happens (R435). -/
def State.onBody (s : State) (f : Nat → Body → Body) : Host.Outcome State Fault Refusal :=
  if s.b.blk.porst then .next s else .next { s with b := settle s.b (f s.addr.own s.b) }

/-- A meaning that also reads or changes the tally store or the fabric address. -/
def State.onAll (s : State) (f : State → State) : Host.Outcome State Fault Refusal :=
  if s.b.blk.porst then .next s else .next { f s with b := settle s.b (f s).b }

end Sys2Proof.Machine
end

