-- ==== Sys2Proof/Machine/Accept.lean ====
section
/-! DEFINITION. Acceptance of command records (R349 to R352, R463), the overlap of commands of one context (R15), and
replies of commands that complete at their acceptance. -/

namespace Sys2Proof.Machine

/-! ### Memory ranges of open commands (R15) -/

/-- The way from address `a` up to `b` in the 44-bit virtual space. -/
def ahead44 (a b : Nat) : Nat := (b + 2 ^ 44 - a % 2 ^ 44) % 2 ^ 44

/-- Hank ranges (first, length) overlap, with addresses taken modulo 2^44; an empty one overlaps nothing. -/
def overlaps (a b : Nat × Nat) : Bool :=
  a.2 != 0 && b.2 != 0 && (ahead44 a.1 b.1 < a.2 || ahead44 b.1 a.1 < b.2)

def anyOverlap (xs ys : List (Nat × Nat)) : Bool := xs.any (fun x => ys.any (fun y => overlaps x y))

/-- Open commands of a context that were accepted before `oid` and have work left. -/
def earlierOpens (b : Body) (c oid : Nat) : List Open :=
  b.opens.filter (fun o => o.ctx == c && !o.cmd.isGlobal && o.oid < oid && o.reply.isNone)

/-- What a command reads. -/
def Open.allReads (o : Open) : List (Nat × Nat) := o.reads ++ o.late

/-- Accesses that must wait for those of an earlier command. -/
def clash (reads writes : List (Nat × Nat)) (o : Open) : Bool :=
  anyOverlap reads o.writes || anyOverlap writes o.writes || anyOverlap writes o.allReads

/-- Accesses that must wait for those of earlier commands of the context (R15). -/
def conflict (b : Body) (c oid : Nat) (reads writes : List (Nat × Nat)) : Bool :=
  (earlierOpens b c oid).any (clash reads writes)

/-- The ROUTE_STEP that a COMBINE combines. -/
def ownStep (o step : Open) : Bool :=
  match o.work, step.work with
  | .combine x, .route w => x.uid == w.uid
  | _, _ => false

/-- What an accepted command reads that an earlier one may still write: what a homed COMBINE reads of its own step waits for Hawser
and selection under R157 and R170. -/
def readsBehind (o step : Open) : List (Nat × Nat) := if ownStep o step then o.reads else o.allReads

/-- An earlier MUSTER of its context, not released yet, keeps a command from starting (R334). -/
def fenced (b : Body) (o : Open) : Bool :=
  (earlierOpens b o.ctx o.oid).any (fun x => x.cmd.code == Cmd.muster)

/-- An accepted command may use units now: no hold is in force, its context is in RUN, no earlier MUSTER of it waits for its release,
and its accesses overlap none of those that earlier commands of the context have still to make (R15, R32). -/
def mayRun (b : Body) (o : Open) : Bool :=
  !frozen b && (b.ctx o.ctx).st == .run && !fenced b o
    && !(earlierOpens b o.ctx o.oid).any (fun e => clash (readsBehind o e) o.writes e)

/-- Held SAVE_CONTEXTs of a context that no MUSTER and no save or restore keeps from starting: the save waits for the next
cheap point (R303, R306, R334). -/
def startSaves (c : Nat) (b : Body) : Body :=
  let may := fun (o : Open) => o.ctx == c && !o.cmd.isGlobal && o.held && o.work == .save && !fenced b o
    && ((b.ctx c).st == .run || (b.ctx c).st == .faulted)
  if b.opens.any may then
    { b with opens := b.opens.map (fun o => if may o then { o with held := false } else o) }.modCtx c
      (fun x => { x with savePending := true })
  else b

/-- WHY of CP_QUEUE_STATE for a head whose reads of acceptance wait: HEAD_WAIT 1, WHY 0. -/
def whyReads : Nat := 4

/-- A read made as part of acceptance (R463): it waits for pending writes of earlier commands. -/
def readAcc (c base n : Nat) : Io (List Hank) := do
  let b ← Io.get
  if conflict b c b.nextOid [(base, n)] [] then Io.fail (.wait 0) else readRun c base n

/-! ### Heads of queues (R350, R352) -/

/-- The record leaves the command port's queues. -/
def dropRec (r : CmdRec) (b : Body) : Body :=
  { b with cp := { b.cp with queue := b.cp.queue.filter (fun x => x.arr != r.arr),
                             express := b.cp.express.filter (fun x => x.arr != r.arr) } }

/-- Refuse a record at its acceptance. -/
def refuseRec (r : CmdRec) (status : Nat) (b : Body) : Body := refuse r status (dropRec r b)

/-- The head waits, with the reason that CP_QUEUE_STATE shows (Table 14.14). -/
def waitHead (r : CmdRec) (why : Nat) (b : Body) : Body :=
  { b with cp := { b.cp with queue := b.cp.queue.map (fun x => if x.arr == r.arr then { x with why := why } else x) } }

/-- Commands that a chip without a fabric address refuses (R364); a homed ROUTE_STEP has its own place (R464). -/
def needsAddress (code : Nat) : Bool := [Cmd.collect, Cmd.muster, Cmd.dispatch].contains code

/-- The checks of acceptance that precede those of a home chapter, in order (R349, R375, R441). -/
def acceptCheck (own : Nat) (r : CmdRec) (b : Body) : Check := do
  conditionCheck r b
  failIf (b.lay.pending && needsLay r.code) Code.layNone
  if r.isGlobal then pure () else do
    failIf (!(b.ctx r.ctx).created) Code.ctxAbsent
    failIf ((b.ctx r.ctx).st == .torn) Code.ctxDead
    failIf (own == noAddress && needsAddress r.code) Code.addrUnlocked

/-- Commands that a tandem context refuses before any unit starts (R328); ROUTE_STEP and COMBINE are checked where it is
known that they are homed. -/
def tandemRefused (b : Body) (r : CmdRec) : Bool := !r.isGlobal && tandemCtx b r.ctx

/-- The head of a queue, if it bears the code, may be accepted and passes the common checks; one that fails them is
refused. -/
def withHead (own q code : Nat) (f : CmdRec → Body → Body) (b : Body) : Body :=
  match headRec b q with
  | none => b
  | some r =>
    if r.code != code || headWaits b r || holdStops b code then b
    else match acceptCheck own r b with
      | .error st => refuseRec r st b
      | .ok () => f r b

/-- The oldest record of a code that does not join a queue, with the same checks (R350, R406). -/
def withExpress (own code : Nat) (f : CmdRec → Body → Body) (b : Body) : Body :=
  match b.cp.express.find? (fun r => r.code == code) with
  | none => b
  | some r =>
    if holdStops b code then b
    else match acceptCheck own r b with
      | .error st => refuseRec r st b
      | .ok () => f r b

/-! ### Acceptance (R350, R354, R393) -/

/-- Accept a record of a context: it becomes an open command with its stamp and start latch. -/
def acceptOpen (r : CmdRec) (w : Work) (held : Bool) (reads writes : List (Nat × Nat)) (b : Body) : Body :=
  let c := r.ctx
  let x := b.ctx c
  let t := tandemCtx b c
  let b := dropRec r b
  let o : Open :=
    { oid := b.nextOid, cmd := r, ctx := c, stamp := b.now, start := x.before b.now, tseq := if t then some x.tseq.toNat else none,
      held := held, reads := reads, writes := writes, work := w }
  let b := { b with opens := b.opens ++ [o], nextOid := b.nextOid + 1 }
  let b := if t then b.modCtx c (fun x => { x with tseq := x.tseq + 1 }) else b
  trace 13 (some c) 0 r.seq r.code b

/-- The number that the next accepted command gets. -/
def nextOpen (b : Body) : Nat := b.nextOid

/-- Accept a record whose work may have to wait: held while its context is not in RUN, an earlier MUSTER of it waits for its
release, or its accesses overlap those of earlier commands (R15, R306, R334). -/
def acceptWork (r : CmdRec) (w : Work) (reads writes : List (Nat × Nat)) (b : Body) (late : List (Nat × Nat) := []) : Body :=
  let b := acceptOpen r w false reads writes b
  let oid := b.nextOid - 1
  let b := b.modOpen oid (fun o => { o with late := late })
  match b.openOf oid with
  | some o => if mayRun b o then b else b.modOpen oid (fun o => { o with held := true })
  | none => b

/-- A reply record of a command of no context. -/
def globalReply (r : CmdRec) (status : Nat) (body : List Nat) (b : Body) : Body :=
  let b := pushReply { kind := r.code, ctx := none, shown := r.ctx, seq := r.seq, status := status, body := body,
                       hanks := cdiv body.length 4, acc := true } b
  let b := trace 13 none 1 r.seq (r.code + 2 ^ 16 * status) b
  count Cnt.cmdDone 1 none b

/-- Accept a record of no context and reply at once. -/
def acceptGlobal (r : CmdRec) (status : Nat) (body : List Nat) (b : Body) : Body :=
  globalReply r status body (trace 13 none 0 r.seq r.code (dropRec r b))

/-- Accept a record and complete it at once with a status and reply body: a command of a context passes through its
latches and its tandem record with its OUTCOME (R330); one of none replies. -/
def acceptDoneAs (own : Nat) (r : CmdRec) (status outcome : Nat) (body : List Nat) (b : Body) : Body :=
  if r.isGlobal then acceptGlobal r status body b
  else
    let b := acceptOpen r .none false [] [] b
    let oid := b.nextOid - 1
    match b.openOf oid with
    | none => b
    | some o =>
      let rep : OutRec := { kind := r.code, ctx := some o.ctx, body := body, hanks := cdiv body.length 4, seq := r.seq,
                            status := status }
      completeWith own oid rep outcome b

/-- The same; OUTCOME says whether a GO was refused (R330). -/
def acceptDone (own : Nat) (r : CmdRec) (status : Nat) (body : List Nat) (b : Body) : Body :=
  acceptDoneAs own r status (if status == 0 then 0 else 1) body b

/-- A shape cell is read once its command may start: behind an unreleased MUSTER of its context the acceptance waits (R133,
R334, R463). -/
def readCellAcc (c v : Nat) : Io Hank := do
  let b ← Io.get
  if musterOpen b c then Io.fail (.wait 0)
  else do
    let hs ← readAcc c v 1
    pure (hs.headD 0)

/-- What a read of acceptance met (R463): a wait leaves the record at the head, and its reads run again from the start; XLT_MISS
leaves it and is a soft fault of the context with UNIT 13 and POSITION 0; a hard fault refuses the record with the fault's code. -/
def acceptStop (own : Nat) (r : CmdRec) (x : Stop) (old b : Body) : Body :=
  match x with
  | .wait _ => waitHead r whyReads { old with xlt := { old.xlt with ports := b.xlt.ports } }
  | .soft level access v => softFault r.ctx 13 access level v r.seq 0 b
  | .hard code kind addr _ extra =>
    let b := hardFault own r.ctx none r.seq code 13 kind addr extra b
    refuseRec r code b

/-- Run the reads of an acceptance, whose lines count for the class of the command (R419, R420), and go on with what they give. -/
def withReads {α : Type} (own : Nat) (r : CmdRec) (m : Io α) (f : α → Body → Body) (b : Body) : Body :=
  match Io.on m b with
  | (.ok a, b') => f a (countLines (classOf r.code) b b')
  | (.error x, b') => acceptStop own r x b (countLines (classOf r.code) b b')

end Sys2Proof.Machine
end

