-- ==== Sys2Proof/Machine/Crypto.lean ====
section
/-! DEFINITION. The two digests and the signature check that R370 names: SHA-256 (FIPS 180-4), and PureEdDSA
verification over Ed25519 (RFC 8032), which rests on SHA-512. The round constants are computed as the standards define
them: the leading bits of the fractional parts of square and cube roots of the first primes. -/

namespace Sys2Proof.Machine

/-- The first 80 primes. -/
def primes80 : List Nat :=
  (List.range 410).filter fun n => n ≥ 2 && (List.range n).all fun d => d < 2 || d * d > n || n % d != 0

/-- Largest r ≤ hi with r^k ≤ n, found bit by bit. -/
def kthRoot (k n : Nat) : Nat → Nat → Nat
  | 0, r => r
  | b + 1, r => let r' := r + 2 ^ b; kthRoot k n b (if r' ^ k ≤ n then r' else r)

/-- The first w fractional bits of the k-th root of p. -/
def rootFrac (k w p : Nat) : Nat := kthRoot k (p * 2 ^ (k * w)) (w + 8) 0 % 2 ^ w

/-- Right rotation of a w-bit word. -/
def rotr (w x n : Nat) : Nat := ((x >>> n) ||| (x <<< (w - n))) % 2 ^ w

/-- Bitwise complement of a w-bit word. -/
def notW (w x : Nat) : Nat := (2 ^ w - 1) - x % 2 ^ w

/-- The parameters in which SHA-256 and SHA-512 differ: word bits, rotation amounts, constants. -/
structure ShaParams where
  w : Nat
  big0 : List Nat
  big1 : List Nat
  small0 : List Nat
  small1 : List Nat
  k : List Nat
  h0 : List Nat
  deriving DecidableEq, Repr, Inhabited

def sha256P : ShaParams :=
  { w := 32, big0 := [2, 13, 22], big1 := [6, 11, 25], small0 := [7, 18, 3], small1 := [17, 19, 10],
    k := (primes80.take 64).map (rootFrac 3 32), h0 := (primes80.take 8).map (rootFrac 2 32) }

def sha512P : ShaParams :=
  { w := 64, big0 := [28, 34, 39], big1 := [14, 18, 41], small0 := [1, 8, 7], small1 := [19, 61, 6],
    k := primes80.map (rootFrac 3 64), h0 := (primes80.take 8).map (rootFrac 2 64) }

def shaBig (p : ShaParams) (r : List Nat) (x : Nat) : Nat :=
  rotr p.w x (r.getD 0 0) ^^^ rotr p.w x (r.getD 1 0) ^^^ rotr p.w x (r.getD 2 0)

def shaSmall (p : ShaParams) (r : List Nat) (x : Nat) : Nat :=
  rotr p.w x (r.getD 0 0) ^^^ rotr p.w x (r.getD 1 0) ^^^ (x >>> r.getD 2 0)

/-- Message schedule, newest word first. -/
def shaSched (p : ShaParams) : Nat → List Nat → List Nat
  | 0, ws => ws
  | n + 1, ws =>
    let t := (shaSmall p p.small1 (ws.getD 1 0) + ws.getD 6 0 + shaSmall p p.small0 (ws.getD 14 0) + ws.getD 15 0) % 2 ^ p.w
    shaSched p n (t :: ws)

/-- One round over the eight working variables. -/
def shaRound (p : ShaParams) (v : List Nat) (kw : Nat × Nat) : List Nat :=
  let g := fun i => v.getD i 0
  let ch := (g 4 &&& g 5) ^^^ (notW p.w (g 4) &&& g 6)
  let t1 := g 7 + shaBig p p.big1 (g 4) + ch + kw.1 + kw.2
  let maj := (g 0 &&& g 1) ^^^ (g 0 &&& g 2) ^^^ (g 1 &&& g 2)
  let t2 := shaBig p p.big0 (g 0) + maj
  [(t1 + t2) % 2 ^ p.w, g 0, g 1, g 2, (g 3 + t1) % 2 ^ p.w, g 4, g 5, g 6]

/-- One block of 16 big-endian words into the chaining value. -/
def shaBlock (p : ShaParams) (h : List Nat) (ws : List Nat) : List Nat :=
  let sched := (shaSched p (p.k.length - 16) ws.reverse).reverse
  let v := (p.k.zip sched).foldl (shaRound p) h
  (h.zip v).map fun ab => (ab.1 + ab.2) % 2 ^ p.w

def ofBe (bs : List Byte) : Nat := bs.foldl (fun a b => a * 256 + b.toNat) 0
def beBytes (n x : Nat) : List Byte := (leBytes n x).reverse

/-- The padded message: a 1 bit, zeros, and the bit length in two words, to whole blocks of 16 words. -/
def shaPad (p : ShaParams) (m : List Byte) : List Byte :=
  let blk := 2 * p.w
  let lenB := p.w / 4
  let z := (blk - (m.length + 1 + lenB) % blk) % blk
  m ++ [0x80] ++ List.replicate z 0 ++ beBytes lenB (8 * m.length)

def sha (p : ShaParams) (m : List Byte) : List Byte :=
  let blocks := chunks (2 * p.w) (shaPad p m)
  let h := blocks.foldl (fun h b => shaBlock p h ((chunks (p.w / 8) b).map ofBe)) p.h0
  (h.map (beBytes (p.w / 8))).flatten

/-- SHA-256 (FIPS 180-4). -/
def sha256 (m : List Byte) : List Byte := sha sha256P m
/-- SHA-512 (FIPS 180-4). -/
def sha512 (m : List Byte) : List Byte := sha sha512P m

/-! ### Ed25519 -/

/-- The field prime 2^255 − 19. -/
def edP : Nat := 2 ^ 255 - 19
/-- The group order. -/
def edL : Nat := 2 ^ 252 + 27742317777372353535851937790883648493

/-- b^e mod n, scanning e's `bits` from the top; fuel is the number of bits. -/
def powMod (n b e : Nat) : Nat → Nat → Nat
  | 0, acc => acc
  | k + 1, acc =>
    let a2 := acc * acc % n
    powMod n b e k (if e.testBit k then a2 * b % n else a2)

def edInv (x : Nat) : Nat := powMod edP (x % edP) (edP - 2) 255 1
/-- The curve constant −121665/121666. -/
def edD : Nat := (edP - 121665) * edInv 121666 % edP

/-- A point in extended homogeneous coordinates (X, Y, Z, T). -/
structure EdPt where
  x : Nat
  y : Nat
  z : Nat
  t : Nat
  deriving DecidableEq, Repr, Inhabited

def edAdd (p q : EdPt) : EdPt :=
  let a := (p.y + edP - p.x) * (q.y + edP - q.x) % edP
  let b := (p.y + p.x) * (q.y + q.x) % edP
  let c := 2 * p.t * q.t * edD % edP
  let d := 2 * p.z * q.z % edP
  let e := (b + edP - a) % edP
  let f := (d + edP - c) % edP
  let g := (d + c) % edP
  let h := (b + a) % edP
  { x := e * f % edP, y := g * h % edP, z := f * g % edP, t := e * h % edP }

def edZero : EdPt := { x := 0, y := 1, z := 1, t := 0 }

/-- [e]P, scanning the bits of e from the top. -/
def edMul (e : Nat) (p : EdPt) : Nat → EdPt → EdPt
  | 0, acc => acc
  | k + 1, acc =>
    let a2 := edAdd acc acc
    edMul e p k (if e.testBit k then edAdd a2 p else a2)

def edEq (p q : EdPt) : Bool :=
  (p.x * q.z) % edP == (q.x * p.z) % edP && (p.y * q.z) % edP == (q.y * p.z) % edP

/-- Square root of −1. -/
def edSqrtM1 : Nat := powMod edP 2 ((edP - 1) / 4) 255 1

/-- The x of a compressed point with the given y and sign bit; none when there is none. -/
def edRecoverX (y sgn : Nat) : Option Nat :=
  if y ≥ edP then none
  else
    let x2 := (y * y + edP - 1) * edInv ((edD * y % edP) * y + 1) % edP
    if x2 = 0 then (if sgn = 1 then none else some 0)
    else
      let r := powMod edP x2 ((edP + 3) / 8) 255 1
      let r2 := if r * r % edP = x2 then r else r * edSqrtM1 % edP
      if r2 * r2 % edP ≠ x2 then none
      else some (if r2 % 2 = sgn then r2 else edP - r2)

/-- A point decoded from 32 bytes (RFC 8032 5.1.3). -/
def edDecode (bs : List Byte) : Option EdPt :=
  let n := ofLe bs
  let y := n % 2 ^ 255
  (edRecoverX y (n / 2 ^ 255)).map fun x => { x := x, y := y, z := 1, t := x * y % edP }

/-- The base point: y = 4/5, x even. -/
def edBase : EdPt :=
  let y := 4 * edInv 5 % edP
  let x := (edRecoverX y 0).getD 0
  { x := x, y := y, z := 1, t := x * y % edP }

/-- PureEdDSA verification with the group equation of RFC 8032 5.1.7, [8][S]B = [8]R + [8][k]A (R370). -/
def edVerify (key msg sig : List Byte) : Bool :=
  let rB := sig.take 32
  let s := ofLe (sig.drop 32)
  if s ≥ edL then false
  else
    match edDecode key, edDecode rB with
    | some a, some r =>
      let k := ofLe (sha512 (rB ++ key ++ msg)) % edL
      edEq (edMul 8 (edMul s edBase 253 edZero) 4 edZero) (edMul 8 (edAdd r (edMul k a 253 edZero)) 4 edZero)
    | _, _ => false

end Sys2Proof.Machine
end

