-- ==== Sys2Proof/Machine/TallyStore.lean ====
section
/-! DEFINITION. The tally store and its registers (spec/15 R380 to R386). -/

namespace Sys2Proof.Machine

/-- Words of a setting (Table 15.6). -/
def talWords (k : Nat) : Nat := [52, 4, 8, 1].getD k 0

/-- Commit budget of a setting (Table 15.6). -/
def talBudget (k : Nat) : Nat := [24, 2, 3, 3].getD k 0

/-- The records of a setting, in commit order. -/
def Tally.recs (t : Tally) (k : Nat) : List TalRec :=
  match k with
  | 0 => t.recs0
  | 1 => t.recs1
  | 2 => t.recs2
  | _ => t.recs3

/-- The value of a setting that was never committed: for the grade mask every bit reads as 1 (R385). Log 6. -/
def talVirgin (k : Nat) : List W32 := if k == 1 then List.replicate 4 0xFFFFFFFF else List.replicate (talWords k) 0

/-- The latest record of a setting whose CRC passes (R380, R383). -/
def Tally.latest (t : Tally) (k : Nat) : Option TalRec := (t.recs k).reverse.find? TalRec.good

/-- The value last committed for a setting. -/
def Tally.value (t : Tally) (k : Nat) : List W32 := ((t.latest k).map TalRec.words).getD (talVirgin k)

/-- Commits consumed of a setting: one as soon as its writing begins (R381). -/
def Tally.used (t : Tally) (k : Nat) : Nat :=
  (t.recs k).length + (match t.busy with
    | some p => if p.1 == k then 1 else 0
    | none => 0)

/-- A setting has been committed (R373, R386). -/
def Tally.committed (t : Tally) (k : Nat) : Bool := (t.latest k).isSome

/-- A record enters the store. -/
def Tally.append (t : Tally) (k : Nat) (r : TalRec) : Tally :=
  match k with
  | 0 => { t with recs0 := t.recs0 ++ [r] }
  | 1 => { t with recs1 := t.recs1 ++ [r] }
  | 2 => { t with recs2 := t.recs2 ++ [r] }
  | _ => { t with recs3 := t.recs3 ++ [r] }

/-- Life-cycle state committed (R386). -/
def Tally.life (t : Tally) : Nat := ((t.value 3).getD 0 0).toNat % 4

/-! ### Repair map entries (Table 15.7) -/

/-- The substitutions of a map: class, array, spare, logical instance. -/
def repairEntries (ws : List W32) : List (Nat × Nat × Nat × Nat) :=
  (ws.map BitVec.toNat).filterMap (fun w =>
    if bit w 31 then
      let cls := bits w 3 0
      some (cls, if cls ≤ 1 then bits w 5 4 else 0, bits w 8 6, bits w 22 16)
    else none)

def spareLimit (cls : Nat) : Nat := [4, 4, 4, 1, 2, 6, 4].getD cls 0
def logicalMax (cls : Nat) : Nat := [127, 127, 63, 7, 31, 95, 31].getD cls 0

/-- No element twice. -/
def noDup {α : Type} [BEq α] : List α → Bool
  | [] => true
  | x :: xs => !xs.contains x && noDup xs

/-- The form of a repair map (R384), with LINK_EN of the grade mask. -/
def repairOk (linkEn : Nat) (ws : List W32) : Bool :=
  let es := repairEntries ws
  es.all (fun e => e.1 ≤ 6 && e.2.2.1 < spareLimit e.1 && e.2.2.2 ≤ logicalMax e.1
      && (e.1 != 6 || bit linkEn e.2.2.2))
    && noDup (es.map (fun e => (e.1, e.2.1, e.2.2.1))) && noDup (es.map (fun e => (e.1, e.2.1, e.2.2.2)))

/-- A grade mask only clears bits (R385). -/
def gradeOk (cur new : List W32) : Bool := (cur.zip new).all (fun p => p.2 &&& p.1 == p.2)

/-- The form rules of R384 to R386. -/
def talFormOk (t : Tally) (b : Body) (k : Nat) (ws : List W32) : Bool :=
  match k with
  | 0 => repairOk (gradeWord b 3) ws
  | 1 => gradeOk (t.value 1) ws
  | 2 => true
  | _ => t.life < ((ws.getD 0 0).toNat) && (ws.getD 0 0).toNat ≤ 3

/-- The life-cycle states in which a commit through the registers is permitted (Table 15.6). -/
def talStateOk (k life : Nat) : Bool :=
  match k with
  | 0 => life == 0 || life == 3
  | 1 => life == 0
  | _ => life != 3

/-- The staged value of the selected setting. -/
def Tally.staged (t : Tally) : List W32 := t.stage.take (talWords t.sel.toNat)

/-- The checks of GO in order (R382). -/
def talGoCheck (t : Tally) (b : Body) : Check := do
  let k := t.sel.toNat
  failIf t.busy.isSome Code.talBusy
  failIf (!talStateOk k b.blk.life.toNat) Code.talState
  failIf (t.used k ≥ talBudget k) Code.talBudget
  failIf (!talFormOk t b k t.staged) Code.talForm
  failIf (k == 3 && t.life == 0 && !(t.committed 2 && t.committed 1)) Code.talPrecond

/-- Begin a commit of a value: none is needed when it equals the current one (R381). -/
def Tally.begin (t : Tally) (k : Nat) (ws : List W32) : Tally :=
  if t.value k == ws then t else { t with busy := some (k, ws) }

/-- GO: the code of a refusal, 0 without one (R381, R382). -/
def talGoOp (t : Tally) (b : Body) : Tally × Nat :=
  match talGoCheck t b with
  | .error c => ({ t with refused := true, code := BitVec.ofNat 16 c }, c)
  | .ok () => (t.begin t.sel.toNat t.staged, 0)

/-- SETTING is written: the staging words take the setting's current value and WORD becomes 0 (R381). -/
def talSelOp (data : W32) (t : Tally) : Tally :=
  let k := data.setWidth 2
  { t with sel := k, stageAddr := 0,
           stage := (t.value k.toNat ++ List.replicate 52 0).take 52 }

/-- A staging word is written at WORD, which advances; at or above the setting's word count the write is ignored (R381). -/
def talStageOp (data : W32) (t : Tally) : Tally :=
  if t.stageAddr.toNat ≥ talWords t.sel.toNat then t
  else { t with stage := t.stage.set t.stageAddr.toNat data, stageAddr := t.stageAddr + 1 }

/-- A commit completes (R381). -/
def talDone (t : Tally) : Tally :=
  match t.busy with
  | none => t
  | some (k, ws) => { (t.append k { words := ws, good := true }) with busy := none }

/-- A commit is cut short: its record fails its CRC and stays consumed (R383). -/
def talCut (t : Tally) : Tally :=
  match t.busy with
  | none => t
  | some (k, ws) => { (t.append k { words := ws, good := false }) with busy := none }

end Sys2Proof.Machine
end

