-- ==== Sys2Proof/Machine/Lay.lean ====
section
/-! DEFINITION. Lay images, LOAD_LAY and APPLY_SPLICE (spec/15 R366 to R379). -/

namespace Sys2Proof.Machine

/-! ### Reading an image (R372) -/

/-- `n` hanks from a physical hank address, without translation and without the existence test. -/
def readPhys (addr n : Nat) : Io (List Hank) := do
  let first := addr / 15
  let last := (addr + n - 1) / 15
  let ls ← (List.range (last + 1 - first)).mapM (fun i => readLine none (first + i))
  pure ((ls.flatten.drop (addr % 15)).take n)

/-- Directory entry: TYPE, OFFSET, HANKS. -/
def dirEntry (h : Hank) : Nat × Nat × Nat := (bits (hW h 0) 7 0, hW h 1, hW h 2)

/-- Word w3 of a directory entry is reserved. -/
def dirReserved (h : Hank) : Bool := hW h 3 != 0

/-- Sections stand in directory order without gaps and end where the seal begins (R366). -/
def dirChain (at_ : Nat) : List (Nat × Nat × Nat) → Option Nat
  | [] => some at_
  | e :: es => if e.2.1 == at_ then dirChain (at_ + e.2.2) es else none

/-- Hanks of the base sections; FIRMWARE has 2 to 32,768 (Table 15.2). -/
def baseHanks : List Nat := [2, 9, 142, 1, 1998, 20, 2, 1]

/-- The directory of a base lay, or of a splice (R367). -/
def dirOk (splice : Bool) (es : List (Nat × Nat × Nat)) : Bool :=
  if splice then es.map Prod.fst == [0x10]
  else es.map Prod.fst == (List.range 9).map (· + 1) && (es.take 8).map (fun e => e.2.2) == baseHanks
    && (match es.getLast? with
      | some e => 2 ≤ e.2.2 && e.2.2 ≤ 32768
      | none => false)

/-- An image as read: header words, sections with their hanks, all hanks. -/
structure Image where
  lay : Nat := 0
  build : Nat := 0
  mode : Nat := 0
  secs : List (Nat × List Hank) := []
  hanks : List Hank := []
deriving DecidableEq, Repr

/-- Reading and checking the form of an image (Table 15.3, test 2): LAY_FORM is answered as none. -/
def readImage (splice : Bool) (addr len : Nat) : Io (Option Image) := do
  if addr % 15 != 0 || len < 9 || len > 65536 then pure none
  else do
    let h ← readPhys addr 2
    let n := bits (recW h 4) 7 0
    if recW h 0 != 0x3459414C || bit (recW h 1) 0 != splice || bits (recW h 1) 15 8 != 1 || recW h 5 != len
      || 2 + n + 7 > len then pure none
    else do
      let hs ← readPhys addr len
      let es := ((hs.drop 2).take n).map dirEntry
      if ((hs.drop 2).take n).any dirReserved || !dirOk splice es || dirChain (2 + n) es != some (len - 7) then pure none
      else pure (some { lay := recW h 2, build := recW h 3, mode := bits (recW h 1) 17 16,
                        secs := es.map (fun e => (e.1, (hs.drop e.2.1).take e.2.2)), hanks := hs })

/-! ### Seal, key and signature (R369, R370) -/

/-- The hanks up to the seal. -/
def Image.body (i : Image) : List Hank := i.hanks.take (i.hanks.length - 7)

def sealHankOk (i : Image) : Bool :=
  crc32 (i.body.flatMap hBytes) == hW (i.hanks.getD (i.hanks.length - 7) 0) 0

/-- Payload bytes of hank `k` of the signature block. -/
def sigBytes (i : Image) (k : Nat) : List Byte := leBytes 16 (hPay (i.hanks.getD (i.hanks.length - 6 + k) 0))

def imageKey (i : Image) : List Byte := sigBytes i 0 ++ sigBytes i 1
def imageSig (i : Image) : List Byte := (List.range 4).flatMap (fun k => sigBytes i (2 + k))

/-- The digest of the key as eight words, word 0 holding bytes 0 to 3 (R385). -/
def keyHash (i : Image) : List W32 := (chunks 4 (sha256 (imageKey i))).map (fun bs => BitVec.ofNat 32 (ofLe bs))

def sigOk (i : Image) : Bool :=
  edVerify (imageKey i) ((i.hanks.take (i.hanks.length - 6)).flatMap hBytes) (imageSig i)

/-- Tests 4 and 5 are skipped only in FORGE while no key hash is committed (R373). -/
def sigSkip (t : Tally) (b : Body) : Bool := b.blk.life == 0 && !t.committed 2

/-- Tests 3 to 5 of Table 15.3. -/
def sealCheck (t : Tally) (b : Body) (i : Image) : Check := do
  failIf (!sealHankOk i) Code.laySeal
  if sigSkip t b then pure () else do
    failIf (t.value 2 != keyHash i) Code.layKey
    failIf (!sigOk i) Code.laySig

/-- The key hash commit in force, 1 to 3 (Table 15.10). -/
def keyGenOf (t : Tally) : Nat := ((t.recs 2).length) - ((t.recs 2).reverse.findIdx TalRec.good)

/-! ### Content (R368, R373) -/

/-- The elements of a section. -/
def secEls (hs : List Hank) : List Nat := hs.flatMap (fun h => (List.range 4).map (hW h))

def secsOf (i : Image) : List Section := i.secs.map (fun s => { type := s.1, els := secEls s.2 })

def elIn (l : List Section) (t e : Nat) : Nat :=
  match l.find? (fun s => s.type == t) with
  | some s => s.els.getD e 0
  | none => 0

def linkEn (l : List Section) : Nat := elIn l 1 3

/-- A LEVEL is legal for its port (R368). -/
def levelOk (l : List Section) (n : Nat) : Bool :=
  let v := elIn l 2 n
  if n ≥ 32 then v == 4 else if bit (linkEn l) n then v ≤ 4 else v == 5

/-- VC weights, one to five. -/
def vcWeights (l : List Section) : List Nat :=
  (List.range 4).map (fun i => bits (elIn l 4 0) (8 * i + 7) (8 * i)) ++ [bits (elIn l 4 1) 7 0]

def partEl (l : List Section) (p e : Nat) : Nat := elIn l 6 (20 * p + e)
def pWays (l : List Section) (p : Nat) : Nat := bits (partEl l p 0) 15 0
def pBase (l : List Section) (p : Nat) : Nat := bits (partEl l p 1) 19 0
def pCount (l : List Section) (p : Nat) : Nat := bits (partEl l p 2) 20 0
def pRqBase (l : List Section) (p : Nat) : Nat := bits (partEl l p 3) 7 0
def pRqCount (l : List Section) (p : Nat) : Nat := bits (partEl l p 3) 16 8
def pWeight (l : List Section) (p : Nat) : Nat := bits (partEl l p 3) 24 17

/-- Pairs of different partitions. -/
def partPairs : List (Nat × Nat) := [(0, 1), (0, 2), (0, 3), (1, 2), (1, 3), (2, 3)]

def disjointRange (a n b m : Nat) : Bool := n == 0 || m == 0 || a + n ≤ b || b + m ≤ a

/-- The resources of different partitions are disjoint and complete (R290, R368). -/
def partsOk (l : List Section) : Bool :=
  partPairs.all (fun p =>
    pWays l p.1 &&& pWays l p.2 == 0
      && disjointRange (pBase l p.1) (pCount l p.1) (pBase l p.2) (pCount l p.2)
      && disjointRange (pRqBase l p.1) (pRqCount l p.1) (pRqBase l p.2) (pRqCount l p.2))
    && ((List.range 4).map (pRqCount l)).sum ≤ 256
    && (List.range 4).all (fun p => pWays l p == 0 || (1 ≤ pRqCount l p && 1 ≤ pWeight l p))

/-- The conditions of R368. -/
def layContentOk (l : List Section) : Bool :=
  (List.range 36).all (levelOk l) && (vcWeights l).all (fun w => 1 ≤ w) && partsOk l
    && ((List.range 8).map (fun n => bits (elIn l 7 n) 12 0 * poolSize n)).sum ≤ 368640
    && bits (elIn l 1 5) 27 0 != 0

/-- IMAGE_HANKS equals the section's HANKS less 1. -/
def firmwareOk (i : Image) : Bool :=
  match i.secs.find? (fun s => s.1 == 9) with
  | some s => recW s.2 1 == s.2.length - 1
  | none => false

/-- The lay enables an instance that the grade mask disables (R373 test 6). -/
def overGrade (b : Body) (l : List Section) : Bool :=
  (List.range 4).any (fun i =>
    let en := if i == 0 then bits (elIn l 1 0) 3 0 else elIn l 1 i
    en &&& gradeWord b i != en)

/-! ### Taking effect (R374, R379) -/

/-- Registers that the UNITS and PORTS sections load. A port that the lay no longer enables carries no flits. -/
def loadPorts (l : List Section) (b : Body) : Body :=
  { b with
    stc := { b.stc with root := bit (elIn l 1 4) 0 },
    fab := { b.fab with ports := (List.range 36).map (fun n =>
      let p := b.port n
      let on := if n < 32 then bit (linkEn l) n else p.subst
      { p with level := BitVec.ofNat 3 (elIn l 2 n), up := p.up && on, trained := p.trained && on }) } }

/-- Registers that the VC section loads. -/
def loadVc (l : List Section) (b : Body) : Body :=
  { b with fab := { b.fab with
      vcLo := BitVec.ofNat 32 (elIn l 4 0), vcHi := BitVec.ofNat 8 (elIn l 4 1), lead := BitVec.ofNat 24 (elIn l 4 2) } }

/-- Registers that the PARTS section loads. -/
def loadParts (l : List Section) (b : Body) : Body :=
  let load := fun (p : Nat) (x : Part) =>
    { x with ways := BitVec.ofNat 16 (pWays l p), ppnBase := BitVec.ofNat 20 (pBase l p),
             ppnCount := BitVec.ofNat 21 (pCount l p), port := BitVec.ofNat 32 (partEl l p 3 % 2 ^ 25) }
  let quota := (List.range 4).map (fun p => (List.range 16).map (fun r => bits (partEl l p (4 + r)) 22 0))
  { b with parts := (List.range 4).map (fun p => load p (b.part p)), coil := { b.coil with quota := quota } }

/-- Registers that the MODE section loads. -/
def loadMode (l : List Section) (b : Body) : Body :=
  { b with cr := { b.cr with plumb := bit (elIn l 8 0) 0 }, fab := { b.fab with tEn := bit (elIn l 8 0) 1 } }

/-- A base lay takes effect (R374). -/
def installLay (t : Tally) (i : Image) (b : Body) : Body :=
  let l := secsOf i
  let skip := sigSkip t b
  let b := loadMode l (loadParts l (loadVc l (loadPorts l b)))
  let b := { b with parts := b.parts.map (fun (p : Part) => { p with mode := 0 }) }
  let fw := ((i.secs.find? (fun s => s.1 == 9)).map Prod.snd).getD []
  { b with
    mrl := { b.mrl with fwId := BitVec.ofNat 32 (elIn l 9 0) },
    lay := { b.lay with
      loaded := true, pending := false, serving := false, training := false, tandem := false, assay := false,
      sigSkipped := skip, keyGen := if skip then 0 else BitVec.ofNat 2 (keyGenOf t),
      id := BitVec.ofNat 32 i.lay, build := BitVec.ofNat 32 i.build,
      keyDigest := if skip then 0 else (keyHash i).getD 0 0, secs := l, image := fw.drop 1 } }

/-- The load ends with a code: nothing else changes, and LAY_LAST_ERR records it (R374). -/
def layFail (r : CmdRec) (code : Nat) (b : Body) : Body :=
  acceptGlobal r code [] { b with lay := { b.lay with lastErr := BitVec.ofNat 16 code } }

/-- A stop of the image's reads ends the load with its status (R372). -/
def layStop (r : CmdRec) (x : Stop) (b : Body) : Body :=
  match x with
  | .hard code _ _ _ _ => layFail r code b
  | _ => b

/-- Tests 3 to 7 of Table 15.3 on a base lay. -/
def layCheck (t : Tally) (b : Body) (i : Image) : Check := do
  sealCheck t b i
  failIf (overGrade b (secsOf i)) Code.layGrade
  failIf (!(layContentOk (secsOf i) && firmwareOk i)) Code.laySection

def groupOpen (b : Body) : Bool := b.thm.groups.any Group.opened

/-- LOAD_LAY from its acceptance to its reply (R372 to R374). -/
def loadLayOp (t : Tally) (r : CmdRec) (b : Body) : Body :=
  if b.ctxs.any Ctx.created || groupOpen b then layFail r Code.layBusy b
  else match Io.on (readImage false r.addr (r.b 0)) b with
    | (.error x, b) => layStop r x b
    | (.ok none, b) => layFail r Code.layForm b
    | (.ok (some i), b) => match layCheck t b i with
      | .error code => layFail r code b
      | .ok () => acceptGlobal r 0 [] (installLay t i b)

/-- The row LOAD_LAY. -/
def execLoadLay (s : State) : Host.Outcome State Fault Refusal :=
  s.onBody (fun own b => withHead own 64 Cmd.loadLay (loadLayOp s.tal) b)

/-! ### Splices (R377 to R379) -/

/-- Section types that may be patched (R377). -/
def patchable : List Nat := [4, 6, 7, 8]

/-- A patch hank: TYPE, ELEMENT, VALUE, MASK (Table 15.4). -/
def patchOf (h : Hank) : Nat × Nat × Nat × Nat := (bits (hW h 0) 7 0, hW h 1, hW h 2, hW h 3)

/-- The element within its section. -/
def patchOk (l : List Section) (p : Nat × Nat × Nat × Nat) : Bool :=
  patchable.contains p.1 && (match l.find? (fun s => s.type == p.1) with
    | some s => p.2.1 < s.els.length
    | none => false)

/-- One patch: the element becomes (old and not MASK) or (VALUE and MASK). -/
def applyPatch (l : List Section) (p : Nat × Nat × Nat × Nat) : List Section :=
  l.map (fun s => if s.type == p.1 then
      let old := s.els.getD p.2.1 0
      { s with els := s.els.set p.2.1 ((old &&& (2 ^ 32 - 1 - p.2.2.2)) ||| (p.2.2.1 &&& p.2.2.2)) }
    else s)

def patchesOf (i : Image) : List (Nat × Nat × Nat × Nat) := (i.secs.flatMap Prod.snd).map patchOf

/-- The splice of a mode is applied. -/
def Lay.applied (l : Lay) (mode : Nat) : Bool :=
  match mode with
  | 0 => l.serving
  | 1 => l.training
  | 2 => l.tandem
  | _ => l.assay

/-- The checks of a splice after tests 2 to 5, in order (R378). -/
def spliceCheck (b : Body) (i : Image) : Check := do
  failIf (b.opens.any (fun o => !o.cmd.isGlobal) || b.cp.waitOut.any (fun r => r.acc && r.ctx.isSome) || groupOpen b)
    Code.layBusy
  failIf (b.lay.pending || !b.lay.loaded) Code.layNone
  failIf (i.lay != b.lay.id.toNat) Code.spliceBase
  failIf (!(patchesOf i).all (patchOk b.lay.secs)) Code.spliceTarget
  failIf (b.lay.applied i.mode) Code.spliceDup
  failIf ((i.mode == 0 && b.lay.training) || (i.mode == 1 && b.lay.serving)) Code.spliceConflict
  failIf (i.mode == 3 && (b.blk.life == 1 || b.blk.life == 2)) Code.spliceState
  failIf (!layContentOk ((patchesOf i).foldl applyPatch b.lay.secs)) Code.laySection

/-- A splice takes effect: the sections that it patches load their registers (R379). -/
def installSplice (i : Image) (b : Body) : Body :=
  let l := (patchesOf i).foldl applyPatch b.lay.secs
  let has := fun t => (patchesOf i).any (fun p => p.1 == t)
  let b := if has 4 then loadVc l b else b
  let b := if has 6 then loadParts l b else b
  let b := if has 8 then loadMode l b else b
  let lay :=
    { b.lay with secs := l, serving := b.lay.serving || i.mode == 0, training := b.lay.training || i.mode == 1,
                 tandem := b.lay.tandem || i.mode == 2, assay := b.lay.assay || i.mode == 3 }
  { b with lay := lay }

/-- APPLY_SPLICE from its acceptance to its reply (R378, R379). -/
def applySpliceOp (t : Tally) (r : CmdRec) (b : Body) : Body :=
  match Io.on (readImage true r.addr (r.b 0)) b with
  | (.error x, b) => layStop r x b
  | (.ok none, b) => layFail r Code.layForm b
  | (.ok (some i), b) =>
    match sealCheck t b i with
    | .error code => layFail r code b
    | .ok () => match spliceCheck b i with
      | .error code => layFail r code b
      | .ok () => acceptGlobal r 0 [] (installSplice i b)

/-- The row APPLY_SPLICE. -/
def execApplySplice (s : State) : Host.Outcome State Fault Refusal :=
  s.onBody (fun own b => withHead own 64 Cmd.applySplice (applySpliceOp s.tal) b)

end Sys2Proof.Machine
end

