-- ==== Sys2Proof/Machine/AssayRun.lean ====
section
/-! DEFINITION. The assay, the choice of substitutions and the aging monitors (spec/18 R444 to R455). -/

namespace Sys2Proof.Machine

/-! ### Slices (Table 18.5) -/

/-- Slices whose instances the grade mask disables (R444). -/
def sliceSkipped (b : Body) (n : Nat) : Bool :=
  if 102 ≤ n && n ≤ 105 then !bit (gradeWord b 0) (n - 102)
  else if 106 ≤ n && n ≤ 109 then
    (List.range 17).all (fun i => let lane := 17 * (n - 106) + i; lane < 64 && !bit (micPresent b) lane)
  else false

/-- The slices of Table 18.5 in wrap order from a slice. -/
def wrapSlices (first : Nat) : List Nat :=
  let f := if first ≤ 117 then first else 0
  (List.range 118).map (fun i => (f + i) % 118)

/-- The register words of Table 19.4: first offset, stride and number of each row's words. -/
def indexRows : List (Nat × Nat × Nat) :=
  [(0x000000, 4, 2), (0x010000, 4, 6), (0x010020, 4, 1), (0x020000, 4, 5), (0x020100, 4, 8), (0x040000, 4, 2),
   (0x040010, 4, 12), (0x060000, 4, 3), (0x060010, 4, 8), (0x060100, 4, 4), (0x080000, 4, 2), (0x080010, 4, 2),
   (0x080100, 4, 3), (0x090000, 4, 6), (0x0A0000, 4, 2), (0x0A0010, 4, 3), (0x0C0000, 4, 2), (0x0C0010, 4, 4),
   (0x0C0100, 4, 6), (0x100000, 4, 36), (0x100100, 4, 36), (0x100200, 4, 5), (0x100220, 4, 2), (0x100300, 4, 6),
   (0x100320, 4, 1), (0x100400, 4, 3), (0x101000, 0x20, 16), (0x101004, 0x20, 16), (0x101008, 0x20, 16),
   (0x10100C, 0x20, 16), (0x101010, 0x20, 16), (0x102000, 4, 4), (0x140000, 4, 6), (0x140020, 4, 10), (0x144000, 4, 13),
   (0x148000, 4, 1), (0x148010, 4, 8), (0x180000, 4, 7), (0x180020, 4, 5), (0x180100, 4, 16), (0x180200, 4, 2),
   (0x180300, 4, 1), (0x1C0000, 4, 36), (0x1C0100, 4, 36), (0x1C0200, 4, 36), (0x1C0300, 4, 36), (0x1C0400, 4, 8),
   (0x1C0500, 4, 12), (0x1C0600, 4, 3), (0x1C0610, 4, 4), (0x200000, 4, 7), (0x200020, 4, 24), (0x200100, 4, 30),
   (0x200180, 4, 31), (0x200200, 4, 5), (0x200220, 4, 4), (0x200240, 4, 3), (0x200250, 4, 3), (0x200260, 4, 2)]

/-- An offset that a row of Table 19.4 lists (R459). -/
def listed (off : Nat) : Bool :=
  indexRows.any (fun r => r.1 ≤ off && (off - r.1) % r.2.1 == 0 && (off - r.1) / r.2.1 < r.2.2)

/-- The registers of the units that a slice tests (R445); GAR_PRESENT and GAR_WAIT belong to no one array. DESIGN CHOICE,
log 21. -/
def sliceHolds (n off : Nat) : Bool :=
  let within := fun lo hi => lo ≤ off && off < hi
  if n ≤ 101 then within 0x180200 0x180208
  else if n ≤ 105 then 0x040010 ≤ off && off < 0x040040 && (off - 0x040010) / 4 % 4 == n - 102
  else if n ≤ 109 then within 0x060100 0x070000
  else if n == 110 then within 0x060000 0x060100
  else if n == 111 then within 0x080100 0x090000
  else if n == 112 then within 0x080000 0x080100
  else if n == 113 then within 0x0A0000 0x0B0000
  else if n == 114 then within 0x0C0000 0x0D0000
  else if n == 115 then within 0x148000 0x150000
  else if n == 116 then within 0x140000 0x148000
  else if n == 117 then within 0x180000 0x180200 || within 0x180300 0x190000 || within 0x010000 0x010020
  else if n == 118 then within 0x100200 0x102000
  else if n == 119 then within 0x100000 0x100200
  else if n == 120 then within 0x102000 0x103000
  else within 0x010000 0x020000

/-- The slice whose units are held at a tick: the one before stands until its restore ends (R445). -/
def Assay.slice (a : Assay) (now : Nat) : Option Nat := if now < a.start then a.prev else a.cur

/-- A register belongs to a unit that a slice holds. -/
def held (b : Body) (off : Nat) : Bool :=
  match b.blk.assay with
  | some a => (match a.slice b.now with
      | some n => listed off && sliceHolds n off
      | none => false)
  | none => false

/-- ASY_STATUS.STATE (Table 18.11): 2 saving, 3 testing and 4 restoring while slices run (R445). -/
def asyPhase (b : Body) : Nat :=
  match b.blk.assay with
  | some a => (match a.cur with
      | some n => if b.now < a.start then 4 else if b.now < a.start + (Config.saveTicks n).toNat then 2 else 3
      | none => if b.now < a.start then 4 else b.blk.asyState.toNat)
  | none => b.blk.asyState.toNat

/-- ASY_STATUS.SLICE. -/
def asySliceNow (b : Body) : Nat := ((b.blk.assay.bind (fun a => a.slice b.now)).getD b.blk.asySlice.toNat)

/-! ### Running (R445 to R448) -/

/-- The most ticks a restore takes: 8,192 beats at 1.05 beats a tick (R445). -/
def restoreMax : Nat := 7802

/-- The restore of a slice in progress, whose ticks the spec bounds and leaves open (R445). -/
def restoreOf : Option Nat → Nat
  | some n => min (Config.restoreTicks n) restoreMax
  | none => 0

/-- The next slice starts once the one before is restored; with none left the assay waits for its end. Its energy is of
class 6 (R444). -/
def nextSlice (b : Body) : Body :=
  match b.blk.assay with
  | none => b
  | some a =>
    let a := { a with prev := a.cur, start := b.now + restoreOf a.cur }
    match a.todo with
    | [] => { b with blk := { b.blk with assay := some { a with cur := none }, asyState := 5 } }
    | n :: rest => charge 6 20 1 { b with blk := { b.blk with
        assay := some { a with cur := some n, todo := rest }, asyState := 3, asySlice := BitVec.ofNat 7 n } }

/-- An assay over some slices starts: the log and the cover are cleared (R447). -/
def startAssay (byCommand : Bool) (first : Nat) (visit : List Nat) (b : Body) : Body :=
  nextSlice { b with blk := { b.blk with
    assay := some { byCommand := byCommand, todo := visit, cur := none, first := first, visit := visit },
    assayNext := false, cover := 0, fails := [], failCnt := 0, overflow := false, noBudget := false, unrepaired := false } }

/-- The shutdown assay (R444): it skips the slices of instances that the grade disables. It waits for an assay by command
that is not over; a rise of DX_EN that came before it leaves it no slice to run (DESIGN CHOICE, log 94). -/
def startShutdownAssay (b : Body) : Body :=
  if b.blk.assay.isSome then { b with blk := { b.blk with assayNext := true } }
  else
    let visit := (wrapSlices b.blk.next.toNat).filter (fun n => !sliceSkipped b n)
    startAssay false (visit.headD 0) (if b.blk.startWaits then [] else visit) b

/-- A failure as the log holds it: SLICE and VALID added, reserved bits 0 (Table 18.12). -/
def logWords (slice : Nat) (f : Failure) : W32 × W32 :=
  (BitVec.ofNat 32 (fld 6 0 slice + fld 24 7 (bits f.w0.toNat 24 7) + 2 ^ 31),
   BitVec.ofNat 32 (fld 19 0 (bits f.w1.toNat 19 0) + fld 29 20 (bits f.w1.toNat 29 20)))

/-- Failures of the slice in progress: logged while the log of 64 has room, and counted (R447); OVERFLOW says that the log is full (Table 18.11). -/
def logFails (slice : Nat) (fs : List Failure) (b : Body) : Body :=
  { b with blk := { b.blk with
      fails := b.blk.fails ++ fs.map (logWords slice), failCnt := b.blk.failCnt + fs.length,
      overflow := b.blk.overflow || b.blk.failCnt + fs.length ≥ 64 } }

/-- A slice's test phase ended within its budget: the slice is complete (R448). -/
def sliceComplete (n : Nat) (b : Body) : Body :=
  { b with blk := { b.blk with
      assay := b.blk.assay.map (fun a => { a with done := a.done ++ [n] }),
      cover := b.blk.cover ||| BitVec.ofNat 128 (2 ^ n) } }

/-- A slice is partial (R446, R452). -/
def slicePartial (b : Body) : Body :=
  { b with blk := { b.blk with assay := b.blk.assay.map (fun a => { a with partials := a.partials + 1 }) } }

/-- The slice in progress and when its save started. -/
def curSlice (b : Body) : Option (Nat × Nat) := b.blk.assay.bind (fun a => a.cur.map (fun n => (n, a.start)))

/-- ASSAY_SLICE_END (R445, R446): the test phase, which follows the save, is over. Throttle applies to the assay (R444). -/
def sliceEnd (fs : List Failure) (b : Body) : Body :=
  match curSlice b with
  | none => b
  | some (n, t) =>
    if b.pwr.holding then b
    else if t + (Config.saveTicks n).toNat ≤ b.now && b.now - t < b.blk.budget.toNat then nextSlice (sliceComplete n (logFails n fs b)) else b

/-- SLICE_BUDGET_EXPIRY (R446). -/
def sliceExpire (fs : List Failure) (b : Body) : Body :=
  match curSlice b with
  | none => b
  | some (n, t) =>
    if b.pwr.holding then b
    else if t ≤ b.now && b.blk.budget.toNat ≤ b.now - t then nextSlice (slicePartial (logFails n fs b)) else b

/-! ### Choice of substitutions (R449) -/

/-- An element: class, array, logical instance, and its spare index when it is a spare. -/
structure Elem where
  cls : Nat
  arr : Nat
  logical : Nat
  spare : Option Nat := none
deriving DecidableEq, Repr

/-- The element that a log entry names. -/
def failElem (w0 : W32) : Elem :=
  let w := w0.toNat
  let cls := bits w 10 7
  { cls := cls, arr := if cls ≤ 1 then bits w 12 11 else 0, logical := bits w 19 13,
    spare := if bit w 20 then some (bits w 23 21) else none }

/-- The element that a monitor stands for: spares are numbered after the logical range (R458). -/
def wearElem (m : Monitor) : Elem :=
  let top := logicalMax m.cls
  { cls := m.cls, arr := m.arr, logical := m.idx, spare := if m.idx > top then some (m.idx - top - 1) else none }

/-- The link port that serves an active port, as an element of class 6. -/
def portElem (b : Body) (p : Nat) : Elem :=
  let s := standIn b p
  { cls := 6, arr := 0, logical := p, spare := if s ≥ 32 then some (s - 32) else none }

/-- Elements that failed: log entries, and active link ports that were DOWN or did not train (R449). -/
def failedElems (b : Body) : List Elem :=
  let en := linkEn b.lay.secs
  let ports := (List.range 32).filter (fun p => bit en p &&
    (let x := b.port (standIn b p); x.downEver || !x.trained))
  b.blk.fails.map (fun f => failElem f.1) ++ ports.map (portElem b)

/-- Elements that are worn, with their wear. -/
def wornElems (b : Body) : List (Elem × Nat) :=
  (b.blk.wear.filter (fun m => b.blk.wearSub.toNat ≤ m.wear)).map (fun m => (wearElem m, m.wear))

/-- Grade-disabled instances take no substitution (R384, R449). -/
def elemDisabled (b : Body) (e : Elem) : Bool :=
  if e.cls ≤ 1 then !bit (gradeWord b 0) e.arr
  else if e.cls == 2 then e.spare.isNone && !bit (micPresent b) e.logical
  else if e.cls == 6 then e.spare.isNone && !bit (gradeWord b 3) e.logical
  else false

/-- An entry of the map: class, array, spare, logical instance. -/
abbrev MapEnt := Nat × Nat × Nat × Nat

/-- The word of an entry (Table 15.7). -/
def entWord (e : MapEnt) : W32 :=
  BitVec.ofNat 32 (fld 3 0 e.1 + fld 5 4 e.2.1 + fld 8 6 e.2.2.1 + fld 22 16 e.2.2.2 + 2 ^ 31)

/-- The lowest spare of a class that is not in use, has no failure and is not worn. -/
def freeSpare (bad : List Elem) (used : List MapEnt) (cls arr : Nat) : Option Nat :=
  (List.range (spareLimit cls)).find? (fun s =>
    !used.any (fun u => u.1 == cls && u.2.1 == arr && u.2.2.1 == s)
      && !bad.any (fun e => e.cls == cls && e.arr == arr && e.spare == some s))

/-- The map as it is built: its words, substitutions chosen, and whether some instance stays unrepaired. -/
structure Choice where
  words : List W32
  chosen : Nat := 0
  unrepaired : Bool := false
deriving DecidableEq, Repr

/-- The first entry word with VALID 0. -/
def freeEntry (ws : List W32) : Nat := ws.findIdx (fun w => !bit w.toNat 31)

/-- The place of the entry that uses a spare. -/
def entryAt (ws : List W32) (cls arr spare : Nat) : Option Nat :=
  ws.findIdx? (fun w => (repairEntries [w]).any (fun u => u.1 == cls && u.2.1 == arr && u.2.2.1 == spare))

/-- Serve one failed or worn element. A native instance that a spare already replaces, and a spare not in use, need
nothing; a region without spares stays unrepaired. -/
def serve (bad : List Elem) (c : Choice) (e : Elem) : Choice :=
  if e.cls > 6 then { c with unrepaired := true }
  else
    let used := repairEntries c.words
    match e.spare with
    | none =>
      if used.any (fun u => u.1 == e.cls && u.2.1 == e.arr && u.2.2.2 == e.logical) then c
      else match freeSpare bad used e.cls e.arr with
        | some s =>
          { c with words := c.words.set (freeEntry c.words) (entWord (e.cls, e.arr, s, e.logical)), chosen := c.chosen + 1 }
        | none => { c with unrepaired := true }
    | some s0 =>
      match entryAt c.words e.cls e.arr s0 with
      | none => c
      | some k => match freeSpare bad used e.cls e.arr with
        | some s =>
          let old := (repairEntries [tget c.words k]).headD (0, 0, 0, 0)
          { c with words := c.words.set k (entWord (e.cls, e.arr, s, old.2.2.2)), chosen := c.chosen + 1 }
        | none => { c with unrepaired := true }

/-- Class order, then ascending array and logical index. -/
def elemKey (e : Elem) : Nat := (e.cls * 16 + e.arr) * 256 + e.logical

/-- The choice at the end of an assay (R449), from the map committed. -/
def chooseMap (map : List W32) (b : Body) : Choice :=
  let failed := (failedElems b).eraseDups.filter (fun e => !elemDisabled b e)
  let worn := (wornElems b).filter (fun p => !elemDisabled b p.1 && !failed.contains p.1)
  let bad := failed ++ worn.map Prod.fst
  let wornSorted := sortKey (fun p => ((p.1.cls * 16 + p.1.arr) * 65536 + (65535 - p.2)) * 256 + p.1.logical) worn
  let todo := sortKey elemKey failed ++ wornSorted.map Prod.fst
  todo.foldl (serve bad) { words := map }

/-! ### The end of an assay (R448, R450 to R452) -/

/-- The first slice of Table 18.5, in wrap order, that the assay did not complete, whatever kept it from that; its first slice when it completed
all (DEDUCED, log 22). -/
def nextAfter (a : Assay) : Nat :=
  ((wrapSlices a.first).find? (fun n => !a.done.contains n)).getD (a.first % 118)

/-- Some slice that was not skipped is partial or was not visited. -/
def assayIncomplete (a : Assay) : Bool := a.visit.any (fun n => !a.done.contains n)

/-- N_ASSAY: STATUS and body words 0 to 2 (R451). -/
def assayNotice (b : Body) (a : Assay) (c : Choice) (changed committed noBudget : Bool) : List Nat :=
  let status := if c.unrepaired then Code.asyUnrepaired else if changed && !committed then Code.asyNoBudget
    else if assayIncomplete a then Code.asyPartial else 0
  [status, fld 7 0 a.done.length + fld 15 8 a.first + fld 23 16 a.partials, min b.blk.failCnt 127,
   fld 7 0 c.chosen + fld 8 8 (b2n committed) + fld 9 9 (b2n noBudget) + fld 10 10 (b2n c.unrepaired)
     + fld 11 11 (b2n b.blk.overflow)]

/-- N_ASSAY is raised (R451); a shutdown assay that waited for it starts. -/
def raiseAssay (ws : List Nat) (b : Body) : Body :=
  let b := { b with blk := { b.blk with asyState := 6, afterCommit := none } }
  let b := notice Ntc.assay none 0 (ws.getD 0 0) 1 (ws.drop 1 ++ [b.blk.next.toNat]) 20 b
  if b.blk.assayNext then startShutdownAssay b else b

/-- The assay ends: substitutions are chosen, a changed map is committed if the budget allows, and N_ASSAY follows, after
the commit when there is one (R449 to R451). It waits until the last slice is restored (R445), and while a commit is in progress (R382). -/
def endAssay (s : State) : State :=
  match s.b.blk.assay with
  | none => s
  | some a =>
    if a.cur.isSome || s.b.now < a.start || s.tal.busy.isSome then s
    else
      let b := s.b
      let c := chooseMap (s.tal.value 0) b
      let changed := c.words != s.tal.value 0
      let spent := s.tal.used 0 ≥ talBudget 0
      let wants := changed && (!a.byCommand || b.blk.autoCommit)
      let noBudget := wants && spent
      let committed := wants && !spent
      let b := { b with blk := { b.blk with
        assay := none, next := BitVec.ofNat 7 (nextAfter a), unrepaired := c.unrepaired, noBudget := noBudget,
        partialLast := assayIncomplete a } }
      let ws := assayNotice b a c changed committed noBudget
      if committed then
        { s with tal := s.tal.begin 0 c.words, b := { b with blk := { b.blk with afterCommit := some ws } } }
      else { s with b := raiseAssay ws b }

/-- DX_OFF (Table 18.1): shut, with the assay ended and no tally commit in progress. -/
def State.dxOff (s : State) : Bool :=
  s.b.blk.shut && s.b.blk.assay.isNone && !s.b.blk.assayNext && s.b.blk.afterCommit.isNone && s.tal.busy.isNone

/-- The row ASSAY_SLICE_END. -/
def execAssaySliceEnd (fails : List Failure) (s : State) : Host.Outcome State Fault Refusal :=
  s.onBody (fun _ b => sliceEnd fails b)

/-- The row SLICE_BUDGET_EXPIRY. -/
def execSliceBudgetExpiry (fails : List Failure) (s : State) : Host.Outcome State Fault Refusal :=
  s.onBody (fun _ b => sliceExpire fails b)

/-! ### Assay by command (R455) -/

/-- The check of GO in ASY_CTRL, in the order of R455. -/
def asyGoCheck (b : Body) : Check := do
  failIf (!((b.blk.life == 0 || b.blk.life == 3) && b.lay.loaded && b.lay.assay)) Code.asyState
  failIf (b.ctxs.any Ctx.created || groupOpen b || b.blk.assay.isSome) Code.asyBusy

/-- GO in ASY_CTRL: the code of a refusal, 0 without one. -/
def asyGoOp (b : Body) : Body × Nat :=
  match asyGoCheck b with
  | .error c => (b, c)
  | .ok () =>
    let f := b.blk.first.toNat
    let slices := ((List.range 122).filter (fun n => f ≤ n && n ≤ b.blk.last.toNat))
    (startAssay true f slices b, 0)

/-! ### Aging monitors (R453, R454) -/

def Monitor.is (cls arr idx : Nat) (m : Monitor) : Bool := m.cls == cls && m.arr == arr && m.idx == idx

/-- The value of a monitor; 0 before its first measurement. -/
def wearOf (b : Body) (cls arr idx : Nat) : Nat :=
  ((b.blk.wear.find? (Monitor.is cls arr idx)).map Monitor.wear).getD 0

/-- Spares of a class that are free and not worn (R454). -/
def freeSpares (b : Body) (cls arr : Nat) : Nat :=
  let used := repairEntries b.blk.repair
  let worn := (wornElems b).map Prod.fst
  ((List.range (spareLimit cls)).filter (fun s =>
    !used.any (fun u => u.1 == cls && u.2.1 == arr && u.2.2.1 == s)
      && !worn.any (fun e => e.cls == cls && e.arr == arr && e.spare == some s))).length

/-- A monitor's measurement is due: the block runs, and it has not measured in this STC second (R453). -/
def wearDue (cls arr idx : Nat) (b : Body) : Bool :=
  b.blk.started && !b.blk.shut && !b.blk.wear.any (fun m => m.is cls arr idx && m.sec == b.now / 10 ^ 9)

/-- A monitor measures WEAR; crossing WEAR_WARN upward raises N_WEAR once for it (R453, R454). -/
def wearMeasureOp (cls arr idx wear : Nat) (b : Body) : Body :=
  let old := wearOf b cls arr idx
  let m : Monitor := { cls := cls, arr := arr, idx := idx, wear := wear, sec := b.now / 10 ^ 9 }
  let b := { b with blk := { b.blk with wear := b.blk.wear.filter (fun m => !m.is cls arr idx) ++ [m] } }
  if old < b.blk.wearWarn.toNat && b.blk.wearWarn.toNat ≤ wear then
    let e := wearElem m
    let logical := match e.spare with
      | none => idx
      | some s => (((repairEntries b.blk.repair).find? (fun u => u.1 == cls && u.2.1 == arr && u.2.2.1 == s)).map
          (fun u => u.2.2.2)).getD 0
    let w0 := fld 3 0 cls + fld 5 4 arr + fld 12 6 logical + fld 13 13 (b2n e.spare.isSome) + fld 16 14 (e.spare.getD 0)
    notice Ntc.wear none 0 0 1 [w0, wear, freeSpares b cls arr, 0] 20 b
  else b

/-- The row WEAR_MEASURE. -/
def execWearMeasure (cls : BitVec 4) (array : BitVec 2) (index : BitVec 8) (wear : W16) (s : State) :
    Host.Outcome State Fault Refusal :=
  s.onBody (fun _ b =>
    if index.toNat ≤ logicalMax cls.toNat + spareLimit cls.toNat && cls.toNat ≤ 6 && (cls.toNat ≤ 1 || array == 0)
        && wearDue cls.toNat array.toNat index.toNat b then
      wearMeasureOp cls.toNat array.toNat index.toNat wear.toNat b
    else b)

end Sys2Proof.Machine
end

