-- ==== Sys2Proof/Machine/Contexts.lean ====
section
/-! DEFINITION. The control registers of the calcite slots (spec/04 R92 to R97), of the translator's invalidation
(spec/11 R266) and of the context table (spec/12 R287, R293), with the rows that write them. -/

namespace Sys2Proof.Machine

/-- A register write as a step of its own: nothing happens while an assay slice holds the unit (R360, R445). -/
def regRow (off : Nat) (f : Body → Body) (s : State) : Host.Outcome State Fault Refusal :=
  s.onBody (fun _ b => if held b off then b else f b)

/-! ### Calcite slots (R94 to R96) -/

def Body.slot (b : Body) (n : Nat) : Slot := tget b.slots n
def Body.modSlot (b : Body) (n : Nat) (f : Slot → Slot) : Body := { b with slots := tmod b.slots n f }

/-- Commands bound to a buffer of a slot (R96). -/
def slotBindings (b : Body) (n buf : Nat) : Nat :=
  (b.opens.filter (fun o => match o.work with
    | .route w => w.slotBuf == some (n, buf)
    | _ => false)).length

/-- The buffer that is not current. -/
def Slot.other (s : Slot) : Nat := 1 - s.cur
def Slot.buf (s : Slot) (i : Nat) : SlotBuf := if i == 0 then s.buf0 else s.buf1

/-- SHADOW_BUSY (R96). -/
def shadowBusy (b : Body) (n : Nat) : Bool := slotBindings b n (b.slot n).other != 0

/-- The slot with its shadow mapped. -/
def Slot.modShadow (s : Slot) (f : SlotBuf → SlotBuf) : Slot :=
  if s.cur == 1 then { s with buf0 := f s.buf0 } else { s with buf1 := f s.buf1 }

/-- A write of CAL_SLOTn_DATA (R94). -/
def calDataWrite (n : Nat) (data : W32) (b : Body) : Body :=
  let s := b.slot n
  if s.word.toNat > 771 || shadowBusy b n then b.modSlot n (fun s => { s with writeLost := true })
  else b.modSlot n (fun s =>
    { s.modShadow (fun x => { x with words := x.words.set s.word.toNat data }) with word := s.word + 1 })

/-- The descriptor that COMMIT refuses: SEGS outside 1 to 256, LO not finite, INV_W not finite and positive (R95). -/
def descBad (segs : Nat) (x : SlotBuf) : Bool :=
  let lo := sbWord x 0
  let inv := sbWord x 1
  segs == 0 || segs > 256 || !isFinite32 lo || !isFinite32 inv || isZero32 inv || bit inv 31

/-- COMMIT (R95). The order of its two refusals is that of the rule. -/
def calCommit (n : Nat) (b : Body) : Body :=
  let s := b.slot n
  let sh := s.buf s.other
  if shadowBusy b n then b.modSlot n (fun s => { s with writeLost := true })
  else if descBad s.segs.toNat sh then b.modSlot n (fun s => { s with descBad := true })
  else b.modSlot n (fun s =>
    { s.modShadow (fun x => { x with segs := s.segs.toNat }) with
      cur := s.other, curValid := true, version := s.version + 1 })

/-- A write of CAL_SLOTn_CTRL: the fields, SEGS first, then COMMIT (R95, Table 4.10). -/
def calCtrlWrite (n : Nat) (data : W32) (b : Body) : Body :=
  let b := b.modSlot n (fun s =>
    { s with part := data.setWidth 2, opened := data.getLsbD 2, segs := BitVec.ofNat 9 (bits data.toNat 12 4) })
  if data.getLsbD 16 then calCommit n b else b

/-- The row CAL_SLOT_DATA_WRITE. -/
def execCalSlotDataWrite (slot : BitVec 1) (data : W32) (s : State) : Host.Outcome State Fault Refusal :=
  regRow (0x06001C + 0x10 * slot.toNat) (calDataWrite slot.toNat data) s

/-- The row CAL_SLOT_COMMIT: a write of CAL_SLOTn_CTRL with COMMIT 1. -/
def execCalSlotCommit (slot : BitVec 1) (data : W32) (s : State) : Host.Outcome State Fault Refusal :=
  regRow (0x060010 + 0x10 * slot.toNat) (calCtrlWrite slot.toNat (data ||| 0x10000)) s

/-! ### XLT_INVAL (R266, Table 11.16) -/

/-- The translations in the scope of a write: context and page. -/
def invalScope (b : Body) (data : W32) (c vpn : Nat) : Bool :=
  let scope := bits data.toNat 7 6
  scope == 2 || (scope ≤ 1 && c == bits data.toNat 5 0 && (scope == 1 || vpn == b.xlt.invalVpn.toNat))

/-- A write of XLT_INVAL: cached translations in the scope go; BUSY while accesses that used one are outstanding. -/
def xltInvalWrite (data : W32) (b : Body) : Body :=
  if !data.getLsbD 8 then b
  else
    let hit := fun c vpn => invalScope b data c vpn
    let out := (b.xlt.reqs.filter (fun r => hit r.ctx r.vpn)).map (fun r => (r.line, r.id))
    let more := out.filter (fun p => !b.xlt.inval.contains p)
    { b with xlt := { b.xlt with
        cache := b.xlt.cache.filter (fun e => !hit e.ctx e.vpn), inval := b.xlt.inval ++ more } }

/-- The row XLT_INVAL_GO: a write of XLT_INVAL with GO 1. -/
def execXltInvalGo (data : W32) (s : State) : Host.Outcome State Fault Refusal :=
  regRow 0x140014 (xltInvalWrite (data ||| 0x100)) s

/-! ### Contexts (R287) -/

/-- A context not created, or TORN: its configuration may be written. -/
def ctxFree (b : Body) (c : Nat) : Bool := (b.ctx c).st == .absent || (b.ctx c).st == .torn

/-- Some entry of the outstanding-card table belongs to a context (R141). -/
def hasCards (b : Body) (c : Nat) : Bool := b.mrl.cards.any (fun e => e.ctx == c)

/-- A TORN context whose commands have all replied and that has no outstanding card. -/
def tornDone (b : Body) (c : Nat) : Bool := (b.ctx c).st == .torn && openCount b c == 0 && !hasCards b c

def saveBase (x : Ctx) : Nat := x.saveLo.toNat + 2 ^ 32 * x.saveHi.toNat

/-- CREATE is accepted (R287). -/
def createOk (b : Body) (c : Nat) : Bool :=
  let x := b.ctx c
  let p := (b.part x.part.toNat)
  (x.st == .absent || tornDone b c) && p.ways != 0 && (x.ways == 0 || x.ways &&& p.ways == x.ways)
    && saveBase x % 15 == 0

/-- DESTROY is accepted (R287). -/
def destroyOk (b : Body) (c : Nat) : Bool := ((b.ctx c).st == .run && openCount b c == 0) || tornDone b c

/-- A context just created: counters, card counter, ledger, TSEQ empty or 0, state RUN (R287, R329, R390). -/
def freshCtx (x : Ctx) : Ctx :=
  { x with st := .run, stepCtr := 0, cardCtr := 0, ledger := [], tseq := 0, cmdRec := none, saveRec := none,
           savePending := false, evictPending := false, auto := false, dropped := false,
           ctr := List.replicate 18 0, ctrOld := List.replicate 18 0, rcvStop := false, save := none, lout := 0, lin := 0 }

def ctrlBad (b : Body) : Body := { b with cr := { b.cr with ctrlBad := true } }

def ctxCreate (b : Body) : Body :=
  let c := b.cr.sel.toNat
  if createOk b c then b.modCtx c freshCtx else ctrlBad b

/-- A destroyed context that was chosen for an eviction is chosen no longer, and another one may be (R303). -/
def ctxDestroy (b : Body) : Body :=
  let c := b.cr.sel.toNat
  if destroyOk b c then chooseVictim (endEviction c (b.modCtx c (fun x => { x with st := .absent, evictPending := false })))
  else ctrlBad b

/-- A write of CTX_CTRL: CTRL_BAD is cleared first, then CREATE, then DESTROY (Table 12.13; the order within one write is a
DESIGN CHOICE, log 26). -/
def ctxCtrlWrite (data : W32) (b : Body) : Body :=
  let b := if data.getLsbD 2 then { b with cr := { b.cr with ctrlBad := false } } else b
  let b := if data.getLsbD 0 then ctxCreate b else b
  if data.getLsbD 1 then ctxDestroy b else b

/-- The row CTX_CREATE: a write of 1 to CREATE. -/
def execCtxCreate (s : State) : Host.Outcome State Fault Refusal := regRow 0x180008 ctxCreate s

/-- The row CTX_DESTROY: a write of 1 to DESTROY. -/
def execCtxDestroy (s : State) : Host.Outcome State Fault Refusal := regRow 0x180008 ctxDestroy s

end Sys2Proof.Machine
end

