-- ==== Sys2Proof/Machine/Start.lean ====
section
/-! DEFINITION. Reset, start, SHUTDOWN and power (spec/18 R434 to R443, R452), the bight chain (spec/14 R361 to R364),
link training (R438) and loss of power (R383). -/

namespace Sys2Proof.Machine

/-! ### Start (R436, Table 18.2) -/

/-- Reserve link ports take their roles from the repair map in force (R217, R384), and a DOWN port is DOWN no longer but must
train anew (R223); whether a port was DOWN is counted from the start on (R449). -/
def reservePorts (b : Body) : Body :=
  let es := repairEntries b.blk.repair
  { b with fab := { b.fab with ports := (List.range 36).map (fun n =>
      let p := b.port n
      let p := { p with down := false, downEver := false, trained := p.trained && !p.down }
      if n < 32 then p
      else match es.find? (fun e => e.1 == 6 && e.2.2.1 == n - 32) with
        | some e => { p with replaces := BitVec.ofNat 6 e.2.2.2, subst := true }
        | none => { p with replaces := 0, subst := false }) } }

/-- Ports that the grade mask disables, and reserve ports without a role, carry nothing (R14, R217). -/
def disablePorts (b : Body) : Body :=
  { b with fab := { b.fab with ports := (List.range 36).map (fun n =>
      let p := b.port n
      if portEnabled b n then p else { p with up := false, trained := false }) } }

/-- Work state reset: no context, every partition in START, coil pools empty, queues and outward store empty. Whatever
belongs to a context or holds a coil buffer goes with them; the trace is off (DESIGN CHOICE, log 23). -/
def workReset (b : Body) : Body :=
  let b := b.fab.rx.foldl (fun b p => consumePacket p b) b
  let b := { b with
    ctxs := List.replicate 64 {}, opens := [], gens := [],
    xlt := { b.xlt with cache := [], inval := [], reqs := [], bridge := [], frozenRs := [] },
    coil := { b.coil with bufs := [], staging := [], wait := [], chosen := none, cursors := List.replicate 8 0 },
    units := {}, cr := { b.cr with swWaits := false },
    parts := b.parts.map (fun (p : Part) => { p with mode := 0, evicting := none }),
    cp := { b.cp with partial_ := none, discard := false, queue := [], express := [], out := [], waitOut := [] } }
  let b := { b with
    skn := { b.skn with fill := [], drain := [], reading := none, stage := none },
    fab := { b.fab with compare := [] },
    thm := { b.thm with
      groups := b.thm.groups.map (fun (g : Group) => { g with opened := false, closing := false, early := [], voids := [] }),
      pieces := [], musters := [], header := none, tpHold := false, tiles := [], bridge := [] },
    mrl := { b.mrl with held := none, buf := none, bridge := [], cards := [] } }
  { b with obs := { b.obs with enable := false, state := 0, stage := [], bufs := [], left := none, armed := false },
           hang := { b.hang with halted := false } }

/-- Quarry initialised: every word of all 102 banks is written 0 with its ECC, at a cold start alone (Table 18.2, log 109). -/
def quarryInit (warm : Bool) (b : Body) : Body :=
  if warm then b else { b with coil := { b.coil with zeroed := BitVec.allOnes 102 } }

/-- The steps of a start (Table 18.2), cold when it is the first after a reset. -/
def startOp (t : Tally) (b : Body) : Body :=
  let warm := b.blk.started
  let map := t.value 0
  let blk := b.blk
  let blk := { blk with
    life := BitVec.ofNat 2 t.life, gradeRead := true, grade := t.value 1,
    substNew := warm && blk.repair != map, repair := map,
    kind := warm, asyPartial := warm && blk.partialLast && blk.asyState == 6, asyRan := warm && blk.asyState == 6,
    asyState := 0, assay := none, assayNext := false, startWaits := false,
    started := true, shut := false, shutting := false, dxReady := true }
  let b := disablePorts (reservePorts { b with blk := blk })
  let b := workReset (quarryInit warm b)
  { b with lay := { b.lay with pending := true } }

/-- A start that waits begins once SHUTDOWN, assay and tally commits are over (R436, R452). -/
def startIfWaiting (s : State) : State :=
  let blk := s.b.blk
  if blk.startWaits && !blk.shutting && blk.assay.isNone && !blk.assayNext && blk.afterCommit.isNone && s.tal.busy.isNone then
    { s with b := startOp s.tal s.b }
  else s

/-- The edge of DX_EN: a start waits. -/
def raiseDxEn (b : Body) : Body := { b with blk := { b.blk with dxEn := true, startWaits := true } }

/-- No further slice starts (R452). -/
def stopSlices (b : Body) : Body :=
  { b with blk := { b.blk with assay := b.blk.assay.map (fun (a : Assay) => { a with todo := [] }) } }

/-- DX_EN rises while an assay runs (R452): the slice in progress ends, restores and counts as partial, no further slice
starts, the assay ends, and the warm start follows. -/
def dxEnRiseAssay (fails : List Failure) (s : State) : State :=
  match s.b.blk.assay with
  | none => s
  | some a =>
    if s.b.blk.dxEn then s
    else
      let b := stopSlices (raiseDxEn s.b)
      let b := match a.cur with
        | some n => nextSlice (slicePartial (logFails n fails b))
        | none => b
      startIfWaiting (endAssay { s with b := b })

/-- A rising edge of DX_EN (R436). During a repair-map commit or a SHUTDOWN the start waits, and the row stands for its
beginning once they are over (log 94); an assay is ended as by the row DX_EN_RISE_DURING_ASSAY. -/
def dxEnRise (s : State) : State :=
  if s.b.blk.dxEn then startIfWaiting s
  else if s.b.blk.assay.isSome then dxEnRiseAssay [] s
  else startIfWaiting { s with b := raiseDxEn s.b }

/-- The row DX_EN_RISE_START. -/
def execDxEnRiseStart (s : State) : Host.Outcome State Fault Refusal := s.onAll dxEnRise

/-- The row ASSAY_END: acts once every slice of the assay has run and the last one is restored (R445, R451); a start that waited for it begins. -/
def execAssayEnd (s : State) : Host.Outcome State Fault Refusal := s.onAll (fun s => startIfWaiting (endAssay s))

/-- The row DX_EN_RISE_DURING_ASSAY. -/
def execDxEnRiseDuringAssay (fails : List Failure) (s : State) : Host.Outcome State Fault Refusal :=
  s.onAll (dxEnRiseAssay fails)

/-- A tally commit completes (R381). N_ASSAY of an assay that committed follows, or an assay that waited for the commit
ends, and then a start that waited for it (R451, R452). -/
def talCommitDone (s : State) : State :=
  if s.tal.busy.isNone then s
  else
    let s := { s with tal := talDone s.tal }
    match s.b.blk.afterCommit with
    | some ws => startIfWaiting { s with b := raiseAssay ws s.b }
    | none => startIfWaiting (if s.b.blk.startWaits then endAssay s else s)

/-- The row TALLY_COMMIT_DONE. -/
def execTallyCommitDone (s : State) : Host.Outcome State Fault Refusal := s.onAll talCommitDone

/-! ### SHUTDOWN (R441 to R443) -/

/-- Records not yet accepted are later records: they are refused, REG_READ and REG_WRITE excepted. -/
def refuseQueued (b : Body) : Body :=
  let rs := (b.cp.queue ++ b.cp.express).filter (fun r => !registerCode r.code)
  rs.foldl (fun b r => refuseRec r Code.shutting b) b

/-- Steps 1 to 3 of R441 and the closing of the groups. -/
def shutdownBegin (own : Nat) (b : Body) : Body :=
  let b := { b with blk := { b.blk with shutting := true, asyState := 1 }, hang := { b.hang with halted := false } }
  let b := refuseQueued b
  let b := (List.range 64).foldl (fun b c => teardown own c none Code.tornDown (faultHank 15 0 0 0 false) b) b
  (List.range 16).foldl (fun b n => closeGroup n b) b

/-- The end of a SHUTDOWN: once every piece and MUSTER is settled, every context is destroyed, the SHUTDOWN replies, the
block is shut and the shutdown assay starts; a shutdown by DX_EN has no record, no reply and no assay (R441, R443). -/
def shutdownEnd (b : Body) : Body :=
  if !b.blk.shutting || !b.thm.pieces.isEmpty || !b.thm.musters.isEmpty then b
  else
    let b := { settleGroups b with ctxs := List.replicate 64 {} }
    let b := { b with blk := { b.blk with shutting := false, shut := true, asyState := 0 } }
    match b.opens.find? (fun o => o.cmd.code == Cmd.shutdown) with
    | some o =>
      let b := { b with opens := [] }
      startShutdownAssay (globalReply o.cmd 0 [] b)
    | none => b

/-- SHUTDOWN at its acceptance (R441). -/
def shutdownOp (own : Nat) (r : CmdRec) (b : Body) : Body :=
  let b := trace 13 none 0 r.seq r.code (dropRec r b)
  let b := { b with opens := b.opens ++ [{ oid := b.nextOid, cmd := r, stamp := b.now }], nextOid := b.nextOid + 1 }
  shutdownEnd (shutdownBegin own b)

/-- DX_EN falls (R443): while DX_READY is 1 and no SHUTDOWN has run it acts as one without a record. DX_READY falls with
DX_EN (DESIGN CHOICE, log 24). -/
def dxEnFallOp (own : Nat) (b : Body) : Body :=
  if !b.blk.dxEn then b
  else
    let b := { b with blk := { b.blk with dxEn := false, startWaits := false } }
    let b := if b.blk.dxReady && !b.blk.shut && !b.blk.shutting then shutdownEnd (shutdownBegin own b) else b
    { b with blk := { b.blk with dxReady := false } }

/-! ### Reset and power (R435, R437, R383) -/

/-- PORST_N is asserted: everything returns to its reset value but the tally store, which is one-time-programmable, the
stacks behind the memory ports, the pins that others drive, and the commands that wait. A commit in progress is cut
short (log 25). -/
def resetState (s : State) : State :=
  let t := talCut s.tal
  { s with
    addr := {},
    tal := { recs0 := t.recs0, recs1 := t.recs1, recs2 := t.recs2, recs3 := t.recs3 },
    b := { mem := s.b.mem, blk := { porst := true, dxEn := s.b.blk.dxEn },
           pwr := { ceilIn := s.b.pwr.ceilIn, ceilValid := s.b.pwr.ceilValid } } }

/-- The row PORST_N_RESET. -/
def execPorstNReset (s : State) : Host.Outcome State Fault Refusal := .next (resetState s)

/-- The row PORST_N_RELEASE: the block leaves reset (R437). A start needs a rising edge of DX_EN after it (R436). -/
def execPorstNRelease (s : State) : Host.Outcome State Fault Refusal :=
  .next (if s.b.blk.porst then { s with b := { s.b with blk := { s.b.blk with porst := false } } } else s)

/-- The row LOSS_OF_POWER: a commit cut short leaves a record whose CRC fails (R383), and the block is without state
until it is powered and reset again; DX_EN is low without rails. -/
def execLossOfPower (s : State) : Host.Outcome State Fault Refusal :=
  let t := resetState s
  .next { t with b := { t.b with blk := { t.b.blk with dxEn := false } } }

/-! ### Bight chain (R361 to R364) -/

/-- The parity bit that makes the number of ones even. -/
def withParity (t : Nat) : BitVec 24 :=
  let body := t % 2 ^ 23
  BitVec.ofNat 24 (body + 2 ^ 23 * (popCount body % 2))

/-- A token that gives a position: good parity, ERR 0, COUNT at most 511 (R363). -/
def tokenGood (t : Nat) : Bool := popCount t % 2 == 0 && !bit t 18 && bits t 9 0 ≤ 511

/-- RACK × 512 + ⌊P/32⌋ × 32 + (⌊P/4⌋ mod 8) × 4 + (P mod 4) (R363). -/
def positionAddr (rack p : Nat) : Nat := rack * 512 + p / 32 * 32 + p / 4 % 8 * 4 + p % 4

/-- A token on BCI: the first after reset gives the address or sets BAD; a further one passes on and sets REPEAT (R363,
R364). Every token is passed on, so one on BCO says that a first one has come. -/
def bightOp (token : BitVec 24) (a : FabAddr) : FabAddr :=
  let t := token.toNat
  if a.bco.isSome then { a with repeat_ := true, bco := some token }
  else if tokenGood t then
    { a with addr := BitVec.ofNat 17 (positionAddr (bits t 17 10) (bits t 9 0)), locked := true,
             bco := some (withParity (fld 9 0 (bits t 9 0 + 1) + fld 17 10 (bits t 17 10))) }
  else { a with bad := true, bco := some (withParity (t ||| 2 ^ 18)) }

/-! ### Link training (R438) -/

/-- LINK_TRAINED: the port comes UP, and the two ends count from 0. -/
def linkTrainedOp (own n : Nat) (b : Body) : Body :=
  if portEnabled b n && !(b.port n).up && !(b.port n).down then
    retryUnrouted own (pump n (settleStaging (b.modPort n (fun p => { alignPort p with up := true, trained := true }))))
  else b

end Sys2Proof.Machine
end

