-- ==== Sys2Proof/Machine/Coils.lean ====
section
/-! DEFINITION. Coil requests of units (spec/11 R267 to R272), and packets before their consumers (spec/10 R226). -/

namespace Sys2Proof.Machine

/-! ### Requests and frees -/

/-- The request of a unit for a context and the command that it serves (R267, R295). -/
def coilReqOf (b : Body) (c req size : Nat) (oid : Option Nat := none) : CoilReq :=
  { size := size, req := req, ctx := some c, oid := oid, part := b.partOf c, cls := (b.ctx c).cls }

/-- A free by the owner of a buffer; a refused one is the hard fault COIL_DOUBLE_FREE of its context (R269). -/
def freeBuf (own : Nat) (buf : CoilBuf) (b : Body) : Body :=
  let (b, bad) := coilFree buf b
  match buf.ctx with
  | some c => if bad then hardFault own c none 0 Code.coilDoubleFree 18 0 0 [] b else b
  | none => b

/-- A request that can never be granted is the hard fault COIL_QUOTA on its context, met by the command that it serves (R270,
R281). -/
def quotaFault (own : Nat) (r : CoilReq) (b : Body) : Body :=
  let seq := ((r.oid.bind b.openOf).map (fun o => o.cmd.seq)).getD 0
  hardFault own (r.ctx.getD 0) r.oid seq Code.coilQuota 18 0 0 [] (quotaFaultMark r b)

/-- A unit asks for a buffer: granted, waiting, or COIL_QUOTA. -/
def askCoil (own : Nat) (r : CoilReq) (b : Body) : Option CoilBuf × Body :=
  match coilAsk b r with
  | .grant buf => (some buf, coilTake buf b)
  | .wait _ => (none, chooseVictim (coilWait r b))
  | .quotaFault => (none, quotaFault own r b)

/-- A unit waits for a buffer, its request standing once, or meets COIL_QUOTA; a request that can be granted is made again
by the unit. -/
def holdForCoil (own : Nat) (r : CoilReq) (b : Body) : Body :=
  match coilAsk b r with
  | .grant _ => b
  | .wait _ => if b.coil.wait.any (fun x => sameReq x r) then b else chooseVictim (coilWait r b)
  | .quotaFault => quotaFault own r b

/-! ### Packets before their consumers -/

def pktHead (p : Packet) : Hank := p.hanks.headD 0
def pktPayload (p : Packet) : List Hank := p.hanks.drop 1

/-- Fields of a collective or MUSTER header (Table 10.8, R336). -/
def pktSeq (p : Packet) : Nat := hW (pktHead p) 0
def pktGroup (p : Packet) : Nat := bits (hW (pktHead p) 1) 3 0
def pktKind (p : Packet) : Nat := bits (hW (pktHead p) 1) 6 4
def pktDigest (p : Packet) : Nat := hW (pktHead p) 3
def pktTag (p : Packet) : Nat := hW (pktHead p) 2

/-- A packet stands first in its channel's input buffer (R226). -/
def atFront (b : Body) (p : Packet) : Bool := b.fab.rx.find? (fun q => q.vc == p.vc && q.port == p.port) == some p

/-- The oldest packet for this chip that satisfies a test and stands first in its buffer. -/
def frontPacket (f : Packet → Bool) (b : Body) : Option Packet := b.fab.rx.find? (fun p => f p && atFront b p)

/-- Such a packet goes to its consumer; nothing moves while the block is frozen (R408). -/
def withPacket (f : Packet → Bool) (use : Packet → Body → Body) (b : Body) : Body :=
  if frozen b then b
  else match frontPacket f b with
    | none => b
    | some p => use p (consumePacket p b)

end Sys2Proof.Machine
end

