-- ==== Sys2Proof/Machine/Thimble.lean ====
section
/-! DEFINITION. The thimble: admission, contributions, results, RACC output, tiles, and the replies of COLLECT (spec/10 R239
to R250). -/

namespace Sys2Proof.Machine

/-! ### The contribution of a piece (R235, R241, R242) -/

/-- The elements of a contribution: tensors of OP 0 and 2 as FP32 under the tag rules, I32 words as they are. -/
def contribEls (op : Nat) (hs : List Hank) : List Nat :=
  if op == 1 then hs.flatMap (fun h => (List.range 4).map (hW h)) else hs.flatMap (fun h => groupF32 .fp32 [h])

/-- A contribution of `n` hanks at hank offset `off`: elements from X on are +0, or 0. -/
def contribHanks (op n off x : Nat) (hs : List Hank) : List Hank :=
  let els := (contribEls op hs).take (x - 4 * off)
  ((i32Hanks els) ++ List.replicate n (i32Hank [])).take n

/-- Hanks of a piece that source 0 reads: up to the extent X. -/
def readLen (w : CollectWork) (p : Piece) : Nat := min p.hanks (cdiv (w.extent - 4 * p.off) 4)

/-- Lines of a run of hanks that a count of hanks from its start covers. -/
def linesCovered (base n : Nat) : Nat := if n == 0 then 0 else (base + n - 1) / 15 - base / 15 + 1

/-- Read what is left of a piece, line by line (Table 11.7); fuel bounds the lines. -/
def readPiece (w : CollectWork) (oid pos : Nat) : Nat → Io Unit
  | 0 => pure ()
  | n + 1 => do
    let b ← Io.get
    match b.piece oid pos with
    | none => pure ()
    | some p =>
      let len := readLen w p
      if p.lines.length ≥ len then
        Io.upd (fun b => b.modPiece oid pos (fun p => { p with
          own := .data (contribHanks p.op p.hanks p.off w.extent p.lines), lines := [], stopped := false }))
      else do
        let v := w.src + p.off + p.lines.length
        let k := min (len - p.lines.length) (15 - v % 15)
        let hs ← readRun p.ctx v k
        Io.upd (fun b => b.modPiece oid pos (fun p => { p with lines := p.lines ++ hs }))
        readPiece w oid pos n

/-- A stream of a piece: a miss leaves the piece stopped until RESUME; one that only waits for its memory port goes on with the next
row. -/
def pieceRun (own : Nat) (p : Piece) (o : Open) (unit : Nat) (done : Body → Nat) (m : Io Unit) (b : Body) : Body :=
  let r := streamRun own p.ctx 3 (some o.oid) o.cmd.seq unit done m (b.modPiece o.oid p.pos (fun p => { p with stopped := true }))
  if r.1 == 0 then r.2 else r.2.modPiece o.oid p.pos (fun p => { p with stopped := false })

/-- The source 0 read of an admitted piece (R241). -/
def driveRead (own oid pos : Nat) (b : Body) : Body :=
  match b.piece oid pos, b.openOf oid, collectOf b oid with
  | some p, some o, some w =>
    if !p.admitted || p.orphan || p.own != .none || w.source != 0 then b
    else
      let done := fun (b : Body) => ((b.piece oid pos).map (fun p => linesCovered (w.src + p.off) p.lines.length)).getD 0
      progressPiece own oid pos (pieceRun own p o 0 done (readPiece w oid pos (p.hanks + 1)) b)
  | _, _, _ => b

/-! ### Results (R239, R248, R249) -/

/-- Write what is left of a result, line by line. -/
def writePiece (oid pos : Nat) : Nat → Io Unit
  | 0 => pure ()
  | n + 1 => do
    let b ← Io.get
    match b.piece oid pos with
    | none => pure ()
    | some p =>
      if p.toWrite.isEmpty then Io.upd (fun b => endPiece p false b)
      else do
        let items := frontLine p.toWrite
        writeHanks p.ctx (some oid) items
        Io.upd (fun b => b.modPiece oid pos (fun p => { p with toWrite := p.toWrite.drop items.length }))
        writePiece oid pos n

/-- Issue one RACC line: its items count toward the digest, its effect on the line follows R256, and the request stays
outstanding until its response. Without an identifier or a ready port it is not issued (R285, R292). -/
def raccLine (p : Piece) (items : List (Nat × Hank)) : Io Bool := do
  let v := (items.headD (0, 0)).1
  let line ← translate p.ctx v .acc
  let b ← Io.get
  match freeId b (b.partOf p.ctx) line with
  | none => pure false
  | some i => do
    let slots := items.map (fun q => (q.1 % 15, q.2))
    Io.upd (holdRq (!portReady b line) line ∘ presentRq 3 line i (slotMask slots) (sealedLine (mergeSlots (List.replicate 15 0) slots)))
    if !portReady b line then pure false else do
    Io.upd (count Cnt.linesWr 1 (some p.ctx))
    Io.upd (addItems (some p.oid) items)
    Io.upd (fun b => { b with
      mem := raccMem b.mem line slots,
      xlt := { b.xlt with reqs := b.xlt.reqs ++
        [{ ctx := p.ctx, vpn := v / 15 / 8192, line := line, id := i, oid := p.oid, pos := p.pos }] } })
    pure true

/-- Requests of a piece are outstanding. -/
def pieceReqs (b : Body) (oid pos : Nat) : Bool := b.xlt.reqs.any (fun r => r.oid == oid && r.pos == pos)

/-- Issue what is left of a result by RACC; the piece ends at the last response. -/
def raccPiece (oid pos : Nat) : Nat → Io Unit
  | 0 => pure ()
  | n + 1 => do
    let b ← Io.get
    match b.piece oid pos with
    | none => pure ()
    | some p =>
      if p.toWrite.isEmpty then (if pieceReqs b oid pos then pure () else Io.upd (fun b => endPiece p false b))
      else do
        let items := frontLine p.toWrite
        let ok ← raccLine p items
        if ok then do
          Io.upd (fun b => b.modPiece oid pos (fun p => { p with toWrite := p.toWrite.drop items.length }))
          raccPiece oid pos n
        else pure ()

/-- In plumb mode a COLLECT issues its RACCs in ascending piece order, after every RACC of earlier COLLECTs of its context
(R248). -/
def raccMay (b : Body) (w : CollectWork) (p : Piece) : Bool :=
  !w.plumb ||
    (b.thm.pieces.all (fun x => !(x.oid == p.oid && x.pos < p.pos && (x.result.isNone || !x.toWrite.isEmpty)))
      && b.thm.pieces.all (fun x => !(x.ctx == p.ctx && x.oid < p.oid
          && ((collectOf b x.oid).map CollectWork.racc == some true))))

/-- Write or add the settled result of a piece. A stop by XLT_MISS leaves it for RESUME. -/
def driveResult (own oid pos : Nat) (b : Body) : Body :=
  match b.piece oid pos, b.openOf oid, collectOf b oid with
  | some p, some o, some w =>
    if frozen b || p.result.isNone || p.stopped || (w.racc && !raccMay b w p) then b
    else
      let total := (p.result.map (fun v => (resultHanks p v).length)).getD 0
      let done := fun (b : Body) =>
        ((b.piece oid pos).map (fun p => linesCovered (w.dst + p.off) (total - p.toWrite.length))).getD 0
      let m := if w.racc then raccPiece oid pos (p.hanks + 1) else writePiece oid pos (p.hanks + 1)
      let go : Io Unit := do
        m
        Io.upd (fun b => b.modPiece oid pos (fun p => { p with stopped := false }))
      pieceRun own p o 8 done go b
  | _, _, _ => b

/-- Every settled result is written as far as it can be; a closing group whose last piece ended is closed. -/
def driveResults (own : Nat) (b : Body) : Body :=
  settleGroups (b.thm.pieces.foldl (fun b p => driveResult own p.oid p.pos b) b)

/-- Reads of admitted pieces that waited for their memory ports go on. -/
def retryReads (own : Nat) (b : Body) : Body :=
  if frozen b then b
  else b.thm.pieces.foldl (fun b p => match b.piece p.oid p.pos with
    | some p => if p.stopped then b else driveRead own p.oid p.pos b
    | none => b) b

/-- The streams of a context's pieces go on after RESUME (Table 11.7). -/
def resumePieces (own c : Nat) (b : Body) : Body :=
  let mine := b.thm.pieces.filter (fun p => p.ctx == c && !p.orphan)
  let b := { b with thm := { b.thm with
    pieces := b.thm.pieces.map (fun p => if p.ctx == c then { p with stopped := false } else p) } }
  driveResults own (mine.foldl (fun b p => driveRead own p.oid p.pos b) b)

/-! ### Admission (R240, R241, R249) -/

/-- Slots that a group holds. -/
def slotsHeld (b : Body) (n : Nat) : Nat := (b.thm.pieces.filter (fun p => p.group == n && p.admitted)).length

/-- The next piece of a group in sequence order. -/
def nextPiece (b : Body) (n : Nat) : Option Piece := b.thm.pieces.find? (fun p => p.group == n && !p.admitted)

/-- A tile that was taken before its piece was admitted goes into the slot and frees its buffer. -/
def takeTile (own : Nat) (p : Piece) (b : Body) : Body :=
  match b.thm.tiles.find? (fun t => t.oid == some p.oid && t.key == p.key), collectOf b p.oid with
  | some t, some w =>
    let b := { b with thm := { b.thm with tiles := b.thm.tiles.erase t } }
    let v : Input := if t.hanks == 0 then .null else
      .data (contribHanks p.op p.hanks (if w.source == 2 then 0 else p.off)
        (if w.source == 2 then 4 * p.hanks else w.extent) t.payload)
    let b := b.modPiece p.oid p.pos (fun p => { p with own := v })
    match t.buf with
    | some buf => freeBuf own buf b
    | none => b
  | _, _ => b

/-- The command of the next piece lets it be admitted: its context is in RUN and the command may run. -/
def admitOpen (b : Body) (p : Piece) : Bool :=
  p.orphan || (match b.openOf p.oid with
    | some o => (b.ctx o.ctx).st == .run && (!o.held || mayRun b o)
    | none => false)

/-- A piece takes a slot: ADMIT goes to the partners, the contribution is taken, and the node goes on. -/
def admitPiece (own : Nat) (p : Piece) (b : Body) : Body :=
  let b := b.modOpen p.oid (fun o => { o with held := false })
  let g := b.group p.group
  let b := b.modPiece p.oid p.pos (fun p => { p with
    admitted := true, own := if p.orphan || p.null then .null else p.own,
    decided := if p.doomed then some .void else p.decided })
  let b := g.kids.foldl (fun b k => sendColl own k 2 4 p [] b) b
  let b := if p.doomed then releaseRoot own p.oid b.thm.pieces.length b else b
  let b := takeTile own p b
  driveResults own (progressPiece own p.oid p.pos (driveRead own p.oid p.pos b))

/-- PIECE_ADMIT (R240). -/
def pieceAdmitOp (own n : Nat) (b : Body) : Body :=
  if frozen b then b
  else match nextPiece b n with
    | none => b
    | some p =>
      if slotsHeld b n < (b.group n).quota.toNat && admitOpen b p then admitPiece own p b else b

/-- The row PIECE_ADMIT. -/
def execPieceAdmit (group : BitVec 4) (s : State) : Host.Outcome State Fault Refusal :=
  s.onBody (fun own b => shutdownEnd (pieceAdmitOp own group.toNat b))

/-! ### Packets (R239, R243 to R245, R465)

A packet of a reserved KIND, or of a KIND that belongs on the other of VC1 and VC2, is taken by none of these rows and holds its
channel (DESIGN CHOICE, log 107). -/

/-- The piece of a group with a sequence number. -/
def pieceBySeq (b : Body) (n seq : Nat) : Option Piece := b.thm.pieces.find? (fun p => p.group == n && p.seq == seq)

/-- A sequence number that the chip has not taken yet. -/
def seqAhead (g : Group) (seq : Nat) : Bool := (seq + 2 ^ 32 - g.seq.toNat) % 2 ^ 32 < 2 ^ 31

/-- An input for a piece settled as VOID is answered with VOID (R244). -/
def answerVoid (own : Nat) (q : Packet) (b : Body) : Body :=
  if (b.group (pktGroup q)).voids.contains (pktSeq q) then
    let h := collHeader (pktSeq q) (pktGroup q) 3 (bits (hW (pktHead q) 1) 8 7) 0 (pktDigest q)
    sendPacket own { dst := q.src, vc := 2, origin := true, hanks := [h] } b
  else b

/-- A packet that names no piece, or another digest or length than the piece (R243): the input counts as VOID, and the
context meets THM_MISMATCH. -/
def mismatch (own : Nat) (q : Packet) (p : Piece) (b : Body) : Body :=
  let b := b.modPiece p.oid p.pos (fun p => { p with inputs := p.inputs ++ [(q.src, .void)] })
  let b := progressPiece own p.oid p.pos b
  if p.orphan then b
  else
    let seq := ((b.openOf p.oid).map (fun o => o.cmd.seq)).getD 0
    hardFault own p.ctx (some p.oid) seq Code.thmMismatch 8 0 0 [] b

/-- A group that takes packets. -/
def groupLive (g : Group) : Bool := g.opened || g.closing

/-- The commands of a group that have not completed. -/
def groupOpens (b : Body) (n : Nat) : List Open :=
  b.opens.filter (fun o => o.reply.isNone && (match o.work with
    | .collect w => w.group == n
    | .muster _ => b.thm.musters.any (fun m => m.oid == o.oid && m.group == n)
    | _ => false))

/-- The command whose context a packet faults that names nothing this chip has: the MUSTER or COLLECT that took the packet's
number, else the oldest of the group (DEDUCED, log 95). -/
def blamed (b : Body) (n seq : Nat) : Option Open :=
  let oid := ((b.thm.musters.find? (fun m => m.group == n && m.seq == seq)).map MusterWork.oid).or
    ((b.thm.pieces.find? (fun p => p.group == n && p.seq == seq)).map Piece.oid)
  match oid with
  | some oid => b.openOf oid
  | none => (groupOpens b n).head?

/-- The hard fault of a mismatch on the context of a command. -/
def blame (own code : Nat) (o : Option Open) (b : Body) : Body :=
  match o with
  | some o => hardFault own o.ctx (some o.oid) o.cmd.seq code 8 0 0 [] b
  | none => b

/-- A packet from below whose SEQ names no piece of this chip (R243): it is discarded, VOID goes upward, or at a root down to
the sender, and a context meets THM_MISMATCH. For a piece settled as VOID the sender is answered instead (R244). -/
def strayColl (own : Nat) (q : Packet) (b : Body) : Body :=
  let n := pktGroup q
  let g := b.group n
  if g.voids.contains (pktSeq q) then answerVoid own q b
  else
    let h := collHeader (pktSeq q) n 3 (bits (hW (pktHead q) 1) 8 7) 0 (pktDigest q)
    let pkt : Packet := { dst := g.parent.getD q.src, vc := if g.parent.isSome then 1 else 2, origin := true, hanks := [h] }
    blame own Code.thmMismatch (blamed b n (pktSeq q)) (sendPacket own pkt b)

/-- A PARTIAL or NULL from a partner below (R239, R243); one from any other chip is discarded (DESIGN CHOICE, log 114). -/
def partialOp (own : Nat) (q : Packet) (b : Body) : Body :=
  let g := b.group (pktGroup q)
  if !groupLive g || !g.kids.contains q.src then b
  else match pieceBySeq b (pktGroup q) (pktSeq q) with
    | none => strayColl own q b
    | some p =>
      let payload := pktPayload q
      if pktDigest q != p.digest || (pktKind q == 0 && payload.length != p.hanks) then mismatch own q p b
      else
        let v : Input := if pktKind q == 0 then .data payload else .null
        progressPiece own p.oid p.pos (b.modPiece p.oid p.pos (fun p => { p with inputs := p.inputs ++ [(q.src, v)] }))

/-- The row COLLECT_PARTIAL_RECEIVE. -/
def execCollectPartialReceive (s : State) : Host.Outcome State Fault Refusal :=
  s.onBody (fun own b => shutdownEnd (driveResults own
    (withPacket (fun p => p.vc == 1 && pktKind p ≤ 1) (partialOp own) b)))

/-- An ADMIT from the owner, kept in the early store until the chip takes its number (R465); one from any other chip is discarded
(DESIGN CHOICE, log 114). -/
def admitOp (own : Nat) (q : Packet) (b : Body) : Body :=
  let n := pktGroup q
  let g := b.group n
  if !groupLive g || g.parent != some q.src then b
  else match pieceBySeq b n (pktSeq q) with
    | some p => progressPiece own p.oid p.pos (b.modPiece p.oid p.pos (fun p => { p with admitRecv := true }))
    | none => if g.opened && seqAhead g (pktSeq q) then b.modGroup n (fun g => { g with early := g.early ++ [q] }) else b

/-- The row ADMIT_RECEIVE. -/
def execAdmitReceive (s : State) : Host.Outcome State Fault Refusal :=
  s.onBody (fun own b => shutdownEnd (driveResults own
    (withPacket (fun p => p.vc == 2 && pktKind p == 4) (admitOp own) b)))

/-- A RESULT from the owner (R239); one from any other chip is discarded (DESIGN CHOICE, log 114). -/
def resultOp (own : Nat) (q : Packet) (b : Body) : Body :=
  let g := b.group (pktGroup q)
  if !groupLive g || g.parent != some q.src then b
  else match pieceBySeq b (pktGroup q) (pktSeq q) with
    | some p => if p.result.isSome then b else settlePiece own p (.data (pktPayload q)) b
    | none => b

/-- The row RESULT_RECEIVE. -/
def execResultReceive (s : State) : Host.Outcome State Fault Refusal :=
  s.onBody (fun own b => shutdownEnd (driveResults own
    (withPacket (fun p => p.vc == 2 && pktKind p == 2) (resultOp own) b)))

/-- A VOID: from below it becomes the input of its partner, from above it settles the piece (R243, R244). -/
def voidOp (own : Nat) (q : Packet) (b : Body) : Body :=
  let g := b.group (pktGroup q)
  if !groupLive g then b
  else match pieceBySeq b (pktGroup q) (pktSeq q) with
    | none => if g.kids.contains q.src && q.vc == 1 then strayColl own q b else b
    | some p =>
      if q.vc == 1 && g.kids.contains q.src then
        progressPiece own p.oid p.pos (b.modPiece p.oid p.pos (fun p => { p with inputs := p.inputs ++ [(q.src, .void)] }))
      else if q.vc == 2 && g.parent == some q.src && p.result.isNone then settlePiece own p .void b
      else b

/-- The row COLLECT_VOID_RECEIVE. -/
def execCollectVoidReceive (s : State) : Host.Outcome State Fault Refusal :=
  s.onBody (fun own b => shutdownEnd (driveResults own
    (withPacket (fun p => (p.vc == 1 || p.vc == 2) && pktKind p == 3) (voidOp own) b)))

/-! ### Deadline and completion (R245, R250) -/

/-- N_STEP_VOID (Table 14.7): source, group, XG, SEQ or GENERATION, the missing member. -/
def stepVoid (c seq source group xg num : Nat) (missing : Option Nat) (unit : Nat) (b : Body) : Body :=
  notice Ntc.stepVoid (some c) seq Code.stepVoid 1
    [fld 1 0 source + fld 7 4 group + fld 15 8 xg, num,
     fld 16 0 (missing.getD 0) + fld 17 17 (b2n missing.isSome), 0] unit b

/-- A piece that waited for a partner when its deadline passed, with the first such partner. -/
def missingKid (b : Body) (p : Piece) : Option Nat :=
  if p.admitted && !p.sentUp && p.decided.isNone && p.result.isNone then
    (b.group p.group).kids.find? (fun k => (inputOf p k).isNone)
  else none

/-- COLLECT_DEADLINE (R245): members record the partner that they wait for; the root voids what is not complete. -/
def collectDeadlineOp (own n : Nat) (b : Body) : Body :=
  let due := fun (p : Piece) => p.group == n && p.deadline != 0 && p.deadline ≤ b.now && p.result.isNone
  let ps := b.thm.pieces.filter due
  let b := ps.foldl (fun b p => match missingKid b p with
    | some k => b.modCollect p.oid (fun w => if w.missing.isNone then { w with missing := some k } else w)
    | none => b) b
  if (b.group n).parent.isSome then b
  else
    let void := fun (p : Piece) =>
      if due p && p.decided.isNone then { p with doomed := true, decided := if p.admitted then some .void else none } else p
    let b := { b with thm := { b.thm with pieces := b.thm.pieces.map void } }
    (ps.map Piece.oid).eraseDups.foldl (fun b oid => releaseRoot own oid b.thm.pieces.length b) b

/-- The row COLLECT_DEADLINE. -/
def execCollectDeadline (group : BitVec 4) (s : State) : Host.Outcome State Fault Refusal :=
  s.onBody (fun own b => if frozen b then b else
    shutdownEnd (driveResults own (collectDeadlineOp own group.toNat b)))

/-- The reply of a COLLECT that is over (R250). -/
def finishCollect (own : Nat) (o : Open) (w : CollectWork) (b : Body) : Body :=
  match w.firstVoid with
  | some _ =>
    let b := stepVoid o.ctx o.cmd.seq 0 w.group 0 w.voidSeq w.missing 8 b
    complete own o.oid Code.stepVoid (b2n w.cellBad) 2 b
  | none => complete own o.oid 0 (b2n w.cellBad) 0 b

/-- COLLECT_DONE: the oldest COLLECT of the context all of whose pieces are written or voided. -/
def collectDoneOp (own c : Nat) (b : Body) : Body :=
  let ended := fun (o : Open) => o.ctx == c && o.reply.isNone && (match o.work with
    | .collect w => w.ended == w.names.length
    | _ => false)
  match b.opens.find? ended with
  | some o => (match o.work with
    | .collect w => finishCollect own o w b
    | _ => b)
  | none => b

/-- The row COLLECT_DONE. -/
def execCollectDone (ctx : BitVec 6) (s : State) : Host.Outcome State Fault Refusal :=
  s.onBody (fun own b => if frozen b then b else collectDoneOp own ctx.toNat b)

/-! ### Tiles (R246, R247, R272) -/

/-- The tile that a header hank announces. -/
def tileOf (h : Hank) : Tile :=
  { ctx := bits (hW h 0) 5 0, group := bits (hW h 0) 9 6, key := hW h 1, hanks := bits (hW h 2) 13 0, tag := hW h 3 }

/-- A tile leaves the tile port's store and frees its buffer. -/
def dropTile (own : Nat) (t : Tile) (b : Body) : Body :=
  let b := { b with thm := { b.thm with tiles := b.thm.tiles.erase t } }
  match t.buf with
  | some buf => freeBuf own buf b
  | none => b

/-- The COLLECT that a tile is matched to: the oldest of its context, group and tag (R247). -/
def tileMatch (b : Body) (t : Tile) : Option (Open × CollectWork) :=
  (b.opens.find? (fun o => o.ctx == t.ctx && o.reply.isNone && (match o.work with
    | .collect w => (w.source == 1 || w.source == 2) && w.group == t.group && w.tag == t.tag && w.ended < w.names.length
    | _ => false))).bind (fun o => match o.work with
    | .collect w => some (o, w)
    | _ => none)

/-- A matched tile (R247): TILE_BAD, discarded for a null piece, summed into its slot, or kept until its piece is
admitted. -/
def placeTile (own : Nat) (t : Tile) (o : Open) (w : CollectWork) (b : Body) : Body :=
  match w.names.find? (fun n => n.1 == t.key) with
  | none => hardFault own t.ctx (some o.oid) o.cmd.seq Code.tileBad 8 0 0 [] (dropTile own t b)
  | some (_, len, null) =>
    if w.keys.contains t.key || (t.hanks != 0 && t.hanks != len) then
      hardFault own t.ctx (some o.oid) o.cmd.seq Code.tileBad 8 0 0 [] (dropTile own t b)
    else
      let b := b.modCollect o.oid (fun w => { w with keys := w.keys ++ [t.key] })
      if null then count Cnt.tpSpare 1 (some t.ctx) (dropTile own t b)
      else match b.thm.pieces.find? (fun p => p.oid == o.oid && p.key == t.key) with
        | none => dropTile own t b
        | some p =>
          let b := { b with thm := { b.thm with
            tiles := b.thm.tiles.map (fun x => if x == t then { x with oid := some o.oid } else x) } }
          if p.admitted then progressPiece own p.oid p.pos (takeTile own p b) else b

/-- A complete tile meets the COLLECTs accepted so far, or waits in its buffer. -/
def matchTile (own : Nat) (t : Tile) (b : Body) : Body :=
  match tileMatch b t with
  | some (o, w) => placeTile own t o w b
  | none => b

/-- Tiles that waited meet a COLLECT just accepted. -/
def matchTiles (own : Nat) (b : Body) : Body :=
  (b.thm.tiles.filter (fun t => t.oid.isNone)).foldl (fun b t => if b.thm.tiles.contains t then matchTile own t b else b) b

/-- The tile in progress is complete: its payload has as many hanks as its header says (R246). -/
def tileComplete (own : Nat) (hs : List Hank) (b : Body) : Body :=
  match b.thm.header with
  | none => b
  | some t =>
    if t.buf.isNone || hs.length != t.hanks then b
    else
      let t := { t with payload := hs }
      let b := { b with thm := { b.thm with header := none, tiles := b.thm.tiles ++ [t] } }
      driveResults own (matchTile own t b)

/-- TILE_HEADER_ARRIVE (R272): the request for a buffer of 1 + HANKS hanks, and TP_READY held while it waits. -/
def tileHeaderOp (own : Nat) (h : Hank) (b : Body) : Body :=
  if b.thm.tpHold then b
  else if frozen b then { b with thm := { b.thm with bridge := b.thm.bridge ++ [.header h] } }
  else if b.thm.header.isSome then b
  else
    let t := tileOf h
    match coilAsk b (coilReqOf b t.ctx 10 (1 + t.hanks)) with
    | .grant buf =>
      let b := coilTake buf b
      { b with thm := { b.thm with header := some { t with buf := some buf } } }
    | .wait _ =>
      let b := coilWait (coilReqOf b t.ctx 10 (1 + t.hanks)) b
      chooseVictim { b with thm := { b.thm with header := some t, tpHold := true } }
    | .quotaFault => quotaFault own (coilReqOf b t.ctx 10 (1 + t.hanks)) b

/-- The row TILE_HEADER_ARRIVE. -/
def execTileHeaderArrive (hank : Hank) (s : State) : Host.Outcome State Fault Refusal :=
  s.onBody (fun own b => tileHeaderOp own hank b)

/-- The hanks of a tile arrive. While TP_READY is 0 none do, and while the block is frozen they stay in TP's bridge (R272, R408). -/
def tileReceiveOp (own : Nat) (hs : List Hank) (b : Body) : Body :=
  if b.thm.tpHold then b
  else if frozen b then { b with thm := { b.thm with bridge := b.thm.bridge ++ [.payload hs] } }
  else shutdownEnd (tileComplete own hs b)

/-- The row TILE_RECEIVE. -/
def execTileReceive (hanks : List Hank) (s : State) : Host.Outcome State Fault Refusal :=
  s.onBody (fun own b => tileReceiveOp own hanks b)

end Sys2Proof.Machine
end

