-- ==== Sys2Proof/Machine/Groups.lean ====
section
/-! DEFINITION. Group control: opening, closing, ABORT (spec/10 R224, R231, Table 10.14), and the checks that COLLECT and
MUSTER share. -/

namespace Sys2Proof.Machine

/-! ### Opening (R231) -/

/-- Physical base of a group's member table. -/
def membBase (g : Group) : Nat := g.membLo.toNat + 2 ^ 32 * g.membHi.toNat

/-- The member addresses; none when the table reaches a line that does not exist. -/
def readMembers (g : Group) : Io (Option (List Nat)) := do
  let b ← Io.get
  let m := g.count.toNat
  let base := membBase g
  let n := cdiv m 4
  if m == 0 || m > 131072 || (base + n - 1) / 15 ≥ lineLimit b then pure none
  else do
    let hs ← readPhys base n
    pure (some ((List.range m).map (fun i => recW hs i % 2 ^ 17)))

/-- Quotas of the other groups that are open or closing. -/
def otherQuotas (b : Body) (n : Nat) : Nat :=
  ((List.range 16).map (fun i => if i != n && groupLive (b.group i) then (b.group i).quota.toNat else 0)).sum

def openBad (n : Nat) (b : Body) : Body := b.modGroup n (fun g => { g with openBad := true })

/-- A group opens with its place in the tree, its sequence counter 0 (R231, R238). -/
def openWith (own n : Nat) (ms : List Nat) (b : Body) : Body :=
  b.modGroup n (fun g => { g with
    opened := true, closing := false, seq := 0, voids := [], early := [],
    parent := treeParent ms own, kids := treeKids ms own })

/-- OPEN of a group with nothing outstanding. -/
def openGroup (own n : Nat) (b : Body) : Body :=
  let g := b.group n
  if g.quota == 0 || otherQuotas b n + g.quota.toNat > 48 then openBad n b
  else match Io.on (readMembers g) b with
    | (.ok (some ms), b) => if ascending ms && ms.contains own then openWith own n ms b else openBad n b
    | (_, b) => openBad n b

/-! ### ABORT (R224) -/

/-- A COLLECT of an aborted group: FIRST_VOID is its lowest piece not yet written or added. -/
def abortCollect (own : Nat) (o : Open) (b : Body) : Body :=
  match b.thm.pieces.find? (fun p => p.oid == o.oid) with
  | none => b
  | some p =>
    let b := b.modCollect o.oid (fun w => { w with
      firstVoid := some (min p.pos (w.firstVoid.getD p.pos)),
      voidSeq := if w.firstVoidOr < p.pos then w.voidSeq else p.seq })
    let b := { b with thm := { b.thm with pieces := b.thm.pieces.filter (fun p => p.oid != o.oid) } }
    let b := (b.thm.tiles.filter (fun t => t.oid == some o.oid)).foldl (fun b t => dropTile own t b) b
    match collectOf b o.oid with
    | some w => finishCollect own o w b
    | none => b

/-- The reply of a MUSTER that ends in a void: STEP_VOID after N_STEP_VOID (R339). Its stamp is the moment it ends
(DEDUCED, log 30). -/
def voidMuster (own : Nat) (m : MusterWork) (b : Body) : Body :=
  let b := stepVoid m.ctx (((b.openOf m.oid).map (fun o => o.cmd.seq)).getD 0) 1 m.group 0 m.seq m.missing 8 b
  let b := b.setWork m.oid (.muster b.now)
  startSaves m.ctx (complete own m.oid Code.stepVoid (4 * b2n m.unbound) 2 b)

/-- ABORT: every COLLECT and MUSTER of the group that has not completed ends, and the group closes. -/
def abortGroup (own n : Nat) (b : Body) : Body :=
  if !groupLive (b.group n) then b
  else
    let os := b.opens.filter (fun o => o.reply.isNone && (match o.work with
      | .collect w => w.group == n
      | _ => false))
    let ms := b.thm.musters.filter (fun m => m.group == n)
    let b := os.foldl (fun b o => abortCollect own o b) b
    let b := { b with thm := { b.thm with
      pieces := b.thm.pieces.filter (fun p => p.group != n), musters := b.thm.musters.filter (fun m => m.group != n) } }
    let b := ms.foldl (fun b m => if m.orphan then b else voidMuster own m b) b
    b.modGroup n (fun g => { g with opened := false, closing := false, early := [], voids := [] })

/-! ### The register (Table 10.14) -/

/-- A write of THM_GRPn_CTRL. ABORT of a closed group changes nothing (R224). Otherwise OPEN_BAD is cleared by 1, and QUOTA
and PARTITION are stored unless pieces or MUSTERs of the group are outstanding (DEDUCED, log 31). OPEN 1 opens the group, an
open one anew; it is refused while pieces or MUSTERs are outstanding, and an open group then stays open (R231, log 31). -/
def groupCtrlWrite (own n : Nat) (data : W32) (b : Body) : Body :=
  let d := data.toNat
  let busy := groupBusy b n
  let b' := b.modGroup n (fun g => { g with
    openBad := g.openBad && !bit d 1,
    quota := if busy then g.quota else BitVec.ofNat 6 (bits d 7 2),
    part := if busy then g.part else BitVec.ofNat 2 (bits d 9 8) })
  if bit d 11 then (if groupLive (b.group n) then abortGroup own n b' else b)
  else if bit d 0 then
    if busy then openBad n b' else openGroup own n (b'.modGroup n (fun g => { g with opened := false, closing := false }))
  else closeGroup n b'

/-- A write of a group's control register as a step. -/
def groupRow (n : Nat) (f : Nat → Body → Body) (s : State) : Host.Outcome State Fault Refusal :=
  s.onBody (fun own b => if held b (0x101000 + 0x20 * n) then b else shutdownEnd (f own b))

/-- The row THM_GROUP_OPEN: a write with OPEN 1. -/
def execThmGroupOpen (group : BitVec 4) (data : W32) (s : State) : Host.Outcome State Fault Refusal :=
  groupRow group.toNat (fun own b => groupCtrlWrite own group.toNat (data ||| 1) b) s

/-- The row THM_GROUP_CLOSE: a write with OPEN 0. -/
def execThmGroupClose (group : BitVec 4) (data : W32) (s : State) : Host.Outcome State Fault Refusal :=
  groupRow group.toNat (fun own b => groupCtrlWrite own group.toNat (data &&& 0xFFFFFFFE) b) s

/-- The row ABORT: a write with ABORT 1. -/
def execAbort (group : BitVec 4) (data : W32) (s : State) : Host.Outcome State Fault Refusal :=
  groupRow group.toNat (fun own b => groupCtrlWrite own group.toNat (data ||| 0x800) b) s

/-! ### Shared checks (R231, Table 10.6) -/

/-- THM_GROUP: the group is closed or outside the context's partition. -/
def groupDenied (b : Body) (c n : Nat) : Bool := !(b.group n).opened || (b.group n).part.toNat != b.partOf c

/-- The chip takes a sequence number of a group: the counter advances (R234, R334). -/
def takeSeqs (n k : Nat) (b : Body) : Body := b.modGroup n (fun g => { g with seq := g.seq + BitVec.ofNat 32 k })

/-- Headers kept for numbers that the chip has taken by now act (R465). -/
def replayEarly (own n : Nat) (f : Nat → Packet → Body → Body) (b : Body) : Body :=
  let g := b.group n
  let ready := g.early.filter (fun q => !seqAhead g (pktSeq q))
  let b := b.modGroup n (fun g => { g with early := g.early.filter (fun q => seqAhead g (pktSeq q)) })
  ready.foldl (fun b q => f own q b) b

end Sys2Proof.Machine
end

