-- ==== Sys2Proof/Machine/Muster.lean ====
section
/-! DEFINITION. MUSTER (spec/13 R334 to R340) and the headers kept for numbers not yet taken (spec/10 R465). -/

namespace Sys2Proof.Machine

/-! ### Completion (R337, R339) -/

/-- FLAGS of a MUSTER's reply: LATE in [17], SKEW_UNBOUND in [18] of w3. -/
def musterFlags (m : MusterWork) : Nat := 2 * b2n m.late + 4 * b2n m.unbound

/-- The MUSTER releases: it replies with the release stamp. -/
def releaseMuster (own : Nat) (m : MusterWork) (b : Body) : Body :=
  let b := endMuster m false b
  if m.orphan then b
  else startSaves m.ctx (complete own m.oid 0 (musterFlags m) 0 (b.setWork m.oid (.muster b.now)))

/-- The MUSTER ends in a void: VOID goes down, the reply carries STEP_VOID. -/
def endInVoid (own : Nat) (m : MusterWork) (b : Body) : Body :=
  let b := endMuster m true (musterDown own 2 m 0 b)
  if m.orphan then b else voidMuster own m b

/-- RELEASE with tick T is known: it goes down, and the member waits for T; one whose STC is at or past T is LATE, one that
lost its lock does not wait (R337, R338). -/
def setRelease (own : Nat) (m : MusterWork) (t : Nat) (b : Body) : Body :=
  let b := musterDown own 1 m t b
  if m.orphan then endMuster m false b
  else
    let m := { m with release := some t, late := t ≤ b.now }
    if m.late || m.unbound then releaseMuster own m b else b.modMuster m.oid (fun _ => m)

/-! ### The node (R336, R337, R339) -/

/-- A node goes on once it and every member below it have arrived, or a VOID came from below. -/
def progressMuster (own oid : Nat) (b : Body) : Body :=
  match b.muster oid with
  | none => b
  | some m =>
    let g := b.group m.group
    let all := m.arrived && g.kids.all (fun k => m.below.contains k)
    if m.sentUp || m.release.isSome || !(all || !m.voidBelow.isEmpty) then b
    else match g.parent with
      | some up =>
        let kind := if m.voidBelow.isEmpty then 0 else 2
        b |> sendMuster own up kind m 0 |> (fun b => b.modMuster oid (fun m => { m with sentUp := true }))
      | none =>
        if !m.voidBelow.isEmpty || (m.deadline != 0 && m.deadline ≤ b.now) then endInVoid own m b
        else
          let m := { m with stampA := some b.now, sentUp := true }
          setRelease own m ((b.now + b.fab.lead.toNat) % 2 ^ 64) (b.modMuster oid (fun _ => m))

/-! ### Acceptance and arrival (R334, R335) -/

/-- The group of a MUSTER record (Table 14.4). -/
def musterGroup (r : CmdRec) : Nat := bits r.w3 15 12

/-- The refusals of R335. -/
def musterCheck (b : Body) (r : CmdRec) : Check := do
  failIf (groupDenied b r.ctx (musterGroup r)) Code.thmGroup
  failIf (!b.stc.locked) Code.stcUnlocked

/-- Every lower sequence number of the group is settled on the chip (R334). -/
def lowerSettled (b : Body) (m : MusterWork) : Bool :=
  !b.thm.pieces.any (fun p => p.group == m.group && p.oid < m.oid)
    && !b.thm.musters.any (fun x => x.group == m.group && x.oid < m.oid)

/-- Every earlier command of the context has replied. -/
def earlierReplied (b : Body) (m : MusterWork) : Bool :=
  !b.opens.any (fun o => o.ctx == m.ctx && !o.cmd.isGlobal && o.oid < m.oid)
    && !b.cp.waitOut.any (fun r => r.acc && r.ctx == some m.ctx)

/-- MUSTER_ARRIVE_LOCAL: the oldest MUSTER of the group that may arrive, arrives. -/
def musterArriveLocal (own n : Nat) (b : Body) : Body :=
  let may := fun (m : MusterWork) => m.group == n && !m.arrived && !m.orphan && (b.ctx m.ctx).st == .run
    && earlierReplied b m && lowerSettled b m
  match b.thm.musters.find? may with
  | none => b
  | some m => progressMuster own m.oid (b.modMuster m.oid (fun m => { m with arrived := true }))

/-- The row MUSTER_ARRIVE_LOCAL. -/
def execMusterArriveLocal (group : BitVec 4) (s : State) : Host.Outcome State Fault Refusal :=
  s.onBody (fun own b => if frozen b then b else settleGroups (musterArriveLocal own group.toNat b))

/-! ### Packets (R336, R337, R339, R465) -/

/-- A partner whose ARRIVE or VOID comes after the void receives VOID at once (R339). -/
def answerMusterVoid (own : Nat) (q : Packet) (b : Body) : Body :=
  if (b.group (pktGroup q)).voids.contains (pktSeq q) then
    let hs := musterHanks (pktSeq q) (pktGroup q) 2 (pktTag q) 0
    sendPacket own { dst := q.src, vc := 0, origin := true, hanks := hs } b
  else b

/-- An ARRIVE whose SEQ names no MUSTER of this chip (R336): it is discarded, VOID goes upward, or at a root down to the
sender, and a context meets MUSTER_MISMATCH. For a number settled as void the sender is answered instead (R339). -/
def strayArrive (own : Nat) (q : Packet) (b : Body) : Body :=
  let n := pktGroup q
  let g := b.group n
  if g.voids.contains (pktSeq q) then answerMusterVoid own q b
  else
    let pkt : Packet :=
      { dst := g.parent.getD q.src, vc := 0, origin := true, hanks := musterHanks (pktSeq q) n 2 (pktTag q) 0 }
    blame own Code.musterMismatch (blamed b n (pktSeq q)) (sendPacket own pkt b)

/-- A header for a number not yet taken is kept while the group is open. -/
def keepEarly (q : Packet) (b : Body) : Body :=
  let n := pktGroup q
  let g := b.group n
  if g.opened && seqAhead g (pktSeq q) then b.modGroup n (fun g => { g with early := g.early ++ [q] }) else b

/-- The MUSTER of a group with a sequence number. -/
def musterBySeq (b : Body) (n seq : Nat) : Option MusterWork := b.thm.musters.find? (fun m => m.group == n && m.seq == seq)

/-- An ARRIVE from a partner below (R336). -/
def arriveOp (own : Nat) (q : Packet) (b : Body) : Body :=
  let n := pktGroup q
  let g := b.group n
  if !groupLive g || !g.kids.contains q.src then b
  else match musterBySeq b n (pktSeq q) with
    | some m =>
      if pktTag q != m.tag then
        let b := b.modMuster m.oid (fun m => { m with voidBelow := m.voidBelow ++ [q.src] })
        progressMuster own m.oid (blame own Code.musterMismatch (b.openOf m.oid) b)
      else progressMuster own m.oid (b.modMuster m.oid (fun m => { m with below := m.below ++ [q.src] }))
    | none => if seqAhead g (pktSeq q) then keepEarly q b else strayArrive own q b

/-- The row MUSTER_ARRIVE_RECEIVE. -/
def execMusterArriveReceive (s : State) : Host.Outcome State Fault Refusal :=
  s.onBody (fun own b => shutdownEnd (settleGroups (withPacket (fun p => p.vc == 0 && pktKind p == 0) (arriveOp own) b)))

/-- The release tick of a RELEASE (R336). -/
def pktTick (q : Packet) : Nat :=
  let h := q.hanks.getD 1 0
  hW h 0 + 2 ^ 32 * hW h 1

/-- A RELEASE from the partner above (R337). -/
def releaseOp (own : Nat) (q : Packet) (b : Body) : Body :=
  let n := pktGroup q
  if !groupLive (b.group n) || (b.group n).parent != some q.src then b
  else match musterBySeq b n (pktSeq q) with
    | some m => if m.release.isSome then b else setRelease own m (pktTick q) b
    | none => b

/-- The row MUSTER_RELEASE_RECEIVE. -/
def execMusterReleaseReceive (s : State) : Host.Outcome State Fault Refusal :=
  s.onBody (fun own b => shutdownEnd (settleGroups (withPacket (fun p => p.vc == 0 && pktKind p == 1) (releaseOp own) b)))

/-- A MUSTER VOID, from below or from above (R339). -/
def musterVoidOp (own : Nat) (q : Packet) (b : Body) : Body :=
  let n := pktGroup q
  let g := b.group n
  if !groupLive g then b
  else match musterBySeq b n (pktSeq q) with
    | some m =>
      if g.parent == some q.src then (if m.release.isSome then b else endInVoid own m b)
      else if g.kids.contains q.src then
        progressMuster own m.oid (b.modMuster m.oid (fun m => { m with voidBelow := m.voidBelow ++ [q.src] }))
      else b
    | none =>
      if !g.kids.contains q.src then b
      else if g.voids.contains (pktSeq q) then answerMusterVoid own q b else keepEarly q b

/-- The row MUSTER_VOID_RECEIVE. -/
def execMusterVoidReceive (s : State) : Host.Outcome State Fault Refusal :=
  s.onBody (fun own b => shutdownEnd (settleGroups (withPacket (fun p => p.vc == 0 && pktKind p == 2) (musterVoidOp own) b)))

/-- A kept header acts as though it arrived now (R465). -/
def earlyOp (own : Nat) (q : Packet) (b : Body) : Body :=
  if q.vc == 2 then admitOp own q b
  else if pktKind q == 0 then arriveOp own q b
  else musterVoidOp own q b

/-! ### MUSTER, release and deadline -/

/-- MUSTER at the head of its queue (R334, R335). -/
def musterOp (own : Nat) (r : CmdRec) (b : Body) : Body :=
  match musterCheck b r with
  | .error code => refuseRec r code b
  | .ok () =>
    let n := musterGroup r
    let seq := (b.group n).seq.toNat
    let oid := b.nextOid
    let b := acceptOpen r (.muster 0) false [] [] b
    let m : MusterWork :=
      { oid := oid, ctx := r.ctx, group := n, seq := seq, tag := r.b 0, deadline := r.b 1 + 2 ^ 32 * r.b 2 }
    let b := { b with thm := { b.thm with musters := b.thm.musters ++ [m] } }
    replayEarly own n earlyOp (takeSeqs n 1 b)

/-- The row MUSTER. -/
def execMuster (ctx : BitVec 6) (s : State) : Host.Outcome State Fault Refusal :=
  s.onBody (fun own b => withHead own ctx.toNat Cmd.muster (musterOp own) b)

/-- MUSTER_RELEASE_TICK: the oldest MUSTER of the group whose tick has come. -/
def releaseTickOp (own n : Nat) (b : Body) : Body :=
  let due := fun (m : MusterWork) => m.group == n && (match m.release with
    | some t => t ≤ b.now
    | none => false)
  match b.thm.musters.find? due with
  | some m => releaseMuster own m b
  | none => b

/-- The row MUSTER_RELEASE_TICK. The release runs on in a throttle hold (R427); only a DUMP stops it. -/
def execMusterReleaseTick (group : BitVec 4) (s : State) : Host.Outcome State Fault Refusal :=
  s.onBody (fun own b => if b.hang.halted then b else shutdownEnd (settleGroups (releaseTickOp own group.toNat b)))

/-- MUSTER_DEADLINE (R339): a member that waits for a partner's arrival records it; the root voids the oldest MUSTER of the
group whose deadline has passed without its last arrival. -/
def musterDeadlineOp (own n : Nat) (b : Body) : Body :=
  let g := b.group n
  let due := fun (m : MusterWork) => m.group == n && m.deadline != 0 && m.deadline ≤ b.now && m.release.isNone
  let note := fun (m : MusterWork) =>
    if due m && !m.sentUp && m.missing.isNone then { m with missing := g.kids.find? (fun k => !m.below.contains k) } else m
  let b := { b with thm := { b.thm with musters := b.thm.musters.map note } }
  if g.parent.isSome then b
  else match b.thm.musters.find? due with
    | some m => endInVoid own m b
    | none => b

/-- The row MUSTER_DEADLINE. -/
def execMusterDeadline (group : BitVec 4) (s : State) : Host.Outcome State Fault Refusal :=
  s.onBody (fun own b => if frozen b then b else shutdownEnd (settleGroups (musterDeadlineOp own group.toNat b)))

end Sys2Proof.Machine
end

