-- ==== Sys2Proof/Machine/Collect.lean ====
section
/-! DEFINITION. COLLECT at its acceptance (spec/10 R232 to R237). -/

namespace Sys2Proof.Machine

/-! ### The descriptor (Table 10.5) -/

/-- The collective descriptor as read. -/
structure CollDesc where
  w : List Nat

def CollDesc.at_ (d : CollDesc) (i : Nat) : Nat := d.w.getD i 0
def CollDesc.addr (d : CollDesc) (i : Nat) : Nat := d.at_ i + 2 ^ 32 * bits (d.at_ (i + 1)) 11 0
def CollDesc.group (d : CollDesc) : Nat := bits (d.at_ 0) 3 0
def CollDesc.op (d : CollDesc) : Nat := bits (d.at_ 0) 5 4
def CollDesc.source (d : CollDesc) : Nat := bits (d.at_ 0) 7 6
def CollDesc.racc (d : CollDesc) : Bool := bit (d.at_ 0) 8
def CollDesc.cellEn (d : CollDesc) : Bool := bit (d.at_ 0) 9
def CollDesc.shardEn (d : CollDesc) : Bool := bit (d.at_ 0) 10
def CollDesc.pieceHanks (d : CollDesc) : Nat := bits (d.at_ 1) 15 0
def CollDesc.capacity (d : CollDesc) : Nat := bits (d.at_ 2) 30 0
def CollDesc.experts (d : CollDesc) : Nat := bits (d.at_ 3) 12 0
def CollDesc.ppk (d : CollDesc) : Nat := bits (d.at_ 3) 31 16
def CollDesc.src (d : CollDesc) : Nat := d.addr 4
def CollDesc.dst (d : CollDesc) : Nat := d.addr 6
def CollDesc.cell (d : CollDesc) : Nat := d.addr 8
def CollDesc.deadline (d : CollDesc) : Nat := d.at_ 10 + 2 ^ 32 * d.at_ 11
def CollDesc.tag (d : CollDesc) : Nat := d.at_ 12
def CollDesc.shard (d : CollDesc) : Nat := d.addr 13

/-- The reserved bits of the descriptor. -/
def CollDesc.reserved (d : CollDesc) : Bool :=
  bits (d.at_ 0) 31 11 != 0 || bits (d.at_ 1) 31 16 != 0 || bit (d.at_ 2) 31 || bits (d.at_ 3) 15 13 != 0
    || [5, 7, 9, 14].any (fun i => bits (d.at_ i) 31 12 != 0) || (d.w.drop 15).any (fun x => x != 0)

/-- Hanks of the tensor of sources 0 and 1, or of the result of source 2 (R234). -/
def CollDesc.total (d : CollDesc) : Nat :=
  if d.source == 2 then d.experts * d.ppk * d.pieceHanks else cdiv d.capacity 4

/-- COLLECT_CFG (Table 10.6, order 2). -/
def CollDesc.cfgBad (d : CollDesc) : Bool :=
  d.reserved || d.op == 3 || d.source == 3 || d.pieceHanks == 0
    || (d.source != 2 && d.capacity == 0) || (d.source == 2 && (d.experts == 0 || d.ppk == 0))
    || (d.op == 2 && d.capacity % 4 != 0)
    || (d.racc && (d.op != 0 || d.deadline != 0 || d.dst % 15 != 0 || d.pieceHanks % 15 != 0))
    || (d.cellEn && d.source == 2)

/-- The refusals of Table 10.6 that the descriptor and the state decide, in order. -/
def collCheck (b : Body) (c : Nat) (d : CollDesc) : Check := do
  failIf (d.pieceHanks > 15360) Code.thmOversize
  failIf d.cfgBad Code.collectCfg
  failIf (groupDenied b c d.group) Code.thmGroup
  failIf (d.deadline != 0 && !b.stc.locked) Code.stcUnlocked
  failIf (d.source == 0 && d.src != d.dst && overlaps (d.src, d.total) (d.dst, d.total)) Code.layoutOverlap

/-! ### Shard records (R202, R203, R237) -/

/-- One dimension of a shard record: GLOBAL, SHARDS, MODE, COORD. -/
structure ShardDim where
  glob : Nat
  shards : Nat
  mode : Nat
  coord : Nat
deriving DecidableEq, Repr

def shardDims (hs : List Hank) : List ShardDim :=
  (List.range 5).map (fun d =>
    { glob := bits (recW hs (3 * d)) 30 0, shards := bits (recW hs (3 * d + 1)) 16 0,
      mode := bits (recW hs (3 * d + 1)) 18 17, coord := bits (recW hs (3 * d + 2)) 16 0 })

/-- Reserved bits of a shard record. -/
def shardReserved (hs : List Hank) : Bool :=
  (List.range 5).any (fun d => bit (recW hs (3 * d)) 31 || bits (recW hs (3 * d + 1)) 31 19 != 0
    || bits (recW hs (3 * d + 2)) 31 17 != 0) || recW hs 15 != 0

/-- One dimension obeys R203; `ge` is the elements of a hank group. -/
def shardDimOk (ge d : Nat) (x : ShardDim) : Bool :=
  1 ≤ x.shards && x.shards ≤ 131072 && x.coord < x.shards
    && (match x.mode with
      | 0 => x.shards == 1
      | 1 => d != 0 || cdiv x.glob x.shards % ge == 0
      | 2 => d != 0
      | _ => false)

/-- A shard record that keeps the rules of R203 which need no layout descriptor. SHARDS_d is given as 1 to 131,072 in 17 bits, which
end at 131,071: the field is taken as it stands, and 0 is refused (DESIGN CHOICE, log 108). A reserved bit of a record that a COLLECT
names gives LAYOUT_SHARD (DESIGN CHOICE, log 116). -/
def shardOk (ge : Nat) (hs : List Hank) : Bool :=
  !shardReserved hs && (List.range 5).all (fun d => shardDimOk ge d ((shardDims hs).getD d ⟨0, 0, 0, 0⟩))

/-- A global index of one dimension belongs to the member's shard (Table 9.3). -/
def dimHolds (x : ShardDim) (i : Nat) : Bool :=
  match x.mode with
  | 1 => let q := cdiv x.glob x.shards; x.coord * q ≤ i && i < min x.glob (x.coord * q + q)
  | 2 => i % x.shards == x.coord && i < x.glob
  | _ => i < x.glob

/-- A flattened global index, dimension 0 innermost, belongs to the member's shard (R237). -/
def shardHolds : List ShardDim → Nat → Bool
  | [], i => i == 0
  | x :: xs, i => x.glob != 0 && dimHolds x (i % x.glob) && shardHolds xs (i / x.glob)

/-! ### Pieces (R234 to R237) -/

/-- A piece before it has its number: KEY, offset, length, null. -/
structure PiecePlan where
  key : Nat
  off : Nat
  hanks : Nat
  null : Bool
deriving DecidableEq, Repr

/-- The pieces of sources 0 and 1 for an extent X; a piece lies at its hank offset in the whole tensor also where the member issues
only its own shard (DESIGN CHOICE, log 71). -/
def tensorPieces (d : CollDesc) (x : Nat) : List PiecePlan :=
  (List.range (cdiv d.total d.pieceHanks)).map (fun j =>
    let off := j * d.pieceHanks
    { key := j, off := off, hanks := min d.pieceHanks (d.total - off), null := x ≤ 4 * off })

/-- The pieces of source 2: `empty` says which experts have EXTENT 0. -/
def expertPieces (d : CollDesc) (empty : List Bool) : List PiecePlan :=
  (List.range (d.experts * d.ppk)).map (fun j =>
    { key := j, off := j * d.pieceHanks, hanks := d.pieceHanks, null := empty.getD (j / d.ppk) false })

/-- A piece meets the member's own shard. -/
def pieceInShard (dims : List ShardDim) (p : PiecePlan) : Bool :=
  (List.range (4 * p.hanks)).any (fun i => shardHolds dims (4 * p.off + i))

/-- The digest of descriptor words w0 [7:0], w1, w2, w3 and the shard record (Table 10.8). -/
def collDigest (d : CollDesc) (shard : List Hank) : Nat :=
  crc32 (leBytes 4 (bits (d.at_ 0) 7 0) ++ [1, 2, 3].flatMap (fun i => leBytes 4 (d.at_ i)) ++ shard.flatMap hBytes)

/-- What the reads of acceptance give: descriptor, shard record, extent, CELL_BAD, empty experts. -/
structure CollReads where
  d : CollDesc
  shard : List Hank := []
  extent : Nat := 0
  cellBad : Bool := false
  empty : List Bool := []

/-- EXTENT of a shape cell as a signed number. -/
def cellExtent (h : Hank) : Int := s32 (hW h 0)

/-- The reads of acceptance, or the first refusal (R232, R233, R463). An expert's cell whose EXTENT is negative makes the expert null
and sets no CELL_BAD (DESIGN CHOICE, log 115). -/
def collectReads (c addr : Nat) : Io (Except Nat CollReads) := do
  let hs ← readAcc c addr 5
  let d : CollDesc := { w := (List.range 20).map (recW hs) }
  let b ← Io.get
  match collCheck b c d with
  | .error code => pure (.error code)
  | .ok () => do
    let shard ← if d.shardEn then readAcc c d.shard 4 else pure []
    if d.shardEn && !shardOk 4 shard then pure (.error Code.layoutShard)
    else if d.source == 2 then do
      let b ← Io.get
      let cells ← if musterOpen b c then Io.fail (.wait 0) else readAcc c (d.cell + 1) d.experts
      pure (.ok { d := d, shard := shard, extent := 4 * d.total, empty := cells.map (fun h => cellExtent h ≤ 0) })
    else if d.cellEn then do
      let e := cellExtent (← readCellAcc c d.cell)
      pure (.ok { d := d, shard := shard, extent := e.toNat, cellBad := e < 0 })
    else pure (.ok { d := d, shard := shard, extent := d.capacity })

/-- The pieces that this member issues. -/
def issuedPieces (r : CollReads) : List PiecePlan :=
  let ps := if r.d.source == 2 then expertPieces r.d r.empty else tensorPieces r.d r.extent
  if r.d.shardEn then ps.filter (pieceInShard (shardDims r.shard)) else ps

/-- Acceptance of a COLLECT whose checks passed: sequence numbers, pieces, and what waited for them (R234, R465). -/
def acceptCollect (own : Nat) (cmd : CmdRec) (r : CollReads) (b : Body) : Body :=
  let d := r.d
  let plans := issuedPieces r
  let x := if d.source == 2 then r.extent else min r.extent d.capacity
  let dropped := if d.source == 2 then 0 else r.extent - d.capacity
  let digest := collDigest d r.shard
  let w : CollectWork :=
    { group := d.group, op := d.op, source := d.source, racc := d.racc, plumb := b.cr.plumb, src := d.src, dst := d.dst,
      deadline := d.deadline, tag := d.tag, digest := digest, extent := x,
      names := plans.map (fun p => (p.key, p.hanks, p.null)), dropped := dropped % 2 ^ 32, cellBad := r.cellBad }
  let seq := (b.group d.group).seq.toNat
  let oid := b.nextOid
  let reads := if d.source == 0 then [(d.src, d.total)] else []
  let b := acceptWork cmd (.collect w) reads [(d.dst, d.total)] b
  let pieces := (List.range plans.length).map (fun i =>
    let p := plans.getD i ⟨0, 0, 0, true⟩
    ({ group := d.group, seq := (seq + i) % 2 ^ 32, oid := oid, ctx := cmd.ctx, pos := i, key := p.key, off := p.off,
       hanks := p.hanks, null := p.null, op := d.op, digest := digest, deadline := d.deadline } : Piece))
  let b := { b with thm := { b.thm with
    pieces := b.thm.pieces ++ pieces, drop := b.thm.drop + BitVec.ofNat 32 dropped } }
  let b := replayEarly own d.group earlyOp (takeSeqs d.group plans.length b)
  driveResults own (matchTiles own b)

/-- COLLECT at the head of its queue. -/
def collectOp (own : Nat) (r : CmdRec) (b : Body) : Body :=
  withReads own r (collectReads r.ctx r.addr) (fun res b => match res with
    | .error code => refuseRec r code b
    | .ok x => acceptCollect own r x b) b

/-- The row COLLECT. -/
def execCollect (ctx : BitVec 6) (s : State) : Host.Outcome State Fault Refusal :=
  s.onBody (fun own b => withHead own ctx.toNat Cmd.collect (collectOp own) b)

end Sys2Proof.Machine
end

