-- ==== Sys2Proof/Machine/Garnet.lean ====
section
/-! DEFINITION. The work of a ROUTE_STEP, and its scores on the garnet arrays: work units dealt one by one, passes, and the
segments that the mica lanes take (spec/01 R16, spec/03 R65 to R70, R79, spec/11 R271, R274). -/

namespace Sys2Proof.Machine

/-! ### Work of a ROUTE_STEP -/

/-- Map the route work of an open command. -/
def modRoute (oid : Nat) (f : RouteWork → RouteWork) (b : Body) : Body :=
  b.modOpen oid (fun o => match o.work with
    | .route w => { o with work := .route (f w) }
    | _ => o)

/-- Run a stage of a step, which uses a halyard engine: without one it waits (R213). -/
def atStage (oid : Nat) (st : RouteStage) (f : Open → RouteWork → Body → Body) (b : Body) : Body :=
  match b.openOf oid with
  | none => b
  | some o => match o.work with
    | .route w => if standsAt b o w st && !frozen b && engineFor b oid then f o w b else b
    | _ => b

/-- The stream of a stage on a halyard engine, for a WORK of Table 9.10; `pos` reads the position that a soft fault reports. -/
def stageRun (own unit work : Nat) (pos : RouteWork → Nat) (o : Open) (m : Io Unit) (b : Body) : Body :=
  engineStream own o.ctx work (some o.oid) o.oid o.cmd.seq unit (fun b => ((routeOf b o.oid).map pos).getD 0) m b

/-! ### Buffers (R271) -/

/-- A unit of a step asks for a buffer; while its request stands, it is answered by COIL_GRANT. -/
def askOnce (own : Nat) (r : CoilReq) (b : Body) : Option CoilBuf × Body :=
  if b.coil.wait.any (fun x => sameReq x r) then (none, b) else askCoil own r b

/-- A need of `n` hanks as requests, none of which exceeds a buffer (R268). -/
def pieces (n : Nat) : List Nat :=
  List.replicate (n / 16384) 16384 ++ (if n % 16384 == 0 then [] else [n % 16384])

/-- Take the buffers of the given sizes one by one and note each; the flag says that all are held. -/
def askAll (own c req oid : Nat) (note : CoilBuf → Body → Body) : List Nat → Body → Bool × Body
  | [], b => (true, b)
  | n :: rest, b =>
    match askOnce own (coilReqOf b c req n (some oid)) b with
    | (some buf, b) => askAll own c req oid note rest (note buf b)
    | (none, b) => (false, b)

/-! ### Units of a step (R66, R70) -/

/-- Map an unfinished unit of a step. -/
def modUnit (oid item : Nat) (f : UnitWork → UnitWork) (b : Body) : Body :=
  modRoute oid (fun w => { w with units := w.units.map (fun u => if unitItem w u == item then f u else u) }) b

/-- An array runs a unit. -/
def onArray (b : Body) (oid item : Nat) : Bool := b.units.grants.any (fun g => g.unit == 1 && g.oid == oid && g.item == item)

/-- An array may take a unit that a stop left unfinished: the array that it ran on, or after a save any (R66). -/
def takesUnit (b : Body) (oid n : Nat) (w : RouteWork) (u : UnitWork) : Bool :=
  !onArray b oid (unitItem w u) && (!u.bound || u.arr == n)

/-- The unit that a step gives to a free array: one that a stop left unfinished before one not yet issued. -/
def nextItem (b : Body) (oid n : Nat) (w : RouteWork) : Option Nat :=
  match w.units.find? (takesUnit b oid n w) with
  | some u => some (unitItem w u)
  | none => if w.issued < unitCount w then some w.issued else none

/-- Steps that wait for an array. -/
def arrayClaims (b : Body) (n : Nat) : List Claim :=
  b.opens.filterMap (fun o => match o.work with
    | .route w => if standsAt b o w .score && (nextItem b o.oid n w).isSome then some (claimOf b o.oid o.ctx) else none
    | _ => none)

/-- A unit starts, or goes on, on an array. -/
def startUnit (n oid item : Nat) (b : Body) : Body :=
  modRoute oid (fun w => match unitAt w item with
    | some _ => { w with units := w.units.map (fun u => if unitItem w u == item then { u with arr := n, bound := true } else u) }
    | none => { w with units := w.units ++ [{ newUnit w item with arr := n }], issued := w.issued + 1 }) b

/-- An active array without a unit takes the next unit of the step that is first in R16's order. -/
def dealArray (b : Body) (n : Nat) : Body :=
  if !bit (garActive b) n || (grantAt b 1 n).isSome then b
  else
    let cs := arrayClaims b n
    match pickClaim b 1 cs with
    | none => b
    | some c => match (routeOf b c.oid).bind (nextItem b c.oid n) with
      | none => b
      | some i => startUnit n c.oid i (giveUnit 1 n c.oid i (noteGrant 1 c.cls (cs.any (fun x => !x.cls)) b))

/-! ### Tag faults of a step (R79) -/

/-- First hanks of the groups of a row that break the tag rules, K tile by K tile; a tile that cannot be read has none. -/
def rowMismatches (c : Nat) (f : Fmt) (row hidden : Nat) (b : Body) : List Nat :=
  (List.range (cdiv hidden 128)).flatMap (fun j =>
    let (off, n) := tileHanks f hidden j
    match Io.on (readRun c (row + off) n) b with
    | (.ok hs, _) =>
      let gs := chunks (fmtHg f) hs
      ((List.range gs.length).filter (fun i => tagBad f (gs.getD i []))).map (fun i => v44 (row + off + i * fmtHg f))
    | _ => [])

/-- The groups of a step that break the tag rules. -/
def stepMismatches (c : Nat) (w : RouteWork) (b : Body) : List Nat :=
  let f := fun code => (fmtOfCode code).getD .fp32
  (List.range w.n).flatMap (fun t => rowMismatches c (f w.tokFmt) (w.tokBase + t * w.tokRow) w.hidden b)
    ++ (List.range w.cfg.experts).flatMap (fun x => rowMismatches c (f w.wFmt) (w.wBase + x * w.wRow) w.hidden b)

/-- A tag fault of a step reports one of its mismatching groups: which one is free (R79, log 18). -/
def anyMismatch {α : Type} (c : Nat) (w : RouteWork) (m : Io α) : Io α := fun b =>
  match Io.on m b with
  | (.error (.hard code kind addr unit extra), b') =>
    if code == Code.fmtTagMismatch then
      let (k, b') := fresh b'
      let all := stepMismatches c w b
      (.error (.hard code kind (all.getD (Config.tagChoice k % all.length) addr) unit extra), b')
    else (.error (.hard code kind addr unit extra), b')
  | r => r

/-! ### Passes (R68) -/

/-- Fetch the lines of an operand that a pass still lacks, one by one: a miss leaves those that came (Table 11.7). -/
def fetchLines (c oid item : Nat) (keep : List Hank → UnitWork → UnitWork) (runs : List (Nat × Nat)) : Io Unit :=
  runs.forM (fun r => do
    let hs ← readRun c r.1 r.2
    Io.upd (fun b => modRoute oid (fun w => { w with lines := w.lines + 1 }) (modUnit oid item (keep hs) b)))

/-- A unit of a step as it stands. -/
def unitNow (b : Body) (oid item : Nat) : Option (RouteWork × UnitWork) :=
  (routeOf b oid).bind (fun w => (unitAt w item).map (fun u => (w, u)))

/-- The weight tile that the shadow of an array takes: that of the next pass, or once it has been swapped in the one after it. -/
def shadowRows (w : RouteWork) (u : UnitWork) : Operand := weightRows w (if u.swapped then { u with kTile := u.kTile + 1 } else u)

/-- The shadow tile lacks hanks of a tile of the unit. -/
def shadowLacks (w : RouteWork) (u : UnitWork) : Bool :=
  (shadowRows w u).tile < kTiles w && u.shadow.length < (shadowRows w u).size

/-- The shadow tile is loaded, through the coil buffer of the unit's weight tiles (R68, R271). -/
def shadowTurn (own : Nat) (o : Open) (item : Nat) (b : Body) : Body :=
  match unitNow b o.oid item with
  | none => b
  | some (w, u) =>
    if !shadowLacks w u then b
    else
      let r := if u.tileBuf.isSome then (true, b)
        else askAll own o.ctx 1 o.oid (fun x => modUnit o.oid item (fun u => { u with tileBuf := some x })) [(weightRows w u).size] b
      if !r.1 then r.2
      else stageRun own 1 1 RouteWork.lines o (fetchLines o.ctx o.oid item (fun hs u => { u with shadow := u.shadow ++ hs })
        (leftRuns u.shadow.length (shadowRows w u).runs)) r.2

/-- A complete shadow tile is swapped in for the next pass (R68). -/
def swapTile (oid item : Nat) (b : Body) : Body :=
  match unitNow b oid item with
  | none => b
  | some (w, u) =>
    if u.swapped || shadowLacks w u then b
    else modUnit oid item (fun u => { u with tile0 := u.shadow, shadow := [], swapped := true }) b

/-- One pass: the tokens of the run are fetched, and every entry advances against the tile that is swapped in. -/
def passIo (c oid item : Nat) (u : UnitWork) (w : RouteWork) : Io Unit := do
  let tk := tokenRows w u
  fetchLines c oid item (fun hs u => { u with toks := u.toks ++ hs }) (leftRuns u.toks.length tk.runs)
  let b ← Io.get
  match unitNow b oid item with
  | none => pure ()
  | some (_, v) => do
    let toks ← anyMismatch c w (tk.decode v.toks)
    let wts ← anyMismatch c w ((weightRows w u).decode v.tile0)
    Io.upd (modUnit oid item (fun u => { passUnit (scorePath tk.fmt (weightRows w u).fmt == some true) u toks wts with
      toks := [], tile0 := [], swapped := false }))

/-- The coil buffer that the tokens of a unit's passes go through (R271). -/
def tokenRoom (own : Nat) (o : Open) (w : RouteWork) (item : Nat) (u : UnitWork) (b : Body) : Bool × Body :=
  if u.tokBuf.isSome then (true, b)
  else askAll own o.ctx 1 o.oid (fun x => modUnit o.oid item (fun u => { u with tokBuf := some x })) [(tokenRows w u).size] b

/-- The next pass of an array: the array holds until the shadow tile is complete and swapped in, and then until the tokens have
come; while it waits for them the shadow takes the next tile (R68). -/
def passTurn (own : Nat) (o : Open) (item : Nat) (b : Body) : Body :=
  let b := swapTile o.oid item (shadowTurn own o item b)
  match unitNow b o.oid item with
  | none => b
  | some (w, u) =>
    if !u.swapped then b
    else match tokenRoom own o w item u b with
      | (true, b) => stageRun own 1 1 RouteWork.lines o (passIo o.ctx o.oid item u w) b
      | (false, b) => shadowTurn own o item b

/-! ### Segments (R69) -/

/-- A mica lane takes the segments of a token's row into a coil buffer, which the row's first segment asks for. -/
def rowRoom (own : Nat) (o : Open) (t : Nat) (b : Body) : Bool × Body :=
  match routeOf b o.oid with
  | none => (false, b)
  | some w =>
    if w.rowBufs.any (fun p => p.1 == t) then (true, b)
    else askAll own o.ctx 2 o.oid (fun x => modRoute o.oid (fun w => { w with rowBufs := w.rowBufs ++ [(t, x)] }))
      [cdiv w.cfg.experts 4 + 1] b

/-- A finished unit leaves its array, and its buffers are freed. -/
def finishUnit (oid item : Nat) (u : UnitWork) (b : Body) : Body :=
  let b := coilDrop (u.tokBuf.toList ++ u.tileBuf.toList) b
  let b := modRoute oid (fun w => { w with units := w.units.filter (fun u => unitItem w u != item) }) b
  { b with units := { b.units with grants := b.units.grants.filter (fun g => !(g.unit == 1 && g.oid == oid && g.item == item)) } }

/-- Deliver the segments of a finished unit one by one; the array holds while the mica lanes do not accept one. -/
def deliver (own : Nat) (o : Open) (item : Nat) (u : UnitWork) : List Segment → Body → Body
  | [], b => finishUnit o.oid item u b
  | s :: rest, b =>
    match rowRoom own o s.token b with
    | (false, b) => b
    | (true, b) =>
      let b := modUnit o.oid item (fun u => { u with rows := u.rows + 1 }) b
      deliver own o item u rest (act 0 1 u.arr (modRoute o.oid (fun w => { w with segs := w.segs ++ [s] }) b))

/-- The turn of an array: its next pass, or the segments of its finished unit. -/
def arrayTurn (own : Nat) (b : Body) (n : Nat) : Body :=
  match grantAt b 1 n with
  | none => b
  | some g => match b.openOf g.oid, routeOf b g.oid with
    | some o, some w => (match unitAt w g.item with
      | none => b
      | some u =>
        if frozen b || (b.ctx o.ctx).st != .run then b
        else if u.kTile < kTiles w then passTurn own o g.item b
        else
          let exact := scorePath (tokenRows w u).fmt (weightRows w u).fmt == some true
          deliver own o g.item u ((unitSegs exact u).drop u.rows) b)
    | _, _ => b

/-- Every free array takes a unit, then every array has a turn. -/
def arraysTurn (own : Nat) (b : Body) : Body :=
  (List.range 4).foldl (arrayTurn own) ((List.range 4).foldl dealArray b)

end Sys2Proof.Machine
end

