-- ==== Sys2Proof/Machine/Select.lean ====
section
/-! DEFINITION. Selection (spec/05): noise, keys, ranking, the walk under capacity, expert-choice mode, gates, and the output
regions of selection. -/

namespace Sys2Proof.Machine

/-! ### Noise (R112, R113) -/

/-- One round of the noise function: the four words after round `r`. -/
def noiseRound (x : Nat × Nat × Nat × Nat) (r : Nat) : Nat × Nat × Nat × Nat :=
  let x0 := add32 x.1 x.2.1
  let x3 := rotl32 (x.2.2.2 ^^^ x0) 16
  let x2 := add32 x.2.2.1 x3
  let x1 := rotl32 (x.2.1 ^^^ x2) 12
  let x0 := add32 x0 x1
  let x3 := rotl32 (x3 ^^^ x0) 8
  let x2 := add32 x2 x3
  let x1 := rotl32 (x1 ^^^ x2) 7
  (x0 ^^^ (r + 1), x1, x2, x3)

/-- The noise word of token `t` for expert `x`. -/
def noiseWord (lo hi step layer t x : Nat) : Nat :=
  let s := (List.range 4).foldl noiseRound (lo, hi ^^^ ((layer <<< 16) % 2 ^ 32), step, t ||| (x <<< 16))
  s.1 ^^^ s.2.1 ^^^ s.2.2.1 ^^^ s.2.2.2

/-- The noise value of a noise word: 1 uniform, 2 Gumbel. -/
def noiseValue (kind scale word : Nat) : Nat :=
  let m := bits word 31 8
  if kind == 1 then
    fmul scale (toF32 (.fin (m < 2 ^ 23) (if m < 2 ^ 23 then 2 ^ 23 - m else m - 2 ^ 23) (-23)))
  else
    fmul scale (neg32 (flog (neg32 (logU m))))

/-! ### Keys and ranking (R111, R115) -/

/-- One key: base, bias, noise; the key of a NaN score is NaN. -/
def keyOf (cfg : RouteCfg) (bias : List Nat) (step t x base score : Nat) : Nat :=
  let k := if cfg.biasEn then fadd base (bias.getD x 0) else base
  let k := if cfg.noise == 0 then k
    else fadd k (noiseValue cfg.noise cfg.noiseScale (noiseWord cfg.seedLo cfg.seedHi step cfg.layer t x))
  if isNaN32 score then f32NaN else k

/-- The rank of a key as a number that rises with the key: NaN as −Inf, −0 as +0. -/
def keyRank (k : Nat) : Nat :=
  let k := if isNaN32 k then f32NInf else k
  if bit k 31 then 2 ^ 31 - k % 2 ^ 31 else 2 ^ 31 + k % 2 ^ 31

/-- Indices ranked by key, highest first, ties to the lower index (R115). -/
def ranked (keys : List Nat) : List Nat :=
  (sortKey (fun p => 2 ^ 32 - keyRank p.1) (keys.zip (List.range keys.length))).map Prod.snd

/-! ### The walk of one token (R116) -/

/-- What the walk carries: load counts, candidates not yet examined, dropped slots. -/
structure WalkState where
  load : List LoadCnt
  left : List Nat
  dropped : Nat := 0
deriving DecidableEq, Repr

/-- One slot's attempts: the first, then at most D overflow attempts. -/
def walkSlot (cap : Nat) : Nat → Bool → WalkState → Option Nat × WalkState
  | 0, _, s => (none, s)
  | fuel + 1, first, s =>
    match s.left with
    | [] => (none, s)
    | x :: rest =>
      let load := if first then tmod s.load x (fun l => { l with first := l.first + 1 }) else s.load
      let full := cap != 0 && cap ≤ (tget load x).assigned
      if full then
        walkSlot cap fuel false { s with load := tmod load x (fun l => { l with refused := l.refused + 1 }), left := rest }
      else
        (some x, { s with left := rest, load := tmod load x (fun l => { l with
          assigned := l.assigned + 1, overflow := if first then l.overflow else l.overflow + 1 }) })

/-- The slots of one token. -/
def walkToken (cap d k : Nat) (s : WalkState) : List (Option Nat) × WalkState :=
  (List.range k).foldl (fun acc _ =>
    let (x, s) := walkSlot cap (d + 1) true acc.2
    (acc.1 ++ [x], if x.isNone then { s with dropped := s.dropped + 1 } else s)) ([], s)

/-! ### Gates (R99, R100, R118) -/

/-- F of R99: SIG or the bound slot; a NaN score gives +0. -/
def sigGate (slot : Option SlotBuf) (s : Nat) : Nat :=
  if isNaN32 s then 0
  else match slot with
    | some b => slotEval b s
    | none => fsig s

/-- The gates of a token's slots from their values before renormalisation, with events of OBS_GATE_EMPTY. -/
def renormGates (renorm : Bool) (choice : List (Option Nat)) (gs : List Nat) : List Nat × Nat :=
  if !renorm then (gs, 0)
  else if choice.length == 1 then (choice.map (fun x => if x.isSome then f32One else 0), 0)
  else
    let (r, e) := renorm2 (gs.getD 0 0) (gs.getD 1 0)
    ((choice.zip r).map (fun p => if p.1.isSome then p.2 else 0), b2n e)

/-- Gates of a top-k-then-softmax token. -/
def topkGates (s : List Nat) (choice : List (Option Nat)) : List Nat × Nat :=
  let a := choice.filterMap id
  if a.length ≤ 1 then (choice.map (fun x => if x.isSome then f32One else 0), 0)
  else
    let set := (List.range s.length).filter (fun x => a.contains x)
    let (p, e) := softmax (set.map (fun x => s.getD x 0))
    (choice.map (fun x => match x with
      | some x => p.getD (set.findIdx (fun y => y == x)) 0
      | none => 0), b2n e)

/-! ### The step's selection -/

/-- What selection gives: choices (0xFFFF for none), gates, load counts, dropped, NaN keys, empty gates. -/
structure Selected where
  choices : List (List Nat) := []
  gates : List (List Nat) := []
  load : List LoadCnt := []
  dropped : Nat := 0
  nanKeys : Nat := 0
  gateEmpty : Nat := 0
deriving DecidableEq, Repr

/-- A dropped or unused slot of the choice tensor. -/
def noExpert : Nat := 0xFFFF

/-- Base values of a row: softmax or sigmoid values, or none of them, with events of OBS_GATE_EMPTY. -/
def rowValues (cfg : RouteCfg) (slot : Option SlotBuf) (s : List Nat) : List Nat × Nat :=
  if cfg.gating == 2 then (s.map (sigGate slot), 0)
  else if cfg.gating == 0 then
    let (p, e) := softmax s
    (p, b2n e)
  else (s, 0)

/-- The keys of a row. -/
def rowKeys (cfg : RouteCfg) (bias : List Nat) (step t : Nat) (base s : List Nat) : List Nat :=
  ((List.range s.length).zip (base.zip s)).map (fun p => keyOf cfg bias step t p.1 p.2.1 p.2.2)

/-- One token outside expert-choice mode (R111, R116, R118). -/
def selectToken (cfg : RouteCfg) (slot : Option SlotBuf) (bias : List Nat) (step t : Nat) (s : List Nat)
    (z : Selected) : Selected :=
  let (vals, e1) := rowValues cfg slot s
  let keys := rowKeys cfg bias step t (if cfg.gating == 2 then vals else s) s
  let n := min cfg.experts (cfg.k * (cfg.ovf + 1))
  let (choice, ws) := walkToken cfg.capacity cfg.ovf cfg.k { load := z.load, left := (ranked keys).take n }
  let (gates, e2) := if cfg.gating == 1 then topkGates s choice
    else renormGates cfg.renorm choice (choice.map (fun x => match x with
      | some x => vals.getD x 0
      | none => 0))
  { choices := z.choices ++ [choice.map (fun x => x.getD noExpert)], gates := z.gates ++ [gates], load := ws.load,
    dropped := z.dropped + ws.dropped, nanKeys := z.nanKeys + (keys.filter isNaN32).length,
    gateEmpty := z.gateEmpty + e1 + e2 }

/-- The first `n` indices in rank order of a key column, of tokens (R119). -/
def topTokens (keys : List Nat) (n : Nat) : List Nat := (ranked keys).take n

/-- Expert-choice mode (R119, R120). -/
def selectEc (cfg : RouteCfg) (slot : Option SlotBuf) (bias : List Nat) (step : Nat) (rows : List (List Nat)) : Selected :=
  let vals := rows.map (fun s => rowValues cfg slot s)
  let keys := ((List.range rows.length).zip (vals.zip rows)).map (fun p => rowKeys cfg bias step p.1 p.2.1.1 p.2.2)
  let taken := (List.range cfg.experts).map (fun x => topTokens (keys.map (fun k => k.getD x 0)) cfg.capacity)
  let kept := ((List.range rows.length).zip keys).map (fun p =>
    let mine := (List.range cfg.experts).filter (fun x => (taken.getD x []).contains p.1)
    let order := (ranked (mine.map (fun x => p.2.getD x 0))).map (fun i => mine.getD i 0)
    (order.take cfg.ecMax, order.drop cfg.ecMax))
  let pad := fun (l : List Nat) (z : Nat) => (l ++ List.replicate cfg.ecMax z).take cfg.ecMax
  { choices := kept.map (fun p => pad p.1 noExpert),
    gates := (kept.zip vals).map (fun p => pad (p.1.1.map (fun x => p.2.1.getD x 0)) 0),
    load := (List.range cfg.experts).map (fun x =>
      { assigned := (kept.filter (fun p => p.1.contains x)).length, first := min cfg.capacity rows.length,
        refused := (kept.filter (fun p => p.2.contains x)).length, overflow := 0 }),
    dropped := (kept.filter (fun p => p.1.isEmpty)).length,
    nanKeys := (keys.map (fun k => (k.filter isNaN32).length)).sum,
    gateEmpty := (vals.map Prod.snd).sum }

/-- The selection of a step over its score rows in FP32, in ascending token index (R26). -/
def selectStep (cfg : RouteCfg) (slot : Option SlotBuf) (bias : List Nat) (step : Nat) (rows : List (List Nat)) : Selected :=
  if cfg.ec then selectEc cfg slot bias step rows
  else ((List.range rows.length).zip rows).foldl (fun z p => selectToken cfg slot bias step p.1 p.2 z)
    { load := List.replicate cfg.experts {} }

/-! ### Regions (Tables 5.2, 6.1, 8.6) -/

/-- k′ of R110. -/
def RouteCfg.kp (c : RouteCfg) : Nat := if c.ec then c.ecMax else c.k

/-- Hanks of a token's raw score row. -/
def rawRow (c : RouteCfg) : Nat := if c.rawOut == 1 then cdiv c.experts 4 else if c.rawOut == 2 then cdiv c.experts 8 else 0

/-- Offsets from OUT: the selection regions, shape cells, inverse map, index tensor, return map, end. -/
structure Regions where
  choice : Nat
  gate : Nat
  tstats : Nat
  estats : Nat
  raw : Nat
  cells : Nat
  inv : Nat
  idx : Nat
  ret : Nat
  stop : Nat
deriving DecidableEq, Repr

/-- Offsets of a step's regions; `home` gives M × WIN and whether there are halves. -/
def regionsOf (c : RouteCfg) (n : Nat) (home : Option (Nat × Bool)) : Regions :=
  let e := c.experts
  let choice := e + 1
  let gate := choice + cdiv (n * c.kp) 8
  let tstats := gate + cdiv (n * c.kp) 4
  let estats := tstats + (if c.tokenStats then n else 0)
  let raw := estats + (if c.expertStats then e else 0)
  let cells := raw + n * rawRow c
  match home with
  | none =>
    let inv := cells + e + 1
    let idx := inv + cdiv (n * c.kp) 4
    let ret := idx + cdiv (n * c.kp) 8 + e
    { choice, gate, tstats, estats, raw, cells, inv, idx, ret, stop := ret }
  | some (mwin, halves) =>
    let h := if halves then 2 else 1
    let inv := cells + h * e + 1
    let idx := inv + cdiv (n * c.kp) 4
    let ret := idx + cdiv (2 * mwin) 8 + h * e
    { choice, gate, tstats, estats, raw, cells, inv, idx, ret, stop := ret + cdiv (2 * mwin) 4 }

/-- Hanks at consecutive addresses. -/
def itemsAt (base : Nat) (hs : List Hank) : List (Nat × Hank) := hs.mapIdx (fun i h => (v44 (base + i), h))

/-- The load vector (Table 5.3). -/
def loadVector (step n : Nat) (z : Selected) : List Hank :=
  i32Hank [step, n, z.dropped, z.nanKeys]
    :: z.load.map (fun l => i32Hank [l.assigned, l.first, l.refused, l.overflow])

/-- What selection writes, in region order, and the number of rows with special values (R110, R121, R102). The statistics hank of
an expert covers all tokens of the step also where it received none: R144, which no rule overrides, is followed against R105 (log 104). -/
def selectionItems (cfg : RouteCfg) (out step : Nat) (rows : List (List Score)) (z : Selected) :
    List (Nat × Hank) × Nat :=
  let r := regionsOf cfg rows.length none
  let s := rows.map (fun row => row.map Score.f32)
  let ts := if cfg.tokenStats then s.map tokenStats else []
  let es := if cfg.expertStats then (List.range cfg.experts).map (fun x =>
      expertStats (s.map (fun row => row.getD x 0)))
    else []
  let raw := if cfg.rawOut == 1 then s.flatMap i32Hanks
    else if cfg.rawOut == 2 then rows.flatMap (fun row => u16Hanks (row.map Score.bf16)) else []
  (itemsAt out (loadVector step rows.length z) ++ itemsAt (out + r.choice) (u16Hanks z.choices.flatten)
    ++ itemsAt (out + r.gate) (i32Hanks z.gates.flatten) ++ itemsAt (out + r.tstats) (ts.map Prod.fst)
    ++ itemsAt (out + r.estats) es ++ itemsAt (out + r.raw) raw,
   (ts.filter Prod.snd).length)

end Sys2Proof.Machine
end

