-- ==== Sys2Proof/Machine/Route.lean ====
section
/-! DEFINITION. ROUTE_STEP at its acceptance: the record, the routing configuration, the card template and the home map
with the checks of R464, the step ledger and the generation table (spec/05, spec/06, spec/08, spec/14). -/

namespace Sys2Proof.Machine

/-! ### The record (Table 14.4) -/

/-- Fields of a ROUTE_STEP record. -/
structure RouteRec where
  tokBase : Nat
  tokRow : Nat
  wBase : Nat
  wRow : Nat
  out : Nat
  n : Nat
  tpl : Nat
  hidden : Nat
  tokFmt : Nat
  wFmt : Nat
  generation : Nat
  defer : Bool
deriving DecidableEq, Repr

def CmdRec.wide (r : CmdRec) (i : Nat) : Nat := r.b i + 2 ^ 32 * bits (r.b (i + 1)) 11 0

def routeRec (r : CmdRec) : RouteRec :=
  { tokBase := r.wide 0, tokRow := bits (r.b 1) 31 12, wBase := r.wide 2, wRow := bits (r.b 3) 31 12,
    out := r.wide 4, n := bits (r.b 5) 28 12, tpl := r.wide 6, hidden := bits (r.b 7) 27 12,
    tokFmt := bits (r.b 8) 3 0, wFmt := bits (r.b 8) 7 4, generation := bits r.w3 27 12, defer := bit r.w3 28 }

/-- Steps 1 to 4 of R464. -/
def routeRecCheck (x : RouteRec) : Check := do
  failIf (x.n > 65536 || x.hidden == 0 || x.hidden > 32768) Code.routeRange
  match fmtOfCode x.tokFmt, fmtOfCode x.wFmt with
  | some t, some w => do
    failIf ((scorePath t w).isNone) Code.fmtPair
    failIf (x.tokBase % fmtHg t != 0 || x.tokRow % fmtHg t != 0 || x.wBase % fmtHg w != 0 || x.wRow % fmtHg w != 0)
      Code.layoutAlign
  | _, _ => .error Code.fmtUnknown

/-! ### The routing configuration (Table 5.1) -/

def routeCfg (hs : List Hank) : RouteCfg :=
  let w := recW hs
  { experts := bits (w 0) 12 0, k := bits (w 0) 14 13, ec := bit (w 0) 15, gating := bits (w 0) 18 16,
    renorm := bit (w 0) 19, ovf := bits (w 0) 22 20, ecMax := bits (w 0) 25 23, noise := bits (w 0) 27 26,
    sigSlot := bit (w 0) 28, slotSel := bits (w 0) 29 29, capacity := bits (w 1) 16 0, tokenStats := bit (w 1) 17,
    expertStats := bit (w 1) 18, rawOut := bits (w 1) 20 19, noiseScale := w 2, layer := bits (w 3) 15 0,
    seedLo := w 4, seedHi := w 5, biasAddr := recAddr hs 6, biasEn := bit (w 7) 12, homeAddr := recAddr hs 8,
    homeEn := bit (w 9) 12 }

/-- Reserved bits of the routing configuration. -/
def cfgReserved (hs : List Hank) : Bool :=
  let w := recW hs
  bits (w 0) 31 30 != 0 || bits (w 1) 31 21 != 0 || bits (w 3) 31 16 != 0 || bits (w 7) 31 13 != 0
    || bits (w 9) 31 13 != 0 || (List.range 6).any (fun i => w (10 + i) != 0)

/-- ROUTE_RANGE on the fields (R25, R108). -/
def cfgRangeBad (c : RouteCfg) (n : Nat) : Bool :=
  c.experts == 0 || c.experts > 4096 || c.capacity > 65536 || c.ovf == 0 || c.ovf > 4
    || (!c.ec && (c.k == 0 || c.k > 2 || c.experts < c.k))
    || (c.ec && (c.capacity == 0 || n < c.capacity || c.experts * c.capacity > 131072))

/-- ROUTE_CFG (R108, R164, R165, R348). -/
def cfgBad (hs : List Hank) (c : RouteCfg) (x : RouteRec) : Bool :=
  cfgReserved hs || c.gating > 2 || (c.gating == 1 && c.ec) || c.noise == 3
    || (c.noise != 0 && (!isFinite32 c.noiseScale || flt c.noiseScale 0))
    || (c.ec && (c.ecMax == 0 || c.ecMax > 4)) || c.rawOut == 3 || (c.homeEn && c.ec)
    || (c.homeEn && x.generation == 0) || (!c.homeEn && (x.generation != 0 || x.defer))

/-- The loadable slot that a configuration names (R97, R108). -/
def RouteCfg.slot (c : RouteCfg) : Option Nat := if c.gating == 2 && c.sigSlot then some c.slotSel else none

/-- Steps 5 to 8 of R464 after the configuration is read. A homed step of a tandem context is refused where the step is
known to be homed (R328; its place in the order is DEDUCED, log 34). -/
def routeCfgCheck (own : Nat) (b : Body) (c : Nat) (hs : List Hank) (cfg : RouteCfg) (x : RouteRec) : Check := do
  failIf (cfgRangeBad cfg x.n) Code.routeRange
  failIf (cfgBad hs cfg x) Code.routeCfg
  failIf (cfg.homeEn && tandemCtx b c) Code.tandemCfg
  failIf (cfg.homeEn && own == noAddress) Code.addrUnlocked
  match cfg.slot with
  | none => pure ()
  | some n => do
    failIf (!(b.slot n).opened || (b.slot n).part.toNat != b.partOf c) Code.calSlotDenied
    failIf (!(b.slot n).curValid) Code.calSlotEmpty

/-! ### The card template (Table 6.3) -/

def tplW (t : List Nat) (i : Nat) : Nat := t.getD i 0
def tplAddr (t : List Nat) (i : Nat) : Nat := tplW t i + 2 ^ 32 * bits (tplW t (i + 1)) 11 0
def tplTokFmt (t : List Nat) : Nat := bits (tplW t 6) 15 12
def tplWFmt (t : List Nat) : Nat := bits (tplW t 6) 19 16
def tplOutFmt (t : List Nat) : Nat := bits (tplW t 6) 23 20
def tplTokBase (t : List Nat) : Nat := tplAddr t 7
def tplRow (t : List Nat) : Nat := bits (tplW t 8) 31 12
def tplWeight (t : List Nat) : Nat := tplAddr t 9
def tplOut (t : List Nat) : Nat := tplAddr t 11
def tplOutRow (t : List Nat) : Nat := bits (tplW t 12) 31 12
def tplStride (t : List Nat) : Nat := tplW t 13

/-- A reserved bit set, or a field that Marlin fills not 0 (R134). -/
def tplReserved (t : List Nat) : Bool :=
  bits (tplW t 0) 23 16 != 0 || [1, 2, 3, 4, 5, 15].any (fun i => tplW t i != 0) || bits (tplW t 6) 11 0 != 0
    || bits (tplW t 6) 31 24 != 0 || bits (tplW t 10) 31 12 != 0

/-- Step 9 of R464. -/
def tplCheck (t : List Nat) : Check := do
  failIf (tplReserved t) Code.cardTplBad
  match fmtOfCode (tplTokFmt t), fmtOfCode (tplWFmt t), fmtOfCode (tplOutFmt t) with
  | some a, some w, some o =>
    failIf (tplTokBase t % fmtHg a != 0 || tplRow t % fmtHg a != 0 || tplWeight t % fmtHg w != 0
      || tplStride t % fmtHg w != 0 || tplOut t % fmtHg o != 0 || tplOutRow t % fmtHg o != 0) Code.layoutAlign
  | _, _, _ => .error Code.fmtUnknown

/-! ### The home map (Table 8.1) -/

/-- Element `j` of a table of I32 hanks. -/
def tableEl (hs : List Hank) (j : Nat) : Nat := hW (hs.getD (j / 4) 0) (j % 4)

/-- The header of the home map. -/
def homeHeader (h : Hank) : HomeMap :=
  { members := [], xg := bits (hW h 0) 23 16, mode := bits (hW h 0) 25 24, win := bits (hW h 1) 16 0, deadline := hW h 2 }

/-- The header's own conditions of HOME_MAP_BAD, for M members. -/
def homeHeaderBad (h : Hank) (m : Nat) : Bool :=
  let win := bits (hW h 1) 16 0
  bits (hW h 0) 15 13 != 0 || bits (hW h 0) 31 26 != 0 || bits (hW h 1) 31 17 != 0 || hW h 3 != 0
    || m == 0 || m > 4096 || win == 0 || win > 65536 || m * win > 65536 || bits (hW h 0) 25 24 == 3

/-- Most slots that one home can be granted (R164). -/
def homeLoad (cfg : RouteCfg) (n : Nat) (home : List Nat) (h : Nat) : Nat :=
  (home.filter (fun x => x == h)).length * (if cfg.capacity == 0 then n else cfg.capacity)

/-- The tables' conditions of HOME_MAP_BAD; `raw` are the elements with their reserved bits. Elements past the last member or expert
in a table's last hank are not checked (DESIGN CHOICE, log 105). -/
def homeTablesBad (own : Nat) (cfg : RouteCfg) (n : Nat) (x : HomeMap) (rawM rawE : List Nat) : Bool :=
  rawM.any (fun v => bits v 31 17 != 0) || rawE.any (fun v => bits v 31 12 != 0) || !ascending x.members
    || !x.members.contains own || x.home.any (fun h => x.members.length ≤ h)
    || (List.range x.members.length).any (fun h => x.win < min n (homeLoad cfg n x.home h))

/-- Step 10 of R464: the home map read and checked. -/
def readHome (own c : Nat) (cfg : RouteCfg) (n : Nat) : Io (Except Nat HomeMap) := do
  let h := (← readAcc c cfg.homeAddr 1).headD 0
  let m := bits (hW h 0) 12 0
  if homeHeaderBad h m then pure (.error Code.homeMapBad)
  else do
    let ms ← readAcc c (cfg.homeAddr + 1) (cdiv m 4)
    let es ← readAcc c (cfg.homeAddr + 1 + cdiv m 4) (cdiv cfg.experts 4)
    let rawM := (List.range m).map (tableEl ms)
    let rawE := (List.range cfg.experts).map (tableEl es)
    let x := { homeHeader h with members := rawM.map (fun v => bits v 16 0), home := rawE.map (fun v => bits v 11 0) }
    if homeTablesBad own cfg n x rawM rawE then pure (.error Code.homeMapBad) else pure (.ok x)

/-! ### The reads of acceptance (R349, R463, R464) -/

/-- What the reads give. -/
structure RoutePlan where
  cfg : RouteCfg
  tpl : List Nat
  home : Option HomeMap
deriving DecidableEq, Repr

/-- GEN_BUSY (R166). -/
def genBusy (b : Body) (xg generation : Nat) : Bool :=
  b.gens.any (fun g => g.live && g.xg == xg && g.generation == generation)

/-- The checks of R464 in order, with the reads they need. -/
def planRoute (own : Nat) (r : CmdRec) : Io (Except Nat RoutePlan) := do
  let x := routeRec r
  match routeRecCheck x with
  | .error e => pure (.error e)
  | .ok () => do
    let hs ← readAcc r.ctx r.addr 4
    let cfg := routeCfg hs
    let b ← Io.get
    match routeCfgCheck own b r.ctx hs cfg x with
    | .error e => pure (.error e)
    | .ok () => do
      let ts ← readAcc r.ctx x.tpl 4
      let tpl := (List.range 16).map (recW ts)
      match tplCheck tpl with
      | .error e => pure (.error e)
      | .ok () =>
        if !cfg.homeEn then pure (.ok { cfg := cfg, tpl := tpl, home := none })
        else do
          let m ← readHome own r.ctx cfg x.n
          let b ← Io.get
          match m with
          | .error e => pure (.error e)
          | .ok m =>
            if genBusy b m.xg x.generation then pure (.error Code.genBusy)
            else pure (.ok { cfg := cfg, tpl := tpl, home := some m })

/-! ### Step ledger and generation table (R151, R166) -/

/-- A COMBINE waits on a ledger entry: it has not started. -/
def combineWaits (b : Body) (uid : Nat) : Bool :=
  b.opens.any (fun o => o.reply.isNone && (match o.work with
    | .combine w => w.uid == uid && !w.started
    | _ => false))

/-- An entry that a full ledger may lose. -/
def removable (b : Body) (l : Ledger) : Bool := l.done && l.completed == l.w && !combineWaits b l.uid

/-- The ledger with room for one entry; none while the ROUTE_STEP must wait. -/
def ledgerRoom (b : Body) (c : Nat) : Option (List Ledger) :=
  let l := (b.ctx c).ledger
  if l.length < 8 then some l
  else (l.find? (removable b)).map (fun e => l.filter (fun x => x.uid != e.uid))

/-- Live entries of the generation table. -/
def liveGens (b : Body) : Nat := (b.gens.filter GenEnt.live).length

/-- What a command's tensors occupy: rows of `hanks` every `row` hanks. -/
def rowsRange (base row hanks n : Nat) : Nat × Nat := if n == 0 then (base, 0) else (base, (n - 1) * row + hanks)

/-- The virtual ranges that a step reads and writes (R15). -/
def routeRanges (x : RouteRec) (p : RoutePlan) : List (Nat × Nat) × List (Nat × Nat) :=
  let hk := fun code => rowHanks ((fmtOfCode code).getD .fp32) x.hidden
  let reads := [rowsRange x.tokBase x.tokRow (hk x.tokFmt) x.n, rowsRange x.wBase x.wRow (hk x.wFmt) p.cfg.experts]
    ++ (if p.cfg.biasEn then [(p.cfg.biasAddr, cdiv p.cfg.experts 4)] else [])
  match p.home with
  | none => (reads, [(x.out, (regionsOf p.cfg x.n none).stop)])
  | some m =>
    let mw := m.members.length * m.win
    (reads, [(x.out, (regionsOf p.cfg x.n (some (mw, m.mode == 2))).stop), (tplTokBase p.tpl, mw * tplRow p.tpl)])

/-- The lowest entry of the generation table that is not live (DESIGN CHOICE, log 38). -/
def freeGenIdx (b : Body) : Nat :=
  ((List.range 64).find? (fun i => !b.gens.any (fun g => g.live && g.idx == i))).getD 0

/-- The generation-table entry of an accepted homed step. -/
def newGen (own : Nat) (b : Body) (r : CmdRec) (x : RouteRec) (p : RoutePlan) (m : HomeMap) (oid uid uidL step : Nat) :
    GenEnt :=
  let g := regionsOf p.cfg x.n (some (m.members.length * m.win, m.mode == 2))
  let hk := fun code => rowHanks ((fmtOfCode code).getD .fp32) x.hidden
  { uid := uid, idx := freeGenIdx b, live := true, xg := m.xg, generation := x.generation, ctx := r.ctx, cls := (b.ctx r.ctx).cls,
    ansHanks := hk (tplOutFmt p.tpl), tokHanks := hk (tplTokFmt p.tpl), stamp := b.now, oid := oid, seq := r.seq,
    uidL := uidL, step := step, map := m, mself := m.members.findIdx (fun a => a == own), tpl := p.tpl, experts := p.cfg.experts,
    deferred := x.defer, n := x.n, counts := List.replicate (2 * m.members.length) 0,
    slotsTo := List.replicate m.members.length 0, rcvFrom := List.replicate m.members.length 0, cellBase := v44 (x.out + g.cells),
    idxBase := v44 (x.out + g.idx), retBase := v44 (x.out + g.ret) }

/-- The work that a record and the reads of its acceptance describe. -/
def plannedWork (x : RouteRec) (p : RoutePlan) : RouteWork :=
  { tokBase := x.tokBase, tokRow := x.tokRow, wBase := x.wBase, wRow := x.wRow, out := x.out, n := x.n, hidden := x.hidden,
    tokFmt := x.tokFmt, wFmt := x.wFmt, cfg := p.cfg, tpl := p.tpl, generation := x.generation, defer := x.defer }

/-- Acceptance of a step whose checks passed: slot bound, step value, ledger entry, with S of a homed step, generation-table entry
(R96, R114, R151, R166, R170). Its home role opens unless its work has to wait for earlier commands (R15, R175). -/
def acceptRoute (own : Nat) (r : CmdRec) (p : RoutePlan) (ledger : List Ledger) (b : Body) : Body :=
  let x := routeRec r
  let c := r.ctx
  let step := (b.ctx c).stepCtr.toNat
  let uidL := b.nextUid
  let uidG := b.nextUid + 1
  let oid := b.nextOid
  let led : Ledger :=
    { uid := uidL, step := step, generation := x.generation, homed := p.home.isSome, gen := p.home.map (fun _ => uidG),
      s := if p.home.isSome then x.n * p.cfg.kp else 0 }
  let w : RouteWork :=
    { plannedWork x p with
      step := step, uid := uidL, slotBuf := p.cfg.slot.map (fun n => (n, (b.slot n).cur)), gen := p.home.map (fun _ => uidG) }
  let ranges := routeRanges x p
  let open_ := !conflict b c oid ranges.1 ranges.2
  let b := match p.home with
    | none => b
    | some m =>
      let g := newGen own b r x p m oid uidG uidL step
      { b with gens := b.gens ++ [{ g with home := { g.home with opened := open_ } }] }
  let b := b.modCtx c (fun x => { x with stepCtr := x.stepCtr + 1, ledger := ledger ++ [led] })
  acceptWork r (.route w) ranges.1 ranges.2 { b with nextUid := b.nextUid + 2 }

/-- A record refused with CAL_SLOT_DENIED is also a hard fault of its context (R97, R349). -/
def refuseRoute (own : Nat) (r : CmdRec) (code : Nat) (b : Body) : Body :=
  if code == Code.calSlotDenied then refuseRec r code (hardFault own r.ctx none r.seq code 13 0 0 [] b)
  else refuseRec r code b

/-- ROUTE_STEP at the head of its queue: refused, accepted, or waiting for the ledger or the generation table. A step that
waits leaves no trace of its checks: it is read again when it is accepted (DEDUCED, log 40). -/
def routeOp (own : Nat) (r : CmdRec) (b0 : Body) : Body :=
  withReads own r (planRoute own r) (fun res b => match res with
    | .error code => refuseRoute own r code b
    | .ok p => match ledgerRoom b r.ctx with
      | none => waitHead r 1 b0
      | some l =>
        if p.home.isSome && 64 ≤ liveGens b then waitHead r 2 b0 else acceptRoute own r p l b) b0

end Sys2Proof.Machine
end

