-- ==== Sys2Proof/Machine/Hawser.lean ====
section
/-! DEFINITION. Hawser: the inverse map, the packets and the staging of the sending role, and the answers of the home role
(spec/08 R168 to R173, R178, R190, R191, R348, spec/12 R295 to R297). One batch holds the unit from its first token to its last END,
or while it is deferred until it is staged; answers of home cards go out between its tokens (DESIGN CHOICE, log 118). -/

namespace Sys2Proof.Machine

def Body.modHome (b : Body) (uid : Nat) (f : HomeRole → HomeRole) : Body :=
  b.modGen uid (fun g => { g with home := f g.home })

/-! ### Packets of a batch (R169 to R173) -/

/-- Pairs (expert, slot) of a token, in slot order, that go to a member. -/
def pairsTo (m : HomeMap) (choice : List Nat) (dest : Nat) : List (Nat × Nat) :=
  (((List.range choice.length).zip choice).filter (fun p => p.2 != noExpert && m.home.getD p.2 0 == dest)).map
    (fun p => (p.2, p.1))

/-- The TOKEN packets of a token in ascending member index; Q counts the packets to the member before it (R169, R171). -/
def tokenPkts (m : HomeMap) (n : Nat) (choices : List (List Nat)) (t : Nat) : List SendPkt :=
  (List.range m.members.length).filterMap (fun d =>
    let ps := pairsTo m (choices.getD t []) d
    if ps.isEmpty then none
    else some { dest := d, half := b2n (m.mode == 2 && halfA n ≤ t), token := t, pairs := ps,
                q := ((choices.take t).filter (fun c => !(pairsTo m c d).isEmpty)).length })

/-- Rounds over `m` members, each with the lowest token left of every member (R172). -/
def rounds (m : Nat) (ps : List SendPkt) : List SendPkt :=
  let per := (List.range m).map (fun d => ps.filter (fun p => p.dest == d))
  (List.range ((per.map List.length).foldl max 0)).flatMap (fun i => per.filterMap (fun l => l[i]?))

/-- The tokens after which the packets and the ENDs of a half are due: half A in halves mode goes before half B (R173). -/
def halfEnd (g : GenEnt) (h : Nat) : Nat := if g.map.mode == 2 && h == 0 then halfA g.n else g.n + 1

/-- Halves that become due as Hawser is passed its tokens up to a place. -/
def halvesDue (g : GenEnt) (upto : Nat) : List Nat := (List.range (halves g)).filter (fun h => g.queued < halfEnd g h && halfEnd g h ≤ upto)

/-- Hawser is passed the tokens of a batch up to a place: in eager mode their packets are due at once, else with their half in rounds;
the ENDs of a half follow its packets (R171 to R173). -/
def passTokens (choices : List (List Nat)) (upto : Nat) (g : GenEnt) : GenEnt :=
  if upto ≤ g.queued then g
  else
    let early := g.early ++ (List.range (min upto g.n - g.queued)).flatMap (fun i => tokenPkts g.map g.n choices (g.queued + i))
    let m := g.map.members.length
    let due := halvesDue g upto
    if g.map.mode == 0 then
      { g with queued := upto, early := [], sendQ := g.sendQ ++ early ++ due.flatMap (endPkts g.map) }
    else
      { g with queued := upto, early := early.filter (fun p => !due.contains p.half),
               sendQ := g.sendQ ++ due.flatMap (fun h => rounds m (early.filter (fun p => p.half == h)) ++ endPkts g.map h) }

/-- The header of a TOKEN packet (Table 8.2). -/
def tokenHeader (g : GenEnt) (p : SendPkt) : Hank :=
  let a := p.pairs.getD 0 (0, 0)
  let w2 := fld 11 0 a.1 + fld 12 12 a.2 + (match p.pairs[1]? with
    | some y => fld 27 16 y.1 + fld 28 28 y.2 + fld 29 29 1
    | none => 0)
  i32Hank [fld 15 0 p.token + fld 27 16 g.mself, exchangeW1 g p.half 0, w2, fld 15 0 p.q + fld 31 16 g.tokHanks]

/-- The first packet of the queue is sent, and counted. -/
def sentOne (g : GenEnt) : GenEnt :=
  match g.sendQ with
  | [] => g
  | p :: rest =>
    if p.isEnd then { g with sendQ := rest, endsSent := g.endsSent + 1 }
    else { g with sendQ := rest, counts := tmod g.counts (2 * p.dest + p.half) (fun n => n + 1),
                  slotsSent := g.slotsSent + p.pairs.length,
                  slotsTo := tmod g.slotsTo p.dest (fun n => n + p.pairs.length) }

/-- Packets of the sending role handed to the switch: POSITION of a stop (Table 11.7). -/
def packetsSent (b : Body) (uid : Nat) : Nat := ((b.gen uid).map (fun g => g.counts.sum + g.endsSent)).getD 0

/-! ### The inverse map (R170) -/

/-- The inverse elements of the tokens that selection has passed. -/
def inverseEls (w : RouteWork) : List Nat := (w.choices.flatten).mapIdx (fun i x => if x == noExpert then 0xFFFFFFFF else i)

/-- Regions of a homed step. -/
def homedRegions (g : GenEnt) (w : RouteWork) : Regions :=
  regionsOf w.cfg w.n (some (g.map.members.length * g.map.win, g.map.mode == 2))

/-- The hanks of the inverse map that are due. One that tokens to come will fill has 0 in their places until then, and elements past
the last slot stay 0 (DESIGN CHOICE, log 73). -/
def inverseDue (g : GenEnt) (w : RouteWork) : List (Nat × Hank) :=
  if (inverseEls w).length ≤ g.inv then []
  else itemsAt (w.out + (homedRegions g w).inv + g.inv / 4) (i32Hanks ((inverseEls w).drop (4 * (g.inv / 4))))

/-- Write the inverse map line by line as far as it is determined. -/
def writeInverse (c oid uid : Nat) : Nat → Io Unit
  | 0 => pure ()
  | n + 1 => do
    let b ← Io.get
    match b.gen uid, routeOf b oid with
    | some g, some w =>
      let items := frontLine (inverseDue g w)
      if items.isEmpty then pure ()
      else do
        writeHanks c (some oid) items
        Io.upd (fun b => act 0 6 0 (b.modGen uid (fun g => { g with
          inv := min (inverseEls w).length (4 * (g.inv / 4 + items.length)) })))
        writeInverse c oid uid n
    | _, _ => pure ()

/-- Every element of a batch's inverse map is in memory. -/
def inverseAll (g : GenEnt) (w : RouteWork) : Bool := g.n * w.cfg.kp ≤ g.inv

/-! ### Staging (R190, Table 8.8) -/

/-- Hawser's request for the staging buffer of a token. -/
def tokenReq (b : Body) (g : GenEnt) : CoilReq := coilReqOf b g.ctx 7 g.tokHanks (some (g.dispatchOid.getD g.oid))

/-- The staging buffer of a packet's token, once it has one. -/
def stagingOf (b : Body) (p : SendPkt) : Option Staging := p.stg.bind (fun k => b.coil.staging.find? (fun x => x.id == k))

/-- Tokens without a staging buffer, in the order in which selection passes them. -/
def unstaged (b : Body) (g : GenEnt) : List Nat :=
  let ps := (hawPkts g).filter (fun (p : SendPkt) => !p.isEnd && (stagingOf b p).isNone)
  (sortKey id (ps.map SendPkt.token)).eraseDups

/-- A row goes into a staging buffer under a number of its own, for a class of commands. -/
def takeStaging (cls : Nat) (buf : CoilBuf) (row : List Hank) (b : Body) : Body :=
  let b := coilTakeFor cls buf { b with nextUid := b.nextUid + 1 }
  { b with coil := { b.coil with staging := b.coil.staging ++ [{ id := b.nextUid - 1, buf := buf, row := row }] } }

/-- The packets of a token bear the number of its staging buffer. -/
def bearStaging (t k : Nat) (g : GenEnt) : GenEnt :=
  let f := fun (p : SendPkt) => if !p.isEnd && p.token == t then { p with stg := some k } else p
  { g with sendQ := g.sendQ.map f, early := g.early.map f }

/-- The energy class of a batch: that of its DISPATCH, else of its ROUTE_STEP (Table 17.2). -/
def batchClass (g : GenEnt) : Nat := if g.dispatchOid.isSome then 4 else 0

/-- Stage a token: its row is read into a buffer, which every packet of the token then bears. Without a buffer nothing
happens. -/
def stageToken (uid t : Nat) : Io Unit := do
  let b ← Io.get
  match b.gen uid with
  | none => pure ()
  | some g => match routeOf b g.oid, coilAsk b (tokenReq b g) with
    | some w, .grant buf => do
      let hs ← readRun g.ctx (w.tokBase + t * w.tokRow) g.tokHanks
      Io.upd (fun b => (takeStaging (batchClass g) buf hs (coilUnwait (tokenReq b g) b)).modGen uid (bearStaging t b.nextUid))
    | _, _ => pure ()

/-! ### Sending (R168, R171 to R173) -/

/-- The last END has been sent: the expected count is fixed, and a DISPATCH completes (R189, R348). -/
def sendDone (own uid : Nat) (b : Body) : Body :=
  match b.gen uid with
  | none => b
  | some g =>
    let b := b.modGen uid (fun g => { g with sent := true, expected := g.slotsSent, dispatchOid := none })
    match g.dispatchOid with
    | some d => complete own d 0 0 0 b
    | none => b

/-- Send what the switch takes: an END, or a TOKEN with the sender's row moved unchanged out of its staging buffer (R168). A TOKEN
whose row has no buffer is not sent. -/
def sendPkts (own uid : Nat) : Nat → Body → Body
  | 0, b => b
  | fuel + 1, b =>
    match b.gen uid with
    | none => b
    | some g => match g.sendQ with
      | [] => if g.n < g.queued && !g.sent then sendDone own uid b else b
      | p :: _ =>
        if !switchTakes own 3 (g.map.members.getD p.dest 0) b then b
        else if p.isEnd then sendPkts own uid fuel ((sendPkt own g p [endHeader g p false] b).modGen uid sentOne)
        else match stagingOf b p with
          | none => b
          | some x => sendPkts own uid fuel (settleStaging ((sendPkt own g p (tokenHeader g p :: x.row) b).modGen uid sentOne))

/-! ### The batch that Hawser holds -/

/-- The sending role of an entry may be served: it is not void or done, and its context is in RUN. -/
def maySend (b : Body) (g : GenEnt) : Bool := g.live && !g.void && !g.sent && (b.ctx g.ctx).st == .run && !frozen b

/-- The load vector of a step is in memory (R172). -/
def loadWritten (w : RouteWork) : Bool := (w.outQ.head?.map Prod.fst).all (fun v => w.cfg.experts < ahead44 w.out v)

/-- How far selection has passed the tokens of a batch, and one place more once the ENDs are due. -/
def passedTo (g : GenEnt) (w : RouteWork) : Nat :=
  match w.stage with
  | .bias => 0
  | .score => w.taken
  | .write => if g.map.mode == 1 && !loadWritten w then g.n else g.n + 1
  | _ => g.n + 1

/-- How far the inverse map lets a batch go: the elements of a token come before its packets (R170). -/
def inverseTo (g : GenEnt) (w : RouteWork) : Nat := if inverseAll g w then g.n + 1 else g.inv / w.cfg.kp

/-- A batch has nothing left that Hawser can do for it: it is sent, or deferred and staged. -/
def batchIdle (b : Body) (g : GenEnt) : Bool := g.deferred && g.n < g.queued && (unstaged b g).isEmpty

/-- A batch with work for Hawser: selection has begun to pass its tokens. -/
def batchWants (b : Body) (g : GenEnt) : Bool :=
  g.live && !g.void && !g.sent && !batchIdle b g && (match routeOf b g.oid with
    | some w => w.taken != 0 || (w.stage != .bias && w.stage != .score)
    | none => false)

/-- A batch that Hawser has to serve. -/
def batchDue (b : Body) (g : GenEnt) : Bool := maySend b g && batchWants b g

/-- Batches that need Hawser. -/
def batchClaims (b : Body) : List Claim := (b.gens.filter (batchDue b)).map (fun g => claimOf b g.oid g.ctx)

/-- The inverse map of a batch goes on; once it is whole its ROUTE_STEP has nothing left to write (R179). -/
def inverseTurn (own uid : Nat) (b : Body) : Body :=
  match b.gen uid with
  | none => b
  | some g => match b.openOf g.oid, routeOf b g.oid with
    | some o, some w =>
      let b := if (inverseDue g w).isEmpty then b
        else stageRun own 6 2 (fun _ => 0) o (writeInverse o.ctx o.oid uid (inverseEls w).length) b
      if w.stage == .send && (b.gen uid).any (fun g => inverseAll g w) then
        modRoute o.oid (fun w => { w with stage := .finished }) b
      else b
    | _, _ => b

/-- Tokens whose inverse elements are in memory become packets. -/
def packetTurn (uid : Nat) (b : Body) : Body :=
  match (b.gen uid).bind (fun g => routeOf b g.oid) with
  | some w => b.modGen uid (fun g => passTokens w.choices (min (passedTo g w) (inverseTo g w)) g)
  | none => b

/-- A batch is staged as far as it gets buffers, and waits for the buffer of the next token. -/
def stageTurn (own uid : Nat) (b : Body) : Body :=
  match b.gen uid with
  | none => b
  | some g =>
    if (unstaged b g).isEmpty then b
    else
      let oid := g.dispatchOid.getD g.oid
      let seq := ((b.openOf oid).map (fun o => o.cmd.seq)).getD g.seq
      engineRun g.oid 5 (streamRun own g.ctx (batchClass g) (some oid) seq 6 (fun b => packetsSent b uid)
        ((unstaged b g).forM (fun t => stageToken uid t))) b

/-- Hawser waits for the buffer of the token that it stages next. -/
def sendWaits (own uid : Nat) (b : Body) : Body :=
  match b.gen uid with
  | none => b
  | some g => if maySend b g && !(unstaged b g).isEmpty then holdForCoil own (tokenReq b g) b else b

/-- A step of a batch, while its context is in RUN. -/
def whileSending (uid : Nat) (f : Body → Body) (b : Body) : Body := if (b.gen uid).any (maySend b) then f b else b

/-- The turn of the batch that Hawser holds: inverse map, staging, packets. -/
def batchTurn (own uid : Nat) (b : Body) : Body :=
  let b := whileSending uid (stageTurn own uid ∘ packetTurn uid) (inverseTurn own uid b)
  let b := whileSending uid (fun b => match b.gen uid with
    | some g => if g.deferred then b else sendPkts own uid (g.sendQ.length + 1) b
    | none => b) b
  sendWaits own uid b

/-- Hawser lets a batch go that is sent, staged for its DISPATCH, void, or whose context has stopped. -/
def dropBatch (b : Body) : Body :=
  match hawBatch b with
  | some g => if batchDue b g then b else dropUnit 6 g.oid b
  | none => { b with units := { b.units with grants := b.units.grants.filter (fun x => x.unit != 6) } }

/-- Hawser takes a batch, if it is free and the batch is first, and serves it. -/
def serveBatch (own : Nat) (g : GenEnt) (b : Body) : Body :=
  if !batchDue b g then b
  else
    let k := takeUnit 6 g.oid (batchClaims b) b
    if k.1 then dropBatch (batchTurn own g.uid k.2) else k.2

/-! ### Answers (R178) -/

/-- The header of an ANSWER (Table 8.2). -/
def answerHeader (g : GenEnt) (t : AnsTask) : Hank :=
  i32Hank [fld 15 0 t.ret + fld 27 16 g.mself, exchangeW1 g t.half 2,
    fld 11 0 t.expert + fld 12 12 (bits t.ret 16 16) + fld 13 13 (b2n t.fail.isSome) + fld 21 14 (t.fail.getD 0),
    fld 31 16 (if t.fail.isSome then 0 else g.ansHanks)]

/-- The chip that an answer goes to. -/
def answerTo (g : GenEnt) (t : AnsTask) : Nat := g.map.members.getD (bits t.ret 28 17) 0

/-- Hawser's request for the staging buffer of an answer (Table 8.8). -/
def answerReq (b : Body) (g : GenEnt) : CoilReq := coilReqOf b g.ctx 7 g.ansHanks (some g.oid)

/-- Hand an answer to the switch. -/
def sendAnswer (own : Nat) (g : GenEnt) (t : AnsTask) (hs : List Hank) (stg : Option Nat) (b : Body) : Body :=
  let pkt : Packet := { dst := answerTo g t, src := own, vc := 4, hanks := answerHeader g t :: hs, origin := true,
                        ctx := some g.ctx, stg := stg }
  settleStaging (act 4 6 0 ((sendPacket own pkt b).modHome g.uid (fun h => { h with
    answers := h.answers.drop 1, answered := h.answered + 1 })))

/-- Send one answer, if the switch takes it: the output row as it stands, out of a staging buffer, or FAIL without a row. -/
def answerNext (own uid : Nat) : Io Unit := do
  let b ← Io.get
  match b.gen uid with
  | none => pure ()
  | some g => match g.home.answers with
    | [] => pure ()
    | t :: _ =>
      if !switchTakes own 4 (answerTo g t) b then pure ()
      else if t.fail.isSome then Io.upd (sendAnswer own g t [] none)
      else match coilAsk b (answerReq b g) with
        | .grant buf => do
          let hs ← readRun g.ctx (tplOut g.tpl + t.row * tplOutRow g.tpl) g.ansHanks
          Io.upd (fun b => sendAnswer own g t hs (some b.nextUid) (takeStaging 4 buf [] (coilUnwait (answerReq b g) b)))
        | _ => pure ()

/-- Hawser may send answers of a home role: some are due, and its context is in RUN. -/
def mayAnswer (b : Body) (g : GenEnt) : Bool := hawRows b g && !frozen b

/-- The next answer needs a staging buffer: the switch takes it, and it brings a row. -/
def answerStages (own : Nat) (b : Body) (g : GenEnt) : Bool :=
  mayAnswer b g && g.home.answers.head?.any (fun t => t.fail.isNone && switchTakes own 4 (answerTo g t) b)

/-- Hawser waits for the staging buffer of the next answer. -/
def answerWaits (own uid : Nat) (b : Body) : Body :=
  match b.gen uid with
  | none => b
  | some g => if answerStages own b g then holdForCoil own (answerReq b g) b else b

/-- Hawser sends the answers that are due, as far as it gets buffers and the switch takes them. -/
def answersTurn (own : Nat) (g : GenEnt) (b : Body) : Body :=
  if !mayAnswer b g then b
  else answerWaits own g.uid (engineRun g.oid 5 (streamRun own g.ctx 4 (some g.oid) g.seq 6
    (fun b => ((b.gen g.uid).map (fun g => g.home.answered)).getD 0)
    ((List.range g.home.answers.length).forM (fun _ => answerNext own g.uid))) b)

/-! ### The whole unit -/

/-- What Hawser has to serve, in R16's order. -/
def hawClaims (b : Body) : List Claim :=
  claimOrder b 6 ((b.gens.filter (fun g => mayAnswer b g || batchDue b g)).map (fun g => claimOf b g.oid g.ctx))

/-- Hawser serves one entry: the answers of its home role, then its batch. -/
def serveHaw (own oid : Nat) (b : Body) : Body :=
  match b.gens.find? (fun g => g.oid == oid) with
  | none => b
  | some g =>
    let b := answersTurn own g b
    match b.gen g.uid with
    | some g => serveBatch own g b
    | none => b

/-- The switch does not take the next packet of an entry. -/
def linkHolds (own : Nat) (b : Body) (g : GenEnt) : Bool :=
  (!g.deferred && g.sendQ.head?.any (fun p => !switchTakes own 3 (g.map.members.getD p.dest 0) b))
    || g.home.answers.head?.any (fun t => !switchTakes own 4 (answerTo g t) b)

/-- What Hawser waits for: context and size of each staging buffer that a role needs next. -/
def hawNeeds (own : Nat) (b : Body) : List (Nat × Nat) :=
  b.gens.flatMap (fun g =>
    (if maySend b g && holdsUnit b 6 g.oid && !(unstaged b g).isEmpty then [(g.ctx, g.tokHanks)] else [])
      ++ (if answerStages own b g then [(g.ctx, g.ansHanks)] else []))

/-- Buffers and requests of Hawser that a voided or ended role leaves behind. -/
def pruneHaw (own : Nat) (b : Body) : Body :=
  let b := settleStaging b
  let needs := hawNeeds own b
  { b with coil := { b.coil with wait := b.coil.wait.filter (fun r =>
    r.req != 7 || needs.any (fun n => r.ctx == some n.1 && r.size == n.2)) } }

/-- Hawser goes on as far as it can. -/
def hawGo (own : Nat) (b : Body) : Body :=
  if frozen b then b
  else
    let b := dropBatch ((hawClaims b).foldl (fun b c => serveHaw own c.oid b) (dropBatch b))
    pruneHaw own (pruneGens { b with gens := b.gens.map (fun (g : GenEnt) => { g with atLink := linkHolds own b g }) })

end Sys2Proof.Machine
end

