-- ==== Sys2Proof/Machine/Marlin.lean ====
section
/-! DEFINITION. Marlin: the card lists of steps, work cards and shape cells, and grants of the unit (spec/06 R132, R136,
R137, R139, spec/12 R296, R297). A list is named by the number of the ROUTE_STEP that it belongs to. -/

namespace Sys2Proof.Machine

/-! ### Lists -/

/-- What Marlin needs of a list: context, open command, ledger entry, step, template, generation-table entry and generation,
experts, bases of the cells and of the index tensor, and per half the counts, row starts and index offsets. -/
structure CardList where
  ctx : Nat
  oid : Nat
  uid : Nat
  step : Nat
  tpl : List Nat
  gen : Option Nat
  generation : Nat
  experts : Nat
  cells : Nat
  idx : Nat
  counts : List (List Nat)
  rowStart : List (List Nat)
  hankOff : List (List Nat)
  walk : List WalkItem
  done : Nat
deriving DecidableEq, Repr

/-- Running sums before each element. -/
def prefixSums (start : Nat) : List Nat → List Nat
  | [] => []
  | x :: l => start :: prefixSums (start + x) l

/-- The list of an open ROUTE_STEP in replicated placement. -/
def routeList (o : Open) (w : RouteWork) : CardList :=
  let r := regionsOf w.cfg w.n none
  let counts := w.load.map LoadCnt.assigned
  { ctx := o.ctx, oid := o.oid, uid := w.uid, step := w.step, tpl := w.tpl, gen := none, generation := 0,
    experts := w.cfg.experts, cells := w.out + r.cells, idx := w.out + r.idx, counts := [counts],
    rowStart := [prefixSums 0 counts], hankOff := [prefixSums 0 (counts.map (fun n => cdiv n 8))], walk := w.walk,
    done := w.outDone }

/-- The list of a home role. -/
def homeList (g : GenEnt) : CardList :=
  { ctx := g.ctx, oid := g.oid, uid := g.uidL, step := g.step, tpl := g.tpl, gen := some g.uid, generation := g.generation,
    experts := g.experts, cells := g.cellBase, idx := g.idxBase, counts := g.home.counts, rowStart := g.home.rowStart,
    hankOff := g.home.hankOff, walk := g.home.walk, done := g.home.emitted }

/-- Every list with something left to produce. -/
def cardLists (b : Body) : List CardList :=
  b.opens.filterMap (fun o => match o.work with
    | .route w => if w.stage == .cards && !w.walk.isEmpty then some (routeList o w) else none
    | _ => none)
  ++ (b.gens.filter (fun g => !g.home.walk.isEmpty && !g.home.ended)).map homeList

/-- The list under a number. -/
def listOf (b : Body) (k : Nat) : Option CardList := (cardLists b).find? (fun l => l.oid == k)

/-- The first item of a list is done. -/
def popItem (k : Nat) (card : Bool) (b : Body) : Body :=
  match listOf b k with
  | none => b
  | some l => match l.gen with
    | some u => b.modGen u (fun g => { g with home := { g.home with
        walk := g.home.walk.drop 1, emitted := g.home.emitted + 1, cards := g.home.cards + b2n card } })
    | none => match b.openOf k with
      | some o => (match o.work with
        | .route w => b.setWork k (.route { w with walk := w.walk.drop 1, outDone := w.outDone + 1 })
        | _ => b)
      | none => b

/-! ### Grants (R16, R271) -/

/-- Lists that may hold Marlin now: their contexts are in RUN. -/
def readyLists (b : Body) : List CardList := (cardLists b).filter (fun l => (b.ctx l.ctx).st == .run)

/-- The lists that wait for Marlin, in R16's terms. -/
def listClaims (b : Body) : List Claim := (readyLists b).map (fun l => claimOf b l.oid l.ctx)

/-- The list that holds Marlin. -/
def heldList (b : Body) : Option CardList := b.mrl.held.bind (fun k => (readyLists b).find? (fun l => l.oid == k))

/-- Marlin is granted under R16; a holder keeps it until its list ends or its context leaves RUN. -/
def grantMarlin (b : Body) : Body :=
  match heldList b with
  | some _ => b
  | none =>
    let b := freeMarlin b
    let cs := listClaims b
    match pickClaim b 4 cs with
    | none => b
    | some c =>
      let b := switchIn c.oid (unpark 4 c.oid (noteGrant 4 c.cls (cs.any (fun x => !x.cls)) b))
      { b with mrl := { b.mrl with held := some c.oid } }

/-- Marlin stages the four hanks of a card in a coil buffer, which it keeps with the list (R135, R271). -/
def cardRoom (own : Nat) (l : CardList) (b : Body) : Bool × Body :=
  if b.mrl.buf.isSome then (true, b)
  else askAll own l.ctx 5 l.oid (fun x b => { b with mrl := { b.mrl with buf := some x } }) [4] b

/-! ### Cells (R132, R177) -/

/-- The address of a cell. -/
def cellAddr (l : CardList) : WalkItem → Nat
  | .cell h x => v44 (l.cells + 1 + h * l.experts + x)
  | _ => v44 l.cells

def at2 (l : List (List Nat)) (h x : Nat) : Nat := (l.getD h []).getD x 0

/-- Rows and cards of a list, over its halves. -/
def CardList.rows (l : CardList) : Nat := (l.counts.map List.sum).sum
def CardList.cards (l : CardList) : Nat := (l.counts.map (fun c => (c.filter (fun n => n != 0)).length)).sum

/-- The words of a cell (Table 6.2, R132). -/
def cellHank (l : CardList) : WalkItem → Hank
  | .cell h x => i32Hank [at2 l.counts h x, at2 l.rowStart h x, at2 l.hankOff h x, l.step]
  | _ => i32Hank [l.rows, 0, l.cards, l.step]

/-- The end of a list: Marlin is free, and the step's cards and cells are complete. -/
def endList (k : Nat) (gen : Option Nat) (b : Body) : Body :=
  let b := freeMarlin b
  match gen with
  | some u => b.modGen u (fun g => { g with homeDone := g.home.sorted.all id })
  | none => match b.openOf k with
    | some o => (match o.work with
      | .route w => b.setWork k (.route { w with stage := .finished })
      | _ => b)
    | none => b

/-- Write one cell; what follows a soft fault is RESUME's (Table 11.7). -/
def writeCell (own : Nat) (l : CardList) (i : WalkItem) (b : Body) : Body :=
  let seq := ((b.openOf l.oid).map (fun o => o.cmd.seq)).getD 0
  let oid := (b.openOf l.oid).map Open.oid
  engineStream own l.ctx 2 oid l.oid seq 4 (fun _ => l.done) (do
    writeHanks l.ctx oid [(cellAddr l i, cellHank l i)]
    Io.upd (fun b => act 0 4 0 (popItem l.oid false b))
    if l.walk.length == 1 then Io.upd (endList l.oid l.gen) else pure ()) b

/-- Marlin goes on as far as it can without the work port: it writes the cells in front of the next card, and takes the
next list when one ends. -/
def marlinCells (own : Nat) : Nat → Body → Body
  | 0, b => b
  | fuel + 1, b =>
    if frozen b then b
    else
      let b := grantMarlin b
      match heldList b with
      | none => b
      | some l => match l.walk with
        | .card _ _ :: _ => (cardRoom own l b).2
        | i :: _ =>
          let b' := writeCell own l i b
          if (heldList b').any (fun l' => l'.oid == l.oid && l'.walk.length == l.walk.length) then b' else marlinCells own fuel b'
        | [] => b

/-- Enough turns to write every cell. -/
def cellTurns (b : Body) : Nat := ((cardLists b).map (fun l => l.walk.length + 1)).sum + 1

def marlinGo (own : Nat) (b : Body) : Body := marlinCells own (cellTurns b) b

/-! ### Cards (R135, R136) -/

/-- LAST_CARD: no further card of the half follows. -/
def lastCard (l : CardList) (h : Nat) : Bool :=
  !(l.walk.drop 1).any (fun i => match i with
    | .card h' _ => h' == h
    | _ => false)

/-- The words of the card of expert `x` of a half (Table 6.3). -/
def cardWords (l : CardList) (h x seq : Nat) : List Nat :=
  let t := l.tpl
  let start := at2 l.rowStart h x
  let index := v44 (l.idx + at2 l.hankOff h x)
  let weight := v44 (tplWeight t + x * tplStride t)
  let out := v44 (tplOut t + start * tplOutRow t)
  [ tplW t 0 + fld 21 16 l.ctx + fld 22 22 (b2n (lastCard l h)) + fld 23 23 (b2n l.gen.isSome),
    l.step, fld 11 0 x + fld 27 12 l.generation, fld 17 0 (at2 l.counts h x), start, index % 2 ^ 32,
    index / 2 ^ 32 + fld 31 12 (bits (tplW t 6) 31 12), tplW t 7, tplW t 8, weight % 2 ^ 32,
    weight / 2 ^ 32, out % 2 ^ 32, out / 2 ^ 32 + fld 31 12 (tplOutRow t), tplW t 13, tplW t 14, seq ]

/-- The four hanks of a card (R135). -/
def cardHanks (ws : List Nat) : List Hank := i32Hanks ws

/-- The ledger entry of a step counts a card (Table 7.2). -/
def countCard (c uid : Nat) (b : Body) : Body :=
  b.modCtx c (fun x => { x with ledger := x.ledger.map (fun e => if e.uid == uid then { e with w := e.w + 1 } else e) })

/-- A card is acknowledged on WP: its SEQ, its table entry, its ledger entry, and its output items (R136, R141, R329). -/
def emitCard (l : CardList) (h x : Nat) (b : Body) : Body :=
  let seq := (b.ctx l.ctx).cardCtr.toNat
  let hs := cardHanks (cardWords l h x seq)
  let e : CardEnt :=
    { ctx := l.ctx, seq := seq, step := l.step, expert := x, uid := l.uid, gen := l.gen, half := h,
      rowStart := at2 l.rowStart h x, rows := at2 l.counts h x }
  let b := b.modCtx l.ctx (fun c => { c with cardCtr := c.cardCtr + 1 })
  let b := { b with mrl := { b.mrl with cards := b.mrl.cards ++ [e], wpo := hs } }
  let b := countCard l.ctx l.uid b
  let b := addItems (some l.oid) (hs.mapIdx (fun i k => (2 ^ 48 + 4 * seq + i, k))) b
  popItem l.oid true (act 0 4 0 (count Cnt.cards 1 (some l.ctx) b))

/-- WP_CARD_ACK: the next card of the list that holds Marlin, if the outstanding-card table lets it go (R136, R139,
R141), and the cells that follow it. -/
def cardAckOp (own : Nat) (b : Body) : Body :=
  if frozen b then b
  else
    let b := marlinGo own b
    match heldList b with
    | none => b
    | some l => match l.walk with
      | .card h x :: _ => if tableBlocks b l.ctx || b.mrl.buf.isNone then b else marlinGo own (emitCard l h x b)
      | _ => b

end Sys2Proof.Machine
end

