-- ==== Sys2Proof/Machine/RouteRun.lean ====
section
/-! DEFINITION. The stages of an accepted ROUTE_STEP after its acceptance: bias, scores and selection, the writes of selection,
flint sorting and cards in replicated placement (spec/05 R109 to R121, spec/06 R126 to R130, spec/08 R179, spec/14 R348). Each stage is one stream, which RESUME takes up where a soft
fault stopped it (Table 11.7). The steps of all contexts share the units (R16). -/

namespace Sys2Proof.Machine

/-! ### Held commands (R15, R306) -/

/-- The oldest command of a context and code that is held and may run now. -/
def heldReady (b : Body) (c code : Nat) : Option Open :=
  b.opens.find? (fun o => o.ctx == c && !o.cmd.isGlobal && o.cmd.code == code && o.held && mayRun b o)

/-- A command is held no longer. -/
def unhold (oid : Nat) (b : Body) : Body := b.modOpen oid (fun o => { o with held := false })

/-- A held command starts; with a homed step its home role opens (R175). -/
def startHeld (oid : Nat) (b : Body) : Body :=
  match (routeOf b oid).bind RouteWork.gen with
  | some u => (unhold oid b).modGen u (fun g => { g with home := { g.home with opened := true } })
  | none => unhold oid b

/-- A command row: a held command of the code that may run now starts; otherwise the head of the queue is taken. -/
def commandRow (own c code : Nat) (accept : CmdRec → Body → Body) (b : Body) : Body :=
  match heldReady b c code with
  | some o => startHeld o.oid b
  | none => withHead own c code accept b

/-! ### Bias (R109) -/

/-- The bias vector is read by selection before the first token is scored. -/
def biasStage (own : Nat) (o : Open) (w : RouteWork) (b : Body) : Body :=
  if !w.cfg.biasEn then modRoute o.oid (fun w => { w with stage := .score }) b
  else stageRun own 2 1 (fun _ => 0) o (do
    let hs ← readRun o.ctx w.cfg.biasAddr (cdiv w.cfg.experts 4)
    let _ ← decodeHanks .fp32 w.cfg.biasAddr w.cfg.experts hs
    Io.upd (modRoute o.oid (fun w => { w with
      stage := .score, bias := (hs.flatMap (groupF32 .fp32 ∘ (fun h => [h]))).take w.cfg.experts }))) b

/-! ### Selection and its writes (R110 to R121) -/

/-- The slot buffer that a step is bound to (R96). -/
def boundBuf (b : Body) (w : RouteWork) : Option SlotBuf := w.slotBuf.map (fun p => (b.slot p.1).buf p.2)

/-- Steps that need selection: from their scores until their selection writes are done (R124). -/
def selectClaims (b : Body) : List Claim :=
  b.opens.filterMap (fun o => match o.work with
    | .route w => if standsAt b o w .score || standsAt b o w .write then some (claimOf b o.oid o.ctx) else none
    | _ => none)

/-- A step in replicated placement whose assignments the flint sorter counts while selection makes them, and then sorts. -/
def sortsHere (b : Body) (o : Open) (w : RouteWork) : Bool :=
  w.gen.isNone && (standsAt b o w .sort || standsAt b o w .write || (standsAt b o w .score && (rowReady w w.taken || w.n == 0)))

/-- Steps and home roles that need the flint sorter (R147). -/
def flintClaims (b : Body) : List Claim :=
  b.opens.filterMap (fun o => match o.work with
    | .route w => if sortsHere b o w then some (claimOf b o.oid o.ctx) else none
    | _ => none)
  ++ (b.gens.filter (halfDue b)).map (fun g => claimOf b g.oid g.ctx)

/-- Buffer sizes of selection: the partial load vector with its position, and in expert-choice mode the candidate lists
(R124, R271). -/
def selectSizes (c : RouteCfg) : List Nat := [c.experts + 2] ++ (if c.ec then pieces (cdiv (c.experts * c.capacity) 8) else [])

/-- Buffer sizes of the flint sorter for `n` assignments: the counts and the assignment list (R147, R271). -/
def flintSizes (experts n : Nat) : List Nat := [cdiv experts 4] ++ pieces (cdiv n 4)

/-- Selection takes its buffers, and the flint sorter's where it takes part. -/
def selectRoom (own : Nat) (o : Open) (w : RouteWork) (b : Body) : Bool × Body :=
  let r := askAll own o.ctx 3 o.oid (fun x => modRoute o.oid (fun w => { w with selBufs := w.selBufs ++ [x] }))
    ((selectSizes w.cfg).drop w.selBufs.length) b
  if !r.1 || w.gen.isSome then r
  else
    let k := takeUnit 3 o.oid (flintClaims r.2) r.2
    if !k.1 then k
    else askAll own o.ctx 4 o.oid (fun x => modRoute o.oid (fun w => { w with fltBufs := w.fltBufs ++ [x] }))
      ((flintSizes w.cfg.experts (w.n * w.cfg.kp)).drop w.fltBufs.length) k.2

/-- What selection has made of a step so far. -/
def selectedOf (w : RouteWork) : Selected :=
  { choices := w.choices, gates := w.gates, load := if w.load.isEmpty then List.replicate w.cfg.experts {} else w.load,
    dropped := w.dropped, nanKeys := w.nanKeys }

/-- The new results of selection, with its counters. -/
def putSelected (o : Open) (old z : Selected) (b : Body) : Body :=
  let c := some o.ctx
  modRoute o.oid (fun w => { w with
    choices := z.choices, gates := z.gates, load := z.load, dropped := z.dropped, nanKeys := z.nanKeys })
    (count Cnt.gateEmpty z.gateEmpty c (count Cnt.nanKey (z.nanKeys - old.nanKeys) c b))

/-- A mica lane hands a complete row to selection, and its buffer is freed. -/
def passRow (oid t : Nat) (b : Body) : Body :=
  let bufs := (((routeOf b oid).map RouteWork.rowBufs).getD []).filter (fun p => p.1 == t)
  modRoute oid (fun w => { w with taken := w.taken + 1, rowBufs := w.rowBufs.filter (fun p => p.1 != t) })
    (coilDrop (bufs.map Prod.snd) b)

/-- Selection takes the next row: outside expert-choice mode it selects the token (R26, R116); in that mode the columns keep
their candidates until every row has come (R119). -/
def selectOne (o : Open) (w : RouteWork) (b : Body) : Body :=
  let t := w.taken
  let b := act 0 2 0 (passRow o.oid t (count Cnt.tokens 1 (some o.ctx) b))
  if w.cfg.ec then b
  else
    let old := selectedOf w
    putSelected o old (selectToken w.cfg (boundBuf b w) w.bias w.step t ((scoreRow w t).map Score.f32) old) b

/-- Every row has been taken: expert-choice mode is resolved, and the writes of selection are due. -/
def selectEnd (o : Open) (w : RouteWork) (b : Body) : Body :=
  let rows := (List.range w.n).map (scoreRow w)
  let old := selectedOf w
  let z := if w.cfg.ec then selectEc w.cfg (boundBuf b w) w.bias w.step (rows.map (fun r => r.map Score.f32)) else old
  let (items, special) := selectionItems w.cfg w.out w.step rows z
  let b := count Cnt.statSpecial special (some o.ctx) (putSelected o old z b)
  modRoute o.oid (fun w => { w with stage := .write, outQ := items, outDone := 0 }) b

/-- Selection takes the rows that are complete, in ascending token index (R26). -/
def selectRows (own oid : Nat) : Nat → Body → Body
  | 0, b => b
  | fuel + 1, b =>
    match b.openOf oid, routeOf b oid with
    | some o, some w =>
      if !standsAt b o w .score then b
      else if w.taken == w.n then selectEnd o w b
      else if rowReady w w.taken then selectRows own oid fuel (selectOne o w b)
      else b
    | _, _ => b

/-- The turn of selection for a step, once it holds selection and its buffers. -/
def selectTurn (own oid : Nat) (b : Body) : Body :=
  match b.openOf oid, routeOf b oid with
  | some o, some w =>
    if !standsAt b o w .score || frozen b then b
    else
      let k := takeUnit 2 oid (selectClaims b) b
      if !k.1 || !(rowReady w w.taken || w.taken == w.n) then k.2
      else
        let r := selectRoom own o w k.2
        if r.1 then selectRows own oid (w.n + 1) r.2 else r.2
  | _, _ => b

/-- Write the queue of a stage line by line. -/
def writeOut (c oid unit : Nat) : Nat → Io Unit
  | 0 => pure ()
  | n + 1 => do
    let b ← Io.get
    match (routeOf b oid).map RouteWork.outQ with
    | none => pure ()
    | some [] => pure ()
    | some (p :: q) => do
      let items := frontLine (p :: q)
      writeHanks c (some oid) items
      Io.upd (fun b => act 0 unit 0 (modRoute oid (fun w => { w with
        outQ := w.outQ.drop items.length, outDone := w.outDone + 1 }) b))
      writeOut c oid unit n

/-- The assigned slots of a step in assignment order (R126): token, slot, expert. -/
def assignments (choices : List (List Nat)) : List (Nat × Nat × Nat) :=
  ((List.range choices.length).zip choices).flatMap (fun p =>
    (((List.range p.2.length).zip p.2).filter (fun q => q.2 != noExpert)).map (fun q => (p.1, q.1, q.2)))

/-- The tokens of an expert's segment, in order. -/
def segmentOf (choices : List (List Nat)) (x : Nat) : List Nat :=
  ((assignments choices).filter (fun a => a.2.2 == x)).map Prod.fst

/-- An index segment, its last hank filled with 0xFFFF (R129). -/
def segmentHanks (ts : List Nat) : List Hank :=
  (chunks 8 ts).map (fun c => u16Hank (c ++ List.replicate (8 - c.length) 0xFFFF))

/-- The inverse map of replicated placement (R130). -/
def inverseMap (w : RouteWork) : List Nat :=
  let starts := prefixSums 0 (w.load.map LoadCnt.assigned)
  ((List.range w.choices.length).zip w.choices).flatMap (fun p =>
    p.2.map (fun x => if x == noExpert then 0xFFFFFFFF
      else starts.getD x 0 + (segmentOf w.choices x).findIdx (fun t => t == p.1)))

/-- What the flint sorter writes (R128 to R130). Elements past the last slot in the inverse map's last hank are 0 (DESIGN CHOICE,
log 73). -/
def flintItems (w : RouteWork) : List (Nat × Hank) :=
  let r := regionsOf w.cfg w.n none
  itemsAt (w.out + r.inv) (i32Hanks (inverseMap w))
    ++ itemsAt (w.out + r.idx) ((List.range w.cfg.experts).flatMap (fun x => segmentHanks (segmentOf w.choices x)))

/-- S of the step's ledger entry. -/
def setLedgerS (c uid s : Nat) (b : Body) : Body :=
  b.modCtx c (fun x => { x with ledger := x.ledger.map (fun e => if e.uid == uid then { e with s := s } else e) })

/-- The selection writes are done: sorting is next, or in homed placement what is left of the inverse map (R128, R170). -/
def afterWrite (o : Open) (w : RouteWork) (b : Body) : Body :=
  match w.gen with
  | none =>
    let s := (w.load.map LoadCnt.assigned).sum
    setLedgerS o.ctx w.uid s
      (modRoute o.oid (fun w => { w with stage := .sort, outQ := flintItems w, outDone := 0 }) b)
  | some _ => modRoute o.oid (fun w => { w with stage := .send, outQ := [], outDone := 0 }) b

/-- A unit has done its part of a step: it is given back and its buffers are freed. -/
def leaveUnit (unit oid : Nat) (bufs : RouteWork → List CoilBuf) (forget : RouteWork → RouteWork) (b : Body) : Body :=
  dropUnit unit oid (modRoute oid forget (coilDrop (((routeOf b oid).map bufs).getD []) b))

/-- Selection leaves a step. -/
def leaveSelect (oid : Nat) (b : Body) : Body :=
  leaveUnit 2 oid RouteWork.selBufs (fun w => { w with selBufs := [], segs := [] }) b

/-- The flint sorter leaves a step. -/
def leaveFlint (oid : Nat) (b : Body) : Body := leaveUnit 3 oid RouteWork.fltBufs (fun w => { w with fltBufs := [] }) b

/-- The writes of selection. -/
def writeStage (own : Nat) (o : Open) (w : RouteWork) (b : Body) : Body :=
  let k := takeUnit 2 o.oid (selectClaims b) b
  if !k.1 then k.2
  else stageRun own 2 2 RouteWork.outDone o (do
    writeOut o.ctx o.oid 2 w.outQ.length
    Io.upd (fun b => leaveSelect o.oid (afterWrite o w b))) k.2

/-! ### Sorting and cards (R126 to R136) -/

/-- What Marlin has to produce for the experts of a half (R136). -/
def walkOf (h : Nat) (counts : List Nat) : List WalkItem :=
  ((List.range counts.length).zip counts).flatMap (fun p =>
    (if p.2 == 0 then [] else [WalkItem.card h p.1]) ++ [WalkItem.cell h p.1])

/-- The writes of the flint sorter; Marlin then has the step's card list. -/
def sortStage (own : Nat) (o : Open) (w : RouteWork) (b : Body) : Body :=
  let k := takeUnit 3 o.oid (flintClaims b) b
  if !k.1 then k.2
  else stageRun own 3 2 RouteWork.outDone o (do
    writeOut o.ctx o.oid 3 w.outQ.length
    Io.upd (fun b => leaveFlint o.oid (modRoute o.oid (fun w => { w with
      stage := .cards, outDone := 0, walk := walkOf 0 (w.load.map LoadCnt.assigned) ++ [.cell0] }) b))) k.2

/-! ### The whole -/

/-- The open steps in R16's order for halyard engines. -/
def routeOrder (b : Body) : List Nat :=
  (claimOrder b 0 (b.opens.filterMap (fun o => match o.work with
    | .route _ => some (claimOf b o.oid o.ctx)
    | _ => none))).map Claim.oid

/-- One turn of the steps of all contexts: bias vectors, arrays, selection, the streams of the later stages, and Hawser. -/
def routeTurn (own : Nat) (b : Body) : Body :=
  let each := fun (f : Nat → Body → Body) (b : Body) => (routeOrder b).foldl (fun b k => f k b) b
  let b := each (fun k b => atStage k .bias (biasStage own) b) b
  let b := each (selectTurn own) (arraysTurn own b)
  let b := each (fun k b => atStage k .write (writeStage own) b) b
  hawGo own (each (fun k b => atStage k .sort (sortStage own) b) b)

/-- How far the steps are, and what they hold: a turn that leaves this as it was makes no progress. -/
def routeMark (b : Body) : List (List Nat) :=
  b.units.grants.map (fun g => [g.unit, g.inst, g.oid, g.item])
  ++ b.opens.filterMap (fun o => match o.work with
    | .route w => some ([o.oid, if (b.ctx o.ctx).st == .run then 1 else 0, w.issued, w.lines, w.taken, w.outQ.length, w.segs.length,
        w.walk.length, w.selBufs.length, w.fltBufs.length] ++ w.units.flatMap (fun u => [unitItem w u, u.kTile, u.rows, u.shadow.length, u.toks.length])
        ++ [match w.stage with
            | .bias => 0 | .score => 1 | .write => 2 | .sort => 3 | .send => 4 | .cards => 5 | .finished => 6])
    | _ => none)
  ++ b.gens.map (fun g => [g.uid, g.inv, g.queued, g.sendQ.length, (unstaged b g).length, g.home.answered])

/-- Turns until no step makes progress. -/
def routeLoop (own : Nat) : Nat → Body → Body
  | 0, b => b
  | fuel + 1, b =>
    let b' := routeTurn own b
    if routeMark b' == routeMark b then b' else routeLoop own fuel b'

/-- Enough turns for every step to go through its stages. -/
def routeTurns (b : Body) : Nat :=
  (b.opens.map (fun o => match o.work with
    | .route w => unitCount w * (2 * kTiles w + 4) + 2 * w.n + 12
    | _ => 0)).sum + 4 * b.gens.length + 4

/-- The steps of all contexts go on as far as they can, and Marlin after them. -/
def routeGo (own : Nat) (b : Body) : Body :=
  if frozen b then b else marlinGo own (routeLoop own (routeTurns b) b)

/-! ### The end of a step (R30, R179) -/

/-- A step has done all that its N_DONE waits for; a home role that ended has no more to do (R189, R224). -/
def routeFinished (b : Body) (w : RouteWork) : Bool :=
  w.stage == .finished && (match w.gen with
    | none => true
    | some u => match b.gen u with
      | none => true
      | some g => g.sent && (g.homeDone || g.home.ended))

/-- The oldest ROUTE_STEP of a context that has finished. -/
def finishedRoute (b : Body) (c : Nat) : Option (Open × RouteWork) :=
  b.opens.findSome? (fun o => match o.work with
    | .route w => if o.ctx == c && o.reply.isNone && routeFinished b w then some (o, w) else none
    | _ => none)

/-- A finished step sends its N_DONE; a voided sending role gives GEN_VOID (R179). -/
def routeDoneOp (own c : Nat) (b : Body) : Body :=
  if frozen b || (b.ctx c).st != .run then b
  else match finishedRoute b c with
    | none => b
    | some (o, w) =>
      let void := ((w.gen.bind b.gen).map GenEnt.void).getD false
      pruneGens (complete own o.oid (if void then Code.genVoid else 0) 0 0 b)

/-! ### DISPATCH (R348) -/

/-- DISPATCH at its acceptance. -/
def dispatchOp (own : Nat) (r : CmdRec) (b : Body) : Body :=
  if tandemRefused b r then refuseRec r Code.tandemCfg b
  else
    let xg := bits (r.b 0) 23 16
    let generation := bits (r.b 0) 15 0
    match liveGen b xg generation with
    | none => refuseRec r Code.genUnknown b
    | some g =>
      if g.ctx != r.ctx || !g.deferred then refuseRec r Code.genUnknown b
      else if g.void then acceptDone own r Code.genVoid [] b
      else
        let oid := b.nextOid
        let b := acceptOpen r (.dispatch g.uid) false [] [] b
        b.modGen g.uid (fun g => { g with deferred := false, dispatchOid := some oid })

end Sys2Proof.Machine
end

