-- ==== Sys2Proof/Machine/Copy.lean ====
section
/-! DEFINITION. Tensor layouts and COPY (spec/09). The engines of a COPY are one stream here: R212 makes its result that of a
single engine. -/

namespace Sys2Proof.Machine

/-! ### Layout descriptors (Table 9.1) -/

def layW (w : List Nat) (i : Nat) : Nat := w.getD i 0
def layRank (w : List Nat) : Nat := bits (layW w 0) 6 4
def layCellEn (w : List Nat) : Bool := bit (layW w 0) 20
def layCellDim (w : List Nat) : Nat := bits (layW w 0) 23 21
def layCellStart (w : List Nat) : Bool := bit (layW w 0) 24
def layCell (w : List Nat) : Nat := layW w 3 + 2 ^ 32 * bits (layW w 4) 11 0

/-- A layout descriptor before a cell is applied. -/
def layoutOf (w : List Nat) : Layout :=
  { fmt := bits (layW w 0) 3 0, rank := layRank w, swzBits := bits (layW w 0) 9 7, swzLow := bits (layW w 0) 14 10,
    swzShift := bits (layW w 0) 19 15, base := layW w 1 + 2 ^ 32 * bits (layW w 2) 11 0,
    ext := (List.range (layRank w)).map (fun d => bits (layW w (5 + d)) 30 0),
    stride := (List.range (layRank w)).map (fun d => if d == 0 then 0 else layW w (9 + d)) }

/-- A reserved bit set, or a word of a dimension at or above RANK that is not 0 (R194). -/
def layReserved (w : List Nat) : Bool :=
  bits (layW w 0) 31 25 != 0 || bits (layW w 2) 31 12 != 0 || bits (layW w 4) 31 12 != 0
    || [14, 15].any (fun i => layW w i != 0) || (List.range 5).any (fun d => bit (layW w (5 + d)) 31)
    || (List.range 5).any (fun d => layRank w ≤ d && (layW w (5 + d) != 0 || (d != 0 && layW w (9 + d) != 0)))

/-- LAYOUT_CFG of a layout descriptor (R194, R201, Table 9.6). -/
def layCfgBad (w : List Nat) : Bool :=
  layReserved w || layRank w == 0 || layRank w > 5 || layRank w ≤ layCellDim w
    || (layCellStart w && (!layCellEn w || layCellDim w == 0))

def layFmt (l : Layout) : Fmt := (fmtOfCode l.fmt).getD .fp32
def Layout.extent (l : Layout) (d : Nat) : Nat := l.ext.getD d 0
def Layout.step (l : Layout) (d : Nat) : Nat := l.stride.getD d 0
/-- Hank groups along dimension 0. -/
def Layout.groups (l : Layout) : Nat := cdiv (l.extent 0) (fmtGe (layFmt l))
def Layout.empty (l : Layout) : Bool := l.ext.any (fun e => e == 0)

/-- LAYOUT_ALIGN (R196). -/
def Layout.alignBad (l : Layout) : Bool :=
  l.base % fmtHg (layFmt l) != 0 || l.stride.any (fun s => s % fmtHg (layFmt l) != 0)

/-- LAYOUT_SWIZZLE (R198). -/
def Layout.swizzleBad (l : Layout) : Bool := l.swzBits > 4 || (l.swzBits != 0 && l.swzShift < l.swzLow + l.swzBits)

/-- The first hank of the group that holds an element (R195). -/
def groupAddr (l : Layout) (i : List Nat) : Nat :=
  let hg := fmtHg (layFmt l)
  let o := i.headD 0 / fmtGe (layFmt l) + ((List.range l.rank).map (fun k => if k == 0 then 0 else i.getD k 0 * l.step k / hg)).sum
  let o := if l.swzBits == 0 then o
    else o ^^^ ((((o >>> l.swzShift) % 2 ^ l.swzBits)) <<< l.swzLow)
  (l.base + o * hg) % 2 ^ 44

/-- The hull as first hank and length; an empty one for an empty tensor (R199). -/
def hull (l : Layout) : Nat × Nat :=
  if l.empty then (l.base, 0)
  else
    let hg := fmtHg (layFmt l)
    let omax := l.groups - 1 + ((List.range l.rank).map (fun d => (l.extent d - 1) * l.step d / hg)).sum
    let block := 2 ^ (l.swzLow + l.swzBits)
    let n := if l.swzBits == 0 then omax + 1 else cdiv (omax + 1) block * block
    (l.base, n * hg)

/-- The nesting test of a destination (R199). -/
def nests (l : Layout) : Bool :=
  let dims := ((List.range l.rank).filter (fun d => d != 0 && l.extent d > 1)).map (fun d => (l.step d, l.extent d))
  let sorted := sortKey Prod.fst dims
  (sorted.foldl (fun (acc : Bool × Nat) p =>
    (acc.1 && acc.2 ≤ p.1, acc.2 + (p.2 - 1) * p.1)) (true, l.groups * fmtHg (layFmt l))).1

/-! ### The copy descriptor (Table 9.4) -/

def cpyMode (w : List Nat) : Nat := bits (layW w 0) 1 0
def cpyDim (w : List Nat) : Nat := bits (layW w 0) 4 2
def cpyPermBits (w : List Nat) : Nat := bits (layW w 0) 19 5
def cpyEngines (w : List Nat) : Nat := bits (layW w 0) 23 20
def cpyShardEn (w : List Nat) : Bool := bit (layW w 0) 24
def cpyAddr (w : List Nat) (i : Nat) : Nat := layW w i + 2 ^ 32 * bits (layW w (i + 1)) 11 0
def cpyPerm (w : List Nat) (rank : Nat) : List Nat := (List.range rank).map (fun i => bits (cpyPermBits w) (3 * i + 2) (3 * i))

def cpyReserved (w : List Nat) : Bool :=
  bits (layW w 0) 31 25 != 0 || [2, 4, 6, 8, 10].any (fun i => bits (layW w i) 31 12 != 0)
    || [11, 12, 13, 14, 15].any (fun i => layW w i != 0)

/-- What the reads of acceptance give: copy descriptor, layout descriptors, shard records. -/
structure CopyReads where
  w : List Nat
  src : List Nat
  dst : List Nat
  idx : Option (List Nat)
  shards : Option (List Hank × List Hank)

/-- The descriptors of a COPY. -/
def CopyReads.descs (r : CopyReads) : List (List Nat) := [r.src, r.dst] ++ r.idx.toList

/-- Row 1 of Table 9.6. -/
def copyCfgBad (r : CopyReads) : Bool :=
  let rank := layRank r.dst
  let perm := cpyPerm r.w rank
  let ident := perm == List.range rank
  let gs := cpyMode r.w != 0
  cpyReserved r.w || r.descs.any layCfgBad || layRank r.src != rank || cpyEngines r.w > 8
    || (gs && (cpyDim r.w == 0 || rank ≤ cpyDim r.w || !ident))
    || !(List.range rank).all (fun i => perm.contains i) || cpyPermBits r.w / 2 ^ (3 * rank) != 0
    || (cpyShardEn r.w && (gs || !ident))
    || (match r.shards with
      | some (a, b) => shardReserved a || shardReserved b
      | none => false)

/-- Both formats are floating-point, or both are I32 or U16 (Table 9.5). -/
def pairBad (s d : Layout) : Bool := fmtIsInt (layFmt s) != fmtIsInt (layFmt d)

/-- Scatter-accumulate into a format that R211 has no addition for. -/
def accBad (mode : Nat) (d : Layout) : Bool :=
  mode == 3 && !(layFmt d == .fp32 || layFmt d == .bf16 || layFmt d == .i32)

/-- Rows 1 to 7 of Table 9.6. -/
def copyCheck (r : CopyReads) : Check := do
  failIf (copyCfgBad r) Code.layoutCfg
  failIf (r.descs.any (fun w => (fmtOfCode (layoutOf w).fmt).isNone)) Code.fmtUnknown
  failIf (pairBad (layoutOf r.src) (layoutOf r.dst)) Code.fmtPair
  failIf (accBad (cpyMode r.w) (layoutOf r.dst)) Code.layoutAcc
  failIf (r.idx.any (fun w => layRank w != 1 || !fmtIsInt (layFmt (layoutOf w)))) Code.layoutIndex
  failIf (r.descs.any (fun w => (layoutOf w).alignBad)) Code.layoutAlign
  failIf (r.descs.any (fun w => (layoutOf w).swizzleBad)) Code.layoutSwizzle

/-- A layout with its cell applied, or SHAPE_RANGE (R200, R201). -/
def applyCell (w : List Nat) (cell : Hank) : Except Nat Layout :=
  let l := layoutOf w
  let d := layCellDim w
  let e := s32 (hW cell 0)
  let s := s32 (hW cell 1)
  if e < 0 || (l.extent d : Int) < e || (layCellStart w && s < 0) then .error Code.shapeRange
  else .ok { l with ext := l.ext.set d e.toNat,
                    base := if layCellStart w then l.base + s.toNat * l.step d else l.base }

/-- Read the cell that a descriptor names, when the command may start (R133, R200). -/
def readCell (c : Nat) (w : List Nat) : Io (Except Nat Layout) := do
  if layCellEn w then do
    let h ← readCellAcc c (layCell w)
    pure (applyCell w h)
  else pure (.ok (layoutOf w))

/-! ### Rows 9 to 11 of Table 9.6 -/

/-- Extents that disagree under R205 or R208, or a hull past 2^44. -/
def copyRangeBad (mode dim : Nat) (perm : List Nat) (s d : Layout) (idx : Option Layout) : Bool :=
  let n := (idx.map (fun l => l.extent 0)).getD 0
  let disagree := (List.range d.rank).any (fun i =>
    if mode != 0 && i == dim then (if mode == 1 then d else s).extent dim != n
    else d.extent i != s.extent (perm.getD i 0))
  let modulus := (if mode == 1 then s else d).extent dim
  disagree || (mode != 0 && n != 0 && modulus == 0)
    || ([s, d] ++ idx.toList).any (fun l => (hull l).2 != 0 && (hull l).1 + (hull l).2 > 2 ^ 44)

/-- The local extent of a shard (Table 9.3). -/
def localExtent (x : ShardDim) : Nat :=
  match x.mode with
  | 1 => let q := cdiv x.glob x.shards; min q (x.glob - x.coord * q)
  | 2 => if x.coord < x.glob then cdiv (x.glob - x.coord) x.shards else 0
  | _ => x.glob

/-- A shard record agrees with a layout (R203). -/
def shardFits (l : Layout) (hs : List Hank) : Bool :=
  shardOk (fmtGe (layFmt l)) hs && (List.range 5).all (fun d =>
    let x := (shardDims hs).getD d ⟨0, 0, 0, 0⟩
    if d < l.rank then localExtent x == l.extent d else x.glob == 1 && x.shards == 1 && x.mode == 0)

/-- LAYOUT_SHARD. -/
def copyShardBad (s d : Layout) : Option (List Hank × List Hank) → Bool
  | none => false
  | some (a, b) => !shardFits s a || !shardFits d b || (List.range 16).any (fun i => recW a i != recW b i)

/-- Source and destination describe the same tensor (R207); the swizzle shifts count only where there is a swizzle. -/
def sameLayout (s d : Layout) : Bool :=
  s.fmt == d.fmt && s.base == d.base && s.ext == d.ext && s.stride == d.stride && s.swzBits == d.swzBits
    && (s.swzBits == 0 || (s.swzLow == d.swzLow && s.swzShift == d.swzShift))

/-- The identity copy (R207). -/
def identityCopy (mode : Nat) (perm : List Nat) (s d : Layout) : Bool :=
  mode == 0 && perm == List.range d.rank && sameLayout s d

/-- LAYOUT_OVERLAP (R199, R207). -/
def copyOverlap (identity : Bool) (s d : Layout) (idx : Option Layout) : Bool :=
  (!d.empty && !nests d)
    || (!identity && (overlaps (hull d) (hull s) || (idx.map (fun l => overlaps (hull d) (hull l))).getD false))

/-- Rows 9 to 11. -/
def copyLate (r : CopyReads) (perm : List Nat) (s d : Layout) (idx : Option Layout) : Check := do
  failIf (copyRangeBad (cpyMode r.w) (cpyDim r.w) perm s d idx) Code.layoutRange
  failIf (copyShardBad s d r.shards) Code.layoutShard
  failIf (copyOverlap (identityCopy (cpyMode r.w) perm s d) s d idx) Code.layoutOverlap

/-- The work of an accepted COPY, its checks passed. -/
def newCopy (r : CopyReads) (s d : Layout) (idx : Option Layout) : CopyWork :=
  let perm := cpyPerm r.w d.rank
  { mode := cpyMode r.w, indexDim := cpyDim r.w, perm := perm,
    engines := if cpyEngines r.w == 0 then 8 else cpyEngines r.w, src := s, dst := d, idx := idx.getD {},
    identity := identityCopy (cpyMode r.w) perm s d }

/-- Read a record of 4 hanks as words. -/
def readRec (c addr : Nat) : Io (List Nat) := do
  let hs ← readAcc c addr 4
  pure ((List.range 16).map (recW hs))

/-- The reads of acceptance with the checks of Table 9.6 (R204, R206). The copy, layout and index descriptors and the shard records
are all read before row 1 is tested, so a fault of one of these reads comes before any refusal (DESIGN CHOICE, log 100). Cells
are read once rows 1 to 7 have passed. -/
def copyReads (c addr : Nat) : Io (Except Nat CopyWork) := do
  let w ← readRec c addr
  let src ← readRec c (cpyAddr w 1)
  let dst ← readRec c (cpyAddr w 3)
  let idx ← if cpyMode w == 0 then pure none else do
    let x ← readRec c (cpyAddr w 5)
    pure (some x)
  let shards ← if cpyShardEn w then do
      let a ← readAcc c (cpyAddr w 7) 4
      let b ← readAcc c (cpyAddr w 9) 4
      pure (some (a, b))
    else pure none
  let r : CopyReads := { w := w, src := src, dst := dst, idx := idx, shards := shards }
  match copyCheck r with
  | .error e => pure (.error e)
  | .ok () => do
    let s ← readCell c src
    let d ← readCell c dst
    let x ← match idx with
      | none => pure (Except.ok none)
      | some i => do
        let l ← readCell c i
        pure (l.map some)
    match s, d, x with
    | .ok s, .ok d, .ok x => (match copyLate r (cpyPerm w d.rank) s d x with
      | .error e => pure (.error e)
      | .ok () => pure (.ok (newCopy r s d x)))
    | _, _, _ => pure (.error Code.shapeRange)

/-! ### The groups of a COPY (R208 to R211) -/

/-- Index elements of hanks. -/
def indexVals (f : Fmt) (hs : List Hank) : List Int :=
  if f == .i32 then hs.flatMap (fun h => (List.range 4).map (fun e => s32 (hW h e)))
  else hs.flatMap (fun h => (List.range 8).map (fun e => (hU16 h e : Int)))

/-- Element `j` of the index tensor. -/
def indexAt (c : Nat) (l : Layout) (j : Nat) : Io Int := do
  let hs ← readRun c (groupAddr l [j]) 1
  pure ((indexVals (layFmt l) hs).getD (j % fmtGe (layFmt l)) 0)

/-- All `L` elements of the index tensor. -/
def indexAll (c : Nat) (l : Layout) : Io (List Int) := do
  let hs ← readHanks c ((List.range l.groups).map (fun g => groupAddr l [g * fmtGe (layFmt l)]))
  pure ((indexVals (layFmt l) hs).take (l.extent 0))

/-- An index reduced (R208). -/
def wrap (n : Nat) (i : Int) : Nat := (i % (n : Int)).toNat

/-- Indices that the reduction changes. -/
def wraps (n : Nat) (is : List Int) : Nat := (is.filter (fun i => (wrap n i : Int) != i)).length

/-- The coordinates of dimensions 1 and up of the `o`-th row of a shape, the lowest dimension first. -/
def outerCoords : List Nat → Nat → List Nat
  | [], _ => []
  | e :: es, o => o % e :: outerCoords es (o / e)

/-- The destination positions along INDEX_DIM that a scatter names, ascending. -/
def namedRows (n : Nat) (is : List Int) : List Nat := (List.range n).filter (fun w => is.any (fun i => wrap n i == w))

/-- Extents of the destination rows that are written: in scatter modes only the named positions along INDEX_DIM. -/
def writtenExts (x : CopyWork) (named : List Nat) : List Nat :=
  (x.dst.ext.drop 1).mapIdx (fun i e => if x.mode ≥ 2 && i + 1 == x.indexDim then named.length else e)

/-- The groups that a COPY writes. -/
def copyGroups (x : CopyWork) (named : List Nat) : Nat := (writtenExts x named).foldl (fun a b => a * b) x.dst.groups

/-- Group `p` of a COPY: its group along dimension 0 and the coordinates of its row. -/
def groupAt (x : CopyWork) (named : List Nat) (p : Nat) : Nat × List Nat :=
  let cs := outerCoords (writtenExts x named) (p / x.dst.groups)
  (p % x.dst.groups,
   cs.mapIdx (fun i v => if x.mode ≥ 2 && i + 1 == x.indexDim then named.getD v 0 else v))

/-- The source coordinates of a destination element: `at_` gives the source position along INDEX_DIM. -/
def sourceCoords (x : CopyWork) (i : List Nat) (at_ : Nat) : List Nat :=
  if x.mode == 0 then (List.range x.dst.rank).map (fun d => i.getD (x.perm.findIdx (fun p => p == d)) 0)
  else i.set x.indexDim at_

/-- Groups move unchanged (Table 9.5). -/
def groupMove (x : CopyWork) : Bool := x.src.fmt == x.dst.fmt && x.perm.getD 0 0 == 0 && x.mode != 3

/-- The elements of a source group as FP32 bits or integers, tags checked for floating-point formats (R56). -/
def sourceGroup (c : Nat) (f : Fmt) (v : Nat) : Io (List Nat) := do
  let hs ← readRun c v (fmtHg f)
  if fmtIsInt f then pure (groupCodes f hs)
  else if tagBad f hs then Io.hard Code.fmtTagMismatch 1 (v44 v)
  else pure (groupF32 f hs)

/-- Elements read so far by group address, so that a unit of output reads a source group once. -/
abbrev GroupCache := List (Nat × List Nat)

/-- One source element. -/
def sourceEl (c : Nat) (l : Layout) (i : List Nat) (cache : GroupCache) : Io (Nat × GroupCache) := do
  let v := groupAddr l i
  let e := i.headD 0 % fmtGe (layFmt l)
  match cache.find? (fun p => p.1 == v) with
  | some p => pure (p.2.getD e 0, cache)
  | none => do
    let xs ← sourceGroup c (layFmt l) v
    pure (xs.getD e 0, cache ++ [(v, xs)])

/-- One addition of a scatter-accumulate (R211). -/
def accEl (f : Fmt) (a b : Nat) : Nat := if f == .i32 then add32 a b else fadd a b

/-- A destination element: the source element, or the old one with the contributions of every source position added. -/
def destEl (c : Nat) (x : CopyWork) (i : List Nat) (srcs : List Nat) (old : Option Nat) (cache : GroupCache) :
    Io (Nat × GroupCache) :=
  match old with
  | none => sourceEl c x.src (sourceCoords x i (srcs.headD 0)) cache
  | some o => srcs.foldlM (fun acc j => do
    let (v, k) ← sourceEl c x.src (sourceCoords x i j) acc.2
    pure (accEl (layFmt x.dst) acc.1 v, k)) (o, cache)

/-- The hanks of a destination group on the conversion path, with its crushed elements. -/
def convertGroup (c : Nat) (x : CopyWork) (g : Nat) (row srcs : List Nat) : Io (List Hank × Nat) := do
  let fd := layFmt x.dst
  let n := min (fmtGe fd) (x.dst.extent 0 - g * fmtGe fd)
  let old ← if x.mode == 3 then do
      let xs ← sourceGroup c fd (groupAddr x.dst (g * fmtGe fd :: row))
      pure (some xs)
    else pure none
  let r ← (List.range n).foldlM (fun (acc : List Nat × GroupCache) k => do
    let (v, cache) ← destEl c x ((g * fmtGe fd + k) :: row) srcs (old.map (fun xs => xs.getD k 0)) acc.2
    pure (acc.1 ++ [v], cache)) ([], [])
  pure (encodeGroup fd r.1)

def modCopy (oid : Nat) (f : CopyWork → CopyWork) (b : Body) : Body :=
  b.modOpen oid (fun o => match o.work with
    | .copy x => { o with work := .copy (f x) }
    | _ => o)

def copyOf (b : Body) (oid : Nat) : Option CopyWork :=
  match b.openOf oid with
  | some o => (match o.work with
    | .copy x => some x
    | _ => none)
  | none => none

/-- The hanks of a destination group: moved unchanged, or converted. -/
def makeGroup (c : Nat) (x : CopyWork) (g : Nat) (row srcs : List Nat) : Io (List Hank × Nat) :=
  if groupMove x then do
    let i := sourceCoords x (g * fmtGe (layFmt x.dst) :: row) (srcs.headD 0)
    let hs ← readRun c (groupAddr x.src i) (fmtHg (layFmt x.dst))
    pure (hs, 0)
  else convertGroup c x g row srcs

/-- A destination group before it is written: its address, hanks, crushed elements and reduced indices. -/
structure CopyUnit where
  addr : Nat
  hanks : List Hank
  crushed : Nat
  wrapped : Nat
deriving DecidableEq, Repr

/-- The next destination group with its index and source reads. A gather reads the index of its row, a scatter the indices that
say which groups are named. -/
def copyForm (c : Nat) (x : CopyWork) (all : List Int) : Io CopyUnit := do
  let n := (if x.mode == 1 then x.src else x.dst).extent x.indexDim
  let (g, row) := groupAt x (namedRows n all) x.pos
  let here := row.getD (x.indexDim - 1) 0
  let one ← if x.mode == 1 then do
      let i ← indexAt c x.idx here
      pure [i]
    else pure []
  let js := (List.range all.length).filter (fun j => wrap n (all.getD j 0) == here)
  let srcs := if x.mode == 1 then one.map (wrap n) else if x.mode == 2 then js.drop (js.length - 1) else js
  let (hs, crushed) ← makeGroup c x g row srcs
  let first := g == 0 && (row.set (x.indexDim - 1) 0).all (fun v => v == 0)
  let w := if x.mode == 1 then (if first then wraps n one else 0) else if x.pos == 0 then wraps n all else 0
  pure { addr := groupAddr x.dst (g * fmtGe (layFmt x.dst) :: row), hanks := hs, crushed := crushed, wrapped := w }

/-- The engine that moves the next group of a COPY: its engines take turns. -/
def engineOfGroup (x : CopyWork) : Nat := x.at_.getD (x.pos % x.at_.length) 0

/-- One unit of output (Table 11.7): the next destination group, formed and written. -/
def copyNext (c oid : Nat) (x : CopyWork) (all : List Int) : Io Unit := do
  let u ← copyForm c x all
  writeHanks c (some oid) (itemsAt u.addr u.hanks)
  Io.upd (fun b => modCopy oid (fun x => { x with pos := x.pos + 1, hanks := x.hanks + u.hanks.length })
    (act 2 0 (engineOfGroup x) (count Cnt.halWrap u.wrapped (some c) (count Cnt.crush u.crushed (some c) b))))

/-- The indices that say which groups a scatter names; none are read where it writes nothing. -/
def scatterIndices (c : Nat) (x : CopyWork) : Io (List Int) :=
  if x.mode ≥ 2 && x.idx.extent 0 != 0 && !x.dst.empty then indexAll c x.idx else pure []

/-- Every group that is left: in scatter modes their number follows from the indices. -/
def copyTurn (c oid : Nat) : Nat → Io Unit
  | 0 => pure ()
  | fuel + 1 => do
    let b ← Io.get
    match copyOf b oid with
    | none => pure ()
    | some x => do
      let all ← scatterIndices c x
      let n := copyGroups x (namedRows (x.dst.extent x.indexDim) all)
      if x.pos < n then do
        copyNext c oid x all
        if x.pos + 1 < n then copyTurn c oid fuel else pure ()
      else pure ()

/-- The most groups that a COPY can have. -/
def maxGroups (x : CopyWork) : Nat := x.dst.ext.foldl (fun a b => a * b) 1 + 1

/-- COPYs that wait for engines. -/
def copyClaims (b : Body) : List Claim := (b.opens.filter (copyWaits b)).map (fun o => claimOf b o.oid o.ctx)

/-- A COPY is granted the engines that are idle when it starts, at least 1 and at most MAX_ENGINES, under R16 (R213). The streams of
other commands have had their turn of the engines before it, if they come first (`driveAll`). -/
def takeEngines (oid max : Nat) (cs : List Claim) (b : Body) : Bool × Body :=
  if holdsUnit b 0 oid then (true, b)
  else match pickClaim b 0 cs, idleEngines b with
    | some c, e :: es =>
      if c.oid != oid then (false, b)
      else
        let b := noteGrant 0 c.cls (cs.any (fun x => !x.cls)) b
        (true, modCopy oid (fun x => { x with at_ := e :: es.take (max - 1) })
          ((e :: es.take (max - 1)).foldl (fun b n => giveUnit 0 n oid 4 b) b))
    | _, _ => (false, b)

/-- Staging of a COPY: one destination group for each of its engines (R271). -/
def copyRoom (own : Nat) (o : Open) (x : CopyWork) (b : Body) : Bool × Body :=
  if !x.bufs.isEmpty then (true, b)
  else askAll own o.ctx 0 o.oid (fun z => modCopy o.oid (fun x => { x with bufs := x.bufs ++ [z] }))
    [(b.units.grants.filter (fun g => g.unit == 0 && g.oid == o.oid)).length * fmtHg (layFmt x.dst)] b

/-- A COPY gives its engines and its staging back. -/
def leaveCopy (oid : Nat) (b : Body) : Body := dropUnit 0 oid (coilDrop (((copyOf b oid).map CopyWork.bufs).getD []) b)

/-- A COPY that holds its engines and its staging moves what is left. -/
def copyStream (own : Nat) (o : Open) (x : CopyWork) (b : Body) : Body :=
  let e := takeEngines o.oid x.engines (copyClaims b) b
  if !e.1 then e.2
  else
    let r := copyRoom own o x e.2
    if !r.1 then r.2
    else
      let s := streamRun own o.ctx 2 (some o.oid) o.cmd.seq 0 (fun b => ((copyOf b o.oid).map CopyWork.pos).getD 0) (do
        copyTurn o.ctx o.oid (maxGroups x)
        Io.upd (fun b => complete own o.oid 0 0 0 (leaveCopy o.oid b))) r.2
      engineWait o.oid 4 s.1 s.2

/-- An accepted COPY goes on; the identity copy completes at once (R207). -/
def driveCopy (own oid : Nat) (b : Body) : Body :=
  match b.openOf oid, copyOf b oid with
  | some o, some x =>
    if (b.ctx o.ctx).st != .run || frozen b || o.held || o.reply.isSome then b
    else if x.identity then complete own oid 0 0 0 b
    else copyStream own o x b
  | _, _ => b

/-- COPY at its acceptance. -/
def copyOp (own : Nat) (r : CmdRec) (b : Body) : Body :=
  withReads own r (copyReads r.ctx r.addr) (fun res b => match res with
    | .error code => refuseRec r code b
    | .ok x =>
      if x.identity then acceptWork r (.copy x) [] [] b
      else
        let idx := if x.mode == 0 then [] else [hull x.idx]
        acceptWork r (.copy x) (hull x.src :: idx) [hull x.dst] b) b

end Sys2Proof.Machine
end

