-- ==== Sys2Proof/Machine/Firmware.lean ====
section
/-! DEFINITION. Rows that write the registers of the tally store (spec/15 R381, R382) and of the assay (spec/18 R455,
R456). -/

namespace Sys2Proof.Machine

/-! ### Tally store -/

/-- A write of TAL_COMMIT: the tally store, and the code of a refused GO, else 0. -/
def talCommitWrite (data : W32) (t : Tally) (b : Body) : Tally × Nat :=
  if data.getLsbD 0 then talGoOp t b else (t, 0)

/-- The row TAL_SEL_WRITE. -/
def execTalSelWrite (data : W32) (s : State) : Host.Outcome State Fault Refusal :=
  s.onAll (fun s => { s with tal := talSelOp data s.tal })

/-- The row TAL_STAGE_DATA_WRITE. -/
def execTalStageDataWrite (data : W32) (s : State) : Host.Outcome State Fault Refusal :=
  s.onAll (fun s => { s with tal := talStageOp data s.tal })

/-- The row TAL_GO: a write of 1 to GO. -/
def execTalGo (s : State) : Host.Outcome State Fault Refusal :=
  s.onAll (fun s => { s with tal := (talGoOp s.tal s.b).1 })

/-! ### Assay by command -/

/-- A write of ASY_CTRL: the fields, then GO (Table 18.10, log 26), with the code of a refused GO, else 0. -/
def asyCtrlWrite (data : W32) (b : Body) : Body × Nat :=
  let b := { b with blk := { b.blk with
    autoCommit := data.getLsbD 1, first := BitVec.ofNat 7 (bits data.toNat 8 2),
    last := BitVec.ofNat 7 (bits data.toNat 15 9) } }
  if data.getLsbD 0 then asyGoOp b else (b, 0)

/-- The row ASY_GO: a write of ASY_CTRL with GO 1. -/
def execAsyGo (data : W32) (s : State) : Host.Outcome State Fault Refusal :=
  regRow 0x200204 (fun b => (asyCtrlWrite (data ||| 1) b).1) s

/-- The wrapper registers are open in FORGE and RETIRED (R456). -/
def wrapperOpen (b : Body) : Bool := b.blk.life == 0 || b.blk.life == 3

/-- A write of ASY_1500_DATA: 32 bits in, 32 bits out, which the spec does not give (log 11). -/
def wrapperShift (data : W32) (b : Body) : Body :=
  if !wrapperOpen b then b
  else
    let (k, b) := fresh b
    { b with blk := { b.blk with data1500 := Config.wrapperOut b.blk.ctrl1500.toNat data.toNat k } }

/-- The row ASY_1500_SHIFT. -/
def execAsy1500Shift (data : W32) (s : State) : Host.Outcome State Fault Refusal :=
  regRow 0x200264 (wrapperShift data) s

end Sys2Proof.Machine
end

