-- ==== Sys2Proof/Machine/Power.lean ====
section
/-! DEFINITION. Rails, temperature, pace, energy, forecast, ceiling and throttle (spec/17). Energies and draws that the
block estimates with coefficients the spec does not give are free values (log 10). -/

namespace Sys2Proof.Machine

/-! ### N_DRAW (R432) -/

/-- A tick's STC second. -/
def secondOf (b : Body) : Nat := b.now / 10 ^ 9

/-- N_DRAW, at most one of each cause in each second. -/
def raiseDraw (cause w2 w3 : Nat) (b : Body) : Body :=
  let s := secondOf b
  if b.pwr.raised.contains (cause, s) then b
  else
    let b := { b with pwr := { b.pwr with raised := b.pwr.raised.filter (fun p => p.1 != cause) ++ [(cause, s)] } }
    notice Ntc.draw none 0 0 1 [cause, s % 2 ^ 32, fld 15 0 w2, fld 15 0 w3 + (if cause == 2 then fld 31 16 (w3 / 2 ^ 16) else 0)] 20 b

/-! ### Static draw (R419, R423) -/

/-- P_s: the static draw at the current rails and at TJ + TJ_MARGIN, in units of 0.1 mW (R423). -/
def staticP (b : Body) : Nat :=
  Config.staticDraw b.pwr.vzc.toNat b.pwr.vzs.toNat (b.pwr.tj.toNat + b.pwr.tjMargin.toNat)

/-- PWR_STATIC, in units of 0.1 W (R419, Table 17.5). -/
def staticNow (b : Body) : Nat := b.pwr.staticMw / 1000

/-! ### Holds (R415, R427) -/

/-- PWR_HELD now: the ticks of ended holds and of one that stands. -/
def heldTicks (b : Body) : Nat :=
  (b.pwr.held.toNat + (if b.pwr.holding then b.now - b.pwr.heldSince else 0)) % 2 ^ 64

/-- A change of the causes of a hold, with the ticks held. The first hold of a second raises BIND (R432). -/
def changeHold (f : Pwr → Pwr) (b : Body) : Body :=
  let p := f b.pwr
  let was := b.pwr.holding
  if was == p.holding then { b with pwr := p }
  else if p.holding then
    raiseDraw 0 b.pwr.c (staticP b / 1000) { b with pwr := { p with heldSince := b.now } }
  else thaw { b with pwr := { p with held := BitVec.ofNat 64 (heldTicks b) } }

/-- THROTTLE_HOLD_START: the bucket has reached 0. -/
def holdStartOp (b : Body) : Body :=
  let b := accrue b
  if b.pwr.bucket ≤ 0 && !b.pwr.binding then changeHold (fun p => { p with binding := true }) b else b

/-- The row THROTTLE_HOLD_START. -/
def execThrottleHoldStart (s : State) : Host.Outcome State Fault Refusal := s.onBody (fun _ b => holdStartOp b)

/-! ### Ceiling (R426, R427, R430) -/

/-- The declared draw of a second: 118.0 W where no publication declared it (R425). -/
def declOf (b : Body) (s : Nat) : Nat := ((b.pwr.decl.find? (fun d => d.1 == s)).map Prod.snd).getD 1180

/-- The sources of the effective ceiling as they stand. -/
def Pwr.src (p : Pwr) : CeilSrc :=
  { inp := p.ceilIn, valid := p.ceilValid, sw := p.ceilSw, fail := p.ceilFail, hold := p.holdToDecl }

/-- A change of a source: the first of a window keeps what stood before it (R431). -/
def changeCeil (now : Nat) (f : Pwr → Pwr) (p : Pwr) : Pwr :=
  if p.ceilAt.any (fun t => windowOf t == windowOf now) then f p
  else { f p with ceilOld := p.src, ceilAt := some now }

/-- The sources that act in the window that starts now: a change in the window itself acts from the following one (R431). -/
def windowSrc (b : Body) : CeilSrc :=
  if b.pwr.ceilAt.any (fun t => windowOf t == windowOf b.now) then b.pwr.ceilOld else b.pwr.src

/-- The second whose declared draw acts in the window that starts now: one that begins with the window acts from the following one
(R431). -/
def windowSecond (b : Body) : Nat := (1024 * windowOf b.now - 1) / 10 ^ 9

/-- The sources of the effective ceiling with their codes (Table 17.8). -/
def ceilSources (b : Body) : List (Nat × Nat) :=
  let p := windowSrc b
  [if p.valid then (p.inp.toNat, 0) else (p.fail.toNat, 1), (p.sw.toNat, 2)]
    ++ (if p.hold then [(declOf b (windowSecond b), 3)] else [])

/-- The least source; the lower code where two are equal. -/
def effectiveCeil (b : Body) : Nat × Nat :=
  match ceilSources b with
  | [] => (0, 0)
  | x :: xs => xs.foldl (fun m y => if y.1 < m.1 then y else m) x

/-- C × 1.024 µs in units of 10^-13 J, C in units of 0.1 W (R427). -/
def windowGain (c : Nat) : Nat := c * 1024000

/-- What the window that starts now has already drawn: it comes after the window's gain and cap (R8). -/
def windowSpent (b : Body) : Nat := if b.pwr.winAt == windowOf b.now then b.pwr.winSpent else 0

/-- The bucket after a window's gain and cap. -/
def windowBucket (b : Body) (c : Nat) : Int :=
  min (b.pwr.bucket + windowSpent b + windowGain c) (2 * windowGain c) - windowSpent b

/-- THROTTLE_WINDOW, once for each window of 1,024 ticks: the ceiling in effect, the bucket's gain and cap, the end of a hold,
and FLOOR. -/
def windowOp (b : Body) : Body :=
  if b.pwr.win == some (windowOf b.now) then b
  else
    let b := accrue b
    let (c, src) := effectiveCeil b
    let bucket := windowBucket b c
    let b := { b with pwr := { b.pwr with
      c := c, source := src, bucket := bucket, floor := c * 1000 ≤ staticP b, ceilLost := !b.pwr.ceilValid,
      win := some (windowOf b.now) } }
    let b := if 0 < bucket then changeHold (fun p => { p with binding := false }) b else b
    if c * 1000 ≤ staticP b then raiseDraw 4 c (staticP b / 1000) b else b

/-- CEIL_CHANGE: the inputs as sampled; a fall of PWR_CEIL_VALID raises CEIL_LOST with the last PWR_CEIL. -/
def ceilChangeOp (ceil : BitVec 12) (valid : Bool) (b : Body) : Body :=
  let old := b.pwr
  let b := { b with pwr := changeCeil b.now (fun p => { p with ceilIn := ceil, ceilValid := valid, ceilLost := !valid }) old }
  if old.ceilValid && !valid then raiseDraw 3 old.ceilFail.toNat old.ceilIn.toNat b else b

/-- The row CEIL_CHANGE. -/
def execCeilChange (ceil : BitVec 12) (valid : Bool) (s : State) : Host.Outcome State Fault Refusal :=
  s.onBody (fun _ b => ceilChangeOp ceil valid b)

/-! ### Rails, temperature and pace (R415 to R418) -/

/-- RAIL_READING (R415). -/
def railOp (vzc vzs : BitVec 10) (b : Body) : Body :=
  let b := accrue b
  let low := vzc.toNat < 650 || vzs.toNat < 750
  let high := vzc.toNat > 850 || vzs.toNat > 900
  let b := { b with pwr := { b.pwr with
    vzc := vzc, vzs := vzs, railLow := b.pwr.railLow || low, railHigh := b.pwr.railHigh || high } }
  let b := if vzs.toNat < 740 then changeHold (fun p => { p with sramHold := true }) b
    else if 750 ≤ vzs.toNat then changeHold (fun p => { p with sramHold := false }) b else b
  if low || high then raiseDraw 5 vzc.toNat vzs.toNat b else b

/-- TEMP_REPORT (R416). -/
def tempOp (tj : BitVec 8) (sensor : BitVec 4) (b : Body) : Body :=
  let b := accrue b
  let was := b.pwr.tj.toNat
  let b := { b with pwr := { b.pwr with tj := tj, sensor := sensor } }
  if was < 105 && 105 ≤ tj.toNat then
    raiseDraw 6 tj.toNat sensor.toNat { b with pwr := { b.pwr with hot := true } }
  else b

/-- The row TEMP_REPORT. -/
def execTempReport (tj : BitVec 8) (sensor : BitVec 4) (s : State) : Host.Outcome State Fault Refusal :=
  s.onBody (fun _ b => tempOp tj sensor b)

/-- RATE of a count (R417); half way between two values either may result (log 32). -/
def paceRate (count k : Nat) : Nat :=
  let n := count * 10000
  let q := n / 65536
  let r := n % 65536
  if r < 32768 then q else if 32768 < r then q + 1 else if Config.paceTieUp k then q + 1 else q

/-- PACE_WINDOW_END (R417, R418): once at the end of each window of 65,536 ticks. -/
def paceEndOp (count : BitVec 32) (b : Body) : Body :=
  let w := b.now / 65536
  if w == 0 || b.pwr.paceWin == some w then b
  else
    let (k, b) := fresh b
    let r := BitVec.ofNat 16 (paceRate count.toNat k)
    { b with pwr := { b.pwr with
        rate := r, min := if r < b.pwr.min then r else b.pwr.min, max := if b.pwr.max < r then r else b.pwr.max,
        paceWin := some w } }

/-- The row PACE_WINDOW_END. -/
def execPaceWindowEnd (count : BitVec 32) (s : State) : Host.Outcome State Fault Refusal :=
  s.onBody (fun _ b => paceEndOp count b)

/-- CLR of PWR_PACE_CTRL (R418). -/
def paceClrOp (b : Body) : Body := { b with pwr := { b.pwr with min := b.pwr.rate, max := b.pwr.rate } }

/-- The row PACE_CLR. -/
def execPaceClr (s : State) : Host.Outcome State Fault Refusal := regRow 0x200008 paceClrOp s

/-! ### Forecast (R422 to R425, R431) -/

/-- The hints shifted down by one bin (R424). -/
def shiftHints (p : Pwr) : List Nat := (p.hint.drop 1) ++ [p.hintDefault.toNat]

/-- The shift of the publication of second `s`, once. -/
def Pwr.shiftOnce (s : Nat) (p : Pwr) : Pwr :=
  if p.hintAt == some s then p else { p with hint := shiftHints p, hintAt := some s }

/-- A write of a hint or of HINT_DEFAULT: from the publication tick of its second on it applies after the shift (R8, R424). -/
def hintWrite (now : Nat) (f : Pwr → Pwr) (p : Pwr) : Pwr := f (p.shiftOnce (now / 10 ^ 9))

/-- SECOND_END, once for each second that has ended: its average draw, and BREACH (R425). -/
def secondEndOp (b : Body) : Body :=
  let s := secondOf b
  if s == 0 || b.pwr.ended == some (s - 1) then b
  else
    let b := accrue b
    let e := b.pwr.endEnergy
    let d := declOf b (s - 1)
    let act := e / 10 ^ 12
    let b := { b with pwr := { b.pwr with actLast := act, ended := some (s - 1) } }
    if d * 10 ^ 12 < e then raiseDraw 1 act d { b with pwr := { b.pwr with breached := true } } else b

/-- The row SECOND_END. -/
def execSecondEnd (s : State) : Host.Outcome State Fault Refusal := s.onBody (fun _ b => secondEndOp b)

end Sys2Proof.Machine
end

