-- ==== Sys2Proof/Machine/Home.lean ====
section
/-! DEFINITION. The home role of an exchange: TOKEN and END packets, the sort of a half, completions of work cards and the
answers of home cards (spec/08 R175 to R178, spec/06 R140 to R142). -/

namespace Sys2Proof.Machine

/-! ### Packets of an exchange (R167) -/

def exKind (p : Packet) : Nat := bits (hW (pktHead p) 1) 27 26
def exGeneration (p : Packet) : Nat := bits (hW (pktHead p) 1) 15 0
def exXg (p : Packet) : Nat := bits (hW (pktHead p) 1) 23 16
def exHalf (p : Packet) : Nat := bits (hW (pktHead p) 1) 25 25
def exMember (p : Packet) : Nat := bits (hW (pktHead p) 0) 27 16
def exToken (p : Packet) : Nat := bits (hW (pktHead p) 0) 15 0
def exQ (p : Packet) : Nat := bits (hW (pktHead p) 3) 15 0
def exP (p : Packet) : Nat := bits (hW (pktHead p) 3) 31 16

/-- The pairs (expert, slot) of a TOKEN packet. -/
def exPairs (p : Packet) : List (Nat × Nat) :=
  let w := hW (pktHead p) 2
  (bits w 11 0, bits w 12 12) :: (if bit w 29 then [(bits w 27 16, bits w 28 28)] else [])

/-- The entry whose home role takes packets of an exchange. A role that has ended still takes and discards them while its
entry is kept (DESIGN CHOICE, log 35). -/
def homeOf (b : Body) (xg generation : Nat) : Option GenEnt :=
  b.gens.find? (fun g => g.home.opened && g.xg == xg && g.generation == generation)

/-- A packet of a kind on VC3 whose home role is open here; others are held (R175). A packet of the reserved KIND 3, or of a kind
that belongs on another channel, is taken by no unit and holds its channel (DESIGN CHOICE, log 107). -/
def forHome (b : Body) (kind : Nat) (p : Packet) : Bool :=
  p.vc == 3 && exKind p == kind && (b.blk.shut || (homeOf b (exXg p) (exGeneration p)).isSome)

/-! ### TOKEN packets (R175) -/

/-- HOME_PACKET. -/
def tokenBad (g : GenEnt) (p : Packet) : Bool :=
  g.map.members.length ≤ exMember p || g.map.win ≤ exQ p
    || g.home.toks.any (fun t => t.member == exMember p && t.q == exQ p) || exP p != g.tokHanks
    || (exPairs p).any (fun x => g.map.home[x.1]? != some g.mself)

/-- The receive row of a packet. -/
def receiveRow (g : GenEnt) (p : Packet) : Nat := tplTokBase g.tpl + (exMember p * g.map.win + exQ p) * tplRow g.tpl

/-- What the home role keeps of a TOKEN packet. -/
def homeTok (p : Packet) : HomeTok :=
  { member := exMember p, q := exQ p, half := exHalf p, pairs := exPairs p, token := exToken p }

/-- The switch's request for the receive staging of a packet (Table 8.8). -/
def receiveReq (b : Body) (g : GenEnt) (p : Packet) : CoilReq := coilReqOf b g.ctx 9 (exP p) (some g.oid)

/-- A packet in the receive buffer takes another form. -/
def putPacket (p q : Packet) (b : Body) : Body :=
  let rest := b.fab.rx.dropWhile (fun x => x != p)
  { b with fab := { b.fab with rx := b.fab.rx.takeWhile (fun x => x != p) ++ (if rest.isEmpty then [] else q :: rest.drop 1) } }

/-- A packet leaves the receive buffer, and its receive staging is freed (Table 8.8). -/
def dropPacket (p : Packet) (b : Body) : Body := consumePacket p (coilDrop p.buf.toList b)

/-- A miss of a stream is noted. -/
def Io.missed (f : Body → Body) (m : Io Unit) : Io Unit := fun b =>
  match m b with
  | (.error (.soft level access v), b') => (.error (.soft level access v), f b')
  | r => r

/-- The payload of a TOKEN packet is written to its receive row; after a miss the home context receives no more until RESUME
(R278). -/
def writeToken (own : Nat) (g : GenEnt) (p : Packet) (b : Body) : Body :=
  runStream own g.ctx (some g.oid) g.seq 7 (fun b => ((b.gen g.uid).map (fun g => g.home.toks.length)).getD 0) (do
    Io.missed (fun b => b.modCtx g.ctx (fun x => { x with rcvStop := true }))
      (writeHanks g.ctx none (itemsAt (receiveRow g p) (pktPayload p)))
    Io.upd (fun b => (dropPacket p b).modHome g.uid (fun h => { h with toks := h.toks ++ [homeTok p] }))) b

/-- A TOKEN packet of an open home role: discarded with HOME_PACKET, or written to its receive row through the home
context's translation; a packet whose write misses stays in the receive buffer with its staging until RESUME (Table 11.7,
R278). Without a staging buffer it waits (Table 8.8). -/
def tokenOp (own : Nat) (p : Packet) (b : Body) : Body :=
  match homeOf b (exXg p) (exGeneration p) with
  | none => dropPacket p b
  | some g =>
    if b.blk.shut || g.home.ended then dropPacket p b
    else if tokenBad g p then hardFault own g.ctx (some g.oid) g.seq Code.homePacket 7 0 0 [] (dropPacket p b)
    else if (b.ctx g.ctx).rcvStop then b
    else if p.buf.isSome then writeToken own g p b
    else match coilAsk b (receiveReq b g p) with
      | .grant buf =>
        let q := { p with buf := some buf }
        writeToken own g q (putPacket p q (coilTake buf (coilUnwait (receiveReq b g p) b)))
      | .wait _ => holdForCoil own (receiveReq b g p) b
      | .quotaFault => quotaFault own (receiveReq b g p) (dropPacket p b)

/-- TOKEN_PACKET_RECEIVE. -/
def tokenRow (own : Nat) (b : Body) : Body :=
  if frozen b then b
  else match frontPacket (forHome b 0) b with
    | none => b
    | some p => tokenOp own p b

/-! ### END packets (R176) -/

/-- An END is held by the home role. -/
def endOp (p : Packet) (b : Body) : Body :=
  match homeOf b (exXg p) (exGeneration p) with
  | none => b
  | some g =>
    if b.blk.shut || g.home.ended || g.home.ends.any (fun e => e.1 == exHalf p && e.2.1 == exMember p) then b
    else b.modHome g.uid (fun h => { h with ends := h.ends ++ [(exHalf p, exMember p, bits (hW (pktHead p) 2) 16 0)] })

/-- END_PACKET_RECEIVE. -/
def endRow (_own : Nat) (b : Body) : Body := withPacket (forHome b 1) endOp b

/-! ### The sort of a half (R176, R177) -/

/-- TOKEN packets of a half held from a member. -/
def tokCount (g : GenEnt) (half m : Nat) : Nat := (g.home.toks.filter (fun t => t.half == half && t.member == m)).length

/-- The half holds a member's END and as many packets as it counts. -/
def memberComplete (g : GenEnt) (half m : Nat) : Bool :=
  g.home.ends.any (fun e => e.1 == half && e.2.1 == m && e.2.2 == tokCount g half m)

/-- A half is complete. -/
def halfComplete (g : GenEnt) (half : Nat) : Bool :=
  (List.range g.map.members.length).all (memberComplete g half)

/-- A received pair: expert, index value, return-map element. -/
structure HomePair where
  expert : Nat
  index : Nat
  ret : Nat
deriving DecidableEq, Repr

/-- The pairs of a half in the home assignment order (R176). -/
def homePairs (g : GenEnt) (half : Nat) : List HomePair :=
  let ts := sortKey (fun (t : HomeTok) => t.member * 65536 + t.q) (g.home.toks.filter (fun t => t.half == half))
  ts.flatMap (fun t => t.pairs.map (fun x =>
    { expert := x.1, index := t.member * g.map.win + t.q, ret := fld 15 0 t.token + fld 16 16 x.2 + fld 28 17 t.member }))

/-- The sort of a half: counts, row starts, index offsets, the return map so far, and the hanks to write. The rows and
segments of half B follow those of half A; a return-map hank that both share is written again with the elements of both. -/
def sortHalf (half : Nat) (g : GenEnt) : GenEnt :=
  let ps := homePairs g half
  let segs := (List.range g.experts).map (fun x => ps.filter (fun p => p.expert == x))
  let counts := segs.map List.length
  let starts := prefixSums g.home.rows counts
  let offs := prefixSums g.home.hanks (counts.map (fun n => cdiv n 8))
  let index := segs.flatMap (fun s => segmentHanks (s.map HomePair.index))
  let ret := g.home.ret ++ segs.flatMap (fun s => s.map HomePair.ret)
  let first := g.home.ret.length / 4
  { g with home := { g.home with
      counts := tset g.home.counts half counts, rowStart := tset g.home.rowStart half starts,
      hankOff := tset g.home.hankOff half offs, ret := ret, rows := g.home.rows + ps.length,
      hanks := g.home.hanks + index.length, outDone := 0,
      outQ := itemsAt (g.idxBase + g.home.hanks) index
        ++ itemsAt (g.retBase + first) (i32Hanks (ret.drop (4 * first))) } }

/-- HOME_DONE: every card of the home role has been emitted (Table 8.12). -/
def cardsEmitted (g : GenEnt) : Bool :=
  g.home.sorted.all id && g.home.cards == (g.home.counts.flatten.filter (fun n => n != 0)).length

/-- Write the queue of a home role line by line. -/
def writeHome (c uid oid : Nat) : Nat → Io Unit
  | 0 => pure ()
  | n + 1 => do
    let b ← Io.get
    match (b.gen uid).map (fun g => g.home.outQ) with
    | none => pure ()
    | some [] => pure ()
    | some (p :: q) => do
      let items := frontLine (p :: q)
      writeHanks c (some oid) items
      Io.upd (fun b => act 0 3 0 (b.modHome uid (fun h => { h with
        outQ := h.outQ.drop items.length, outDone := h.outDone + 1 })))
      writeHome c uid oid n

/-- The writes of a half are done: Marlin has its cards, and after the last half cell 0. -/
def halfDone (half : Nat) (g : GenEnt) : GenEnt :=
  let last := half + 1 == halves g
  { g with home := { g.home with
      sorted := if last then [true, true] else [true, false],
      walk := g.home.walk ++ (walkOf half (g.home.counts.getD half []) ++ (if last then [.cell0] else [])) } }

/-- A half takes the flint sorter and its buffers (R16, R147, R271). -/
def sortRoom (own : Nat) (g : GenEnt) (h : Nat) (b : Body) : Bool × Body :=
  let k := takeUnit 3 g.oid (flintClaims b) b
  if !k.1 then k
  else askAll own g.ctx 4 g.oid (fun x b => b.modHome g.uid (fun r => { r with fltBufs := r.fltBufs ++ [x] }))
    ((flintSizes g.experts (g.home.counts.getD h []).sum).drop g.home.fltBufs.length) k.2

/-- The flint sorter leaves a half. -/
def leaveSort (uid oid : Nat) (b : Body) : Body :=
  let bufs := ((b.gen uid).map (fun g => g.home.fltBufs)).getD []
  dropUnit 3 oid ((coilDrop bufs b).modHome uid (fun h => { h with fltBufs := [] }))

/-- The flint writes of a sorted half go on (Table 11.7). -/
def driveHomeWrites (own uid : Nat) (b : Body) : Body :=
  match b.gen uid with
  | none => b
  | some g => match nextHalf g with
    | none => b
    | some h =>
      if !halfDue b g || frozen b then b
      else
        let r := sortRoom own g h b
        if !r.1 then r.2
        else engineStream own g.ctx 2 (some g.oid) g.oid g.seq 3 (fun b => ((b.gen uid).map (fun g => g.home.outDone)).getD 0) (do
            writeHome g.ctx uid g.oid g.home.outQ.length
            Io.upd (fun b => leaveSort uid g.oid (b.modGen uid (halfDone h)))) r.2

/-- The first home role with a half to sort. -/
def sortReady (b : Body) : Option GenEnt :=
  b.gens.find? (fun g => g.home.opened && !g.home.ended && (b.ctx g.ctx).st == .run && (match nextHalf g with
    | some h => (g.home.counts.getD h []).isEmpty && halfComplete g h
    | none => false))

/-- The row HOME_HALF_SORT: a complete half is sorted and written. -/
def homeSortOp (own : Nat) (b : Body) : Body :=
  if frozen b then b
  else match sortReady b with
    | none => b
    | some g => driveHomeWrites own g.uid (b.modGen g.uid (sortHalf ((nextHalf g).getD 0)))

/-! ### Completions (R140 to R142) -/

def cplSeq (h : Hank) : Nat := hW h 0
def cplStep (h : Hank) : Nat := hW h 1
def cplCtx (h : Hank) : Nat := bits (hW h 2) 5 0
def cplExpert (h : Hank) : Nat := bits (hW h 2) 17 6
def cplStatus (h : Hank) : Nat := bits (hW h 3) 7 0
def cplReserved (h : Hank) : Bool := bits (hW h 2) 31 18 != 0 || bits (hW h 3) 31 8 != 0

/-- The entry that a completion matches. -/
def cplEntry (b : Body) (h : Hank) : Option CardEnt :=
  if cplReserved h then none
  else b.mrl.cards.find? (fun e => e.ctx == cplCtx h && e.seq == cplSeq h && e.step == cplStep h && e.expert == cplExpert h)

/-- A stray completion belongs to no context: it is counted for the whole block alone (R389). -/
def strayCpl (b : Body) : Body :=
  count Cnt.wpStray 1 none { b with mrl := { b.mrl with stray := true } }

/-- The ledger entry of a card counts its completion, and the first failure (R142, Table 7.2). -/
def ledgerCpl (e : CardEnt) (status : Nat) (b : Body) : Body :=
  b.modCtx e.ctx (fun x => { x with ledger := x.ledger.map (fun l =>
    if l.uid != e.uid then l
    else
      let l := { l with completed := l.completed + 1 }
      if status == 0 || l.failed then l else { l with failed := true, failExpert := e.expert, failStatus := status }) })

/-- The answers that a completed home card is owed. -/
def homeTasks (e : CardEnt) (status : Nat) (h : HomeRole) : HomeRole :=
  if h.ended then h
  else { h with answers := h.answers ++ (List.range e.rows).map (fun i =>
    { row := e.rowStart + i, ret := h.ret.getD (e.rowStart + i) 0, expert := e.expert, half := e.half,
      fail := if status == 0 then none else some status }) }

/-- A completion hank on WP; while the block is frozen it stays in the bridge of WP (R408, R427). -/
def completionOp (h : Hank) (b : Body) : Body :=
  if frozen b then { b with mrl := { b.mrl with bridge := b.mrl.bridge ++ [h] } }
  else match cplEntry b h with
    | none => strayCpl b
    | some e =>
      let b := { b with mrl := { b.mrl with cards := b.mrl.cards.erase e } }
      if e.dead then strayCpl b
      else
        let st := cplStatus h
        let b := ledgerCpl e st b
        let b := if st == 0 then b else { b with mrl := { b.mrl with failed := true, lastStatus := st } }
        match e.gen with
        | none => b
        | some u => b.modHome u (homeTasks e st)

end Sys2Proof.Machine
end

