-- ==== Sys2Proof/Machine/Splice.lean ====
section
/-! DEFINITION. The splice engine: COMBINE at its acceptance, the combined row, and COMBINE in both placements (spec/07). -/

namespace Sys2Proof.Machine

/-! ### The descriptor (Table 7.1) -/

def cmbW (w : List Nat) (i : Nat) : Nat := w.getD i 0
def cmbAddr (w : List Nat) (i : Nat) : Nat := cmbW w i + 2 ^ 32 * bits (cmbW w (i + 1)) 11 0
def cmbTokens (w : List Nat) : Nat := bits (cmbW w 0) 16 0
def cmbKp (w : List Nat) : Nat := bits (cmbW w 0) 19 17
def cmbInFmt (w : List Nat) : Nat := bits (cmbW w 0) 23 20
def cmbDstFmt (w : List Nat) : Nat := bits (cmbW w 0) 27 24
def cmbAddEn (w : List Nat) : Bool := bit (cmbW w 0) 28
def cmbEmptyKeep (w : List Nat) : Bool := bit (cmbW w 0) 29
def cmbHidden (w : List Nat) : Nat := bits (cmbW w 1) 15 0
def cmbAddFmt (w : List Nat) : Nat := bits (cmbW w 1) 19 16
def cmbGeneration (w : List Nat) : Nat := bits (cmbW w 2) 15 0
def cmbHomed (w : List Nat) : Bool := bit (cmbW w 2) 16
def cmbInv (w : List Nat) : Nat := cmbAddr w 4
def cmbGate (w : List Nat) : Nat := cmbAddr w 6
def cmbSrc (w : List Nat) : Nat := cmbAddr w 8
def cmbSrcRow (w : List Nat) : Nat := bits (cmbW w 9) 31 12
def cmbDst (w : List Nat) : Nat := cmbAddr w 10
def cmbDstRow (w : List Nat) : Nat := bits (cmbW w 11) 31 12
def cmbAdd (w : List Nat) : Nat := cmbAddr w 12
def cmbAddRow (w : List Nat) : Nat := bits (cmbW w 13) 31 12

/-- The formats that a descriptor uses, with base and row stride. -/
def cmbRows (w : List Nat) : List (Nat × Nat × Nat) :=
  [(cmbInFmt w, cmbSrc w, cmbSrcRow w), (cmbDstFmt w, cmbDst w, cmbDstRow w)]
    ++ (if cmbAddEn w then [(cmbAddFmt w, cmbAdd w, cmbAddRow w)] else [])

def cmbReserved (w : List Nat) : Bool :=
  bits (cmbW w 0) 31 30 != 0 || bits (cmbW w 1) 31 20 != 0 || bits (cmbW w 2) 31 17 != 0
    || [3, 14, 15].any (fun i => cmbW w i != 0) || [5, 7].any (fun i => bits (cmbW w i) 31 12 != 0)

/-- Hanks of a row of the hidden size in a listed format. -/
def cmbRowHanks (w : List Nat) (code : Nat) : Nat := rowHanks ((fmtOfCode code).getD .fp32) (cmbHidden w)

/-- COMBINE_CFG (R150). -/
def cmbCfgBad (w : List Nat) : Bool :=
  cmbReserved w || cmbTokens w > 65536 || cmbKp w == 0 || cmbKp w > 4 || cmbHidden w == 0 || cmbHidden w > 32768
    || (!cmbHomed w && cmbGeneration w != 0)
    || (cmbRows w).any (fun r => match fmtOfCode r.1 with
      | some f => fmtIsInt f || r.2.2 < rowHanks f (cmbHidden w)
      | none => false)

/-- LAYOUT_ALIGN (R150). -/
def cmbAlignBad (w : List Nat) : Bool :=
  (cmbRows w).any (fun r => match fmtOfCode r.1 with
    | some f => r.2.1 % fmtHg f != 0 || r.2.2 % fmtHg f != 0
    | none => false)

/-- The regions of R150 as hank ranges. -/
def cmbDstRange (w : List Nat) : Nat × Nat :=
  rowsRange (cmbDst w) (cmbDstRow w) (cmbRowHanks w (cmbDstFmt w)) (cmbTokens w)
def cmbAddRange (w : List Nat) : Nat × Nat :=
  rowsRange (cmbAdd w) (cmbAddRow w) (cmbRowHanks w (cmbAddFmt w)) (cmbTokens w)
def cmbSrcRange (w : List Nat) : Nat × Nat :=
  rowsRange (cmbSrc w) (cmbSrcRow w) (cmbRowHanks w (cmbInFmt w)) (cmbTokens w * cmbKp w)
def cmbInvRange (w : List Nat) : Nat × Nat := (cmbInv w, cdiv (cmbTokens w * cmbKp w) 4)
def cmbGateRange (w : List Nat) : Nat × Nat := (cmbGate w, cdiv (cmbTokens w * cmbKp w) 4)

/-- The addend region is the destination region itself (R153). -/
def cmbInPlace (w : List Nat) : Bool :=
  cmbAdd w == cmbDst w && cmbAddRow w == cmbDstRow w && cmbAddFmt w == cmbDstFmt w

/-- LAYOUT_OVERLAP (R150). -/
def cmbOverlap (w : List Nat) : Bool :=
  let d := cmbDstRange w
  overlaps d (cmbInvRange w) || overlaps d (cmbGateRange w) || (!cmbHomed w && overlaps d (cmbSrcRange w))
    || (cmbAddEn w && !cmbInPlace w && overlaps d (cmbAddRange w))

/-- The newest ledger entry of a step value (R152). -/
def ledgerOf (b : Body) (c step : Nat) : Option Ledger := (b.ctx c).ledger.reverse.find? (fun l => l.step == step)

/-- The answer row size of the entry differs (R180). -/
def answerSizeBad (b : Body) (l : Option Ledger) (w : List Nat) : Bool :=
  match (l.bind Ledger.gen).bind b.gen with
  | some g => cmbHomed w && (fmtOfCode (cmbInFmt w)).isSome && cmbRowHanks w (cmbInFmt w) != g.ansHanks
  | none => false

/-- The checks of R150 in order, then those of R328, R152 and R182. A homed COMBINE of a step that is not homed, or of
another generation than its step's, names no generation of its step (DESIGN CHOICE, log 36). -/
def combineCheck (b : Body) (c step : Nat) (w : List Nat) : Except Nat Ledger := do
  let l := ledgerOf b c step
  failIf (cmbCfgBad w || answerSizeBad b l w) Code.combineCfg
  failIf ((cmbRows w).any (fun r => (fmtOfCode r.1).isNone)) Code.fmtUnknown
  failIf (cmbAlignBad w) Code.layoutAlign
  failIf (cmbOverlap w) Code.layoutOverlap
  failIf (cmbHomed w && tandemCtx b c) Code.tandemCfg
  match l with
  | none => .error Code.stepUnknown
  | some l => do
    failIf (cmbHomed w && (!l.homed || l.generation != cmbGeneration w)) Code.genUnknown
    failIf (cmbHomed w && l.combineDone) Code.genDone
    pure l

/-! ### The work of a COMBINE -/

def combineOf (b : Body) (oid : Nat) : Option CombineWork :=
  match b.openOf oid with
  | some o => (match o.work with
    | .combine w => some w
    | _ => none)
  | none => none

def modCombine (oid : Nat) (f : CombineWork → CombineWork) (b : Body) : Body :=
  b.modOpen oid (fun o => match o.work with
    | .combine w => { o with work := .combine (f w) }
    | _ => o)

/-- The ledger entry of a COMBINE. -/
def combineLedger (b : Body) (c uid : Nat) : Option Ledger := (b.ctx c).ledger.find? (fun l => l.uid == uid)

/-! ### The combined row (R153 to R156) -/

/-- A row in a format, decoded and rounded to FP32. -/
def rowF32 (c : Nat) (f : Fmt) (base n : Nat) : Io (List Nat) := do
  let hs ← readRun c base (rowHanks f n)
  let vs ← decodeHanks f base n hs
  pure (vs.map toF32)

/-- The elements of a staged answer; the fault of a bad tag has no address to report. -/
def stagedF32 (f : Fmt) (n : Nat) (hs : List Hank) : Io (List Nat) :=
  let gs := chunks (fmtHg f) hs
  if gs.any (tagBad f) then Io.hard Code.fmtTagMismatch 0 0 else pure ((gs.flatMap (groupF32 f)).take n)

/-- The left fold of the terms in each element; +0 without one. -/
def foldTerms (n : Nat) : List (List Nat) → List Nat
  | [] => List.replicate n 0
  | t :: ts => ts.foldl (fun a b => List.zipWith fadd a b) t

/-- The inverse element of a slot, checked against S (R155). -/
def inverseAt (c s t : Nat) (w : List Nat) (r : Nat) : Io Nat := do
  let i := t * cmbKp w + r
  let hs ← readRun c (cmbInv w + i / 4) 1
  let v := hW (hs.headD 0) (i % 4)
  if v != 0xFFFFFFFF && s ≤ v then Io.fail (.hard Code.splIndex 0 0 none [t, r]) else pure v

/-- The gate of a slot, decoded from its FP32 hank with the scale of the hank's tag (R154, R36) and rounded to FP32. -/
def gateOf (c t r : Nat) (w : List Nat) : Io Nat := do
  let i := t * cmbKp w + r
  let hs ← readRun c (cmbGate w + i / 4) 1
  let vs ← decodeHanks .fp32 (cmbGate w + i / 4) 4 hs
  pure (((vs.map toF32)[i % 4]?).getD 0)

/-- The terms of a token, slot by slot: the inverse element, then for a present slot its gate and its row; then the addend row
(R153, R154). -/
def termsOf (c t : Nat) (w : List Nat) (inv : Nat → Io Nat) (row : Nat → Nat → Io (List Nat)) : Io (List (List Nat)) := do
  let ts ← (List.range (cmbKp w)).mapM (fun r => do
    let i ← inv r
    if i == 0xFFFFFFFF then pure []
    else do
      let g ← gateOf c t r w
      let y ← row r i
      pure [y.map (fmul g)])
  if cmbAddEn w then do
    let a ← rowF32 c ((fmtOfCode (cmbAddFmt w)).getD .fp32) (cmbAdd w + t * cmbAddRow w) (cmbHidden w)
    pure (ts.flatten ++ [a])
  else pure ts.flatten

/-- Form and write the row of a token; a token with no term and EMPTY_KEEP leaves its row as it is. -/
def combineRow (c oid t : Nat) (w : List Nat) (terms : List (List Nat)) : Io Unit := do
  let empty := terms.isEmpty
  if empty && cmbEmptyKeep w then
    Io.upd (modCombine oid (fun x => { x with emptyRows := x.emptyRows + 1, written := x.written ++ [t] }))
  else do
    let (hs, crushed) := encodeRow ((fmtOfCode (cmbDstFmt w)).getD .fp32) (foldTerms (cmbHidden w) terms)
    writeHanks c (some oid) (itemsAt (cmbDst w + t * cmbDstRow w) hs)
    Io.upd (fun b => modCombine oid (fun x => { x with
      rowsDone := x.rowsDone + 1, emptyRows := x.emptyRows + b2n empty, written := x.written ++ [t] })
      (act 1 5 0 (count Cnt.rows 1 (some c) (count Cnt.crush crushed (some c) b))))

/-! ### Replicated placement (R152) -/

/-- S of the step of a COMBINE: as it was when the COMBINE began to read, since its ledger entry may go (R151). -/
def sumOf (b : Body) (c : Nat) (x : CombineWork) : Nat := x.s.getD (((combineLedger b c x.uid).map Ledger.s).getD 0)

/-- A COMBINE begins: S is taken from the ledger. -/
def beginCombine (b : Body) (c : Nat) (x : CombineWork) : CombineWork := { x with started := true, s := some (sumOf b c x) }

/-- The next token. -/
def combineNext (c oid : Nat) : Io Unit := do
  let b ← Io.get
  match combineOf b oid with
  | none => pure ()
  | some x => do
    let f := (fmtOfCode (cmbInFmt x.w)).getD .fp32
    let terms ← termsOf c x.next x.w (inverseAt c (sumOf b c x) x.next x.w)
      (fun _ i => rowF32 c f (cmbSrc x.w + i * cmbSrcRow x.w) (cmbHidden x.w))
    combineRow c oid x.next x.w terms
    Io.upd (modCombine oid (fun x => { x with next := x.next + 1, written := [] }))

/-- A replicated COMBINE of a context has all that it waits for under R152. The entry of one that a save dropped may have left the
full ledger since it began to read (R151, R300): its step had completed and not failed. -/
def combineDue (b : Body) (o : Open) (x : CombineWork) : Option Ledger :=
  match combineLedger b o.ctx x.uid with
  | some l => if l.done && l.completed == l.w then some l else none
  | none => x.s.map (fun s => { uid := x.uid, step := x.step, done := true, s := s })

/-- COMBINEs that need the splice engine (R16, R160). -/
def spliceClaims (b : Body) : List Claim :=
  b.opens.filterMap (fun o => match o.work with
    | .combine x =>
      let needs := x.started || (if x.homed then !o.held else mayRun b o && (combineDue b o x).isSome)
      if o.reply.isNone && (b.ctx o.ctx).st == .run && needs then some (claimOf b o.oid o.ctx) else none
    | _ => none)

/-- The stream of a COMBINE on a halyard engine. -/
def combineRun (own : Nat) (o : Open) (m : Io Unit) (b : Body) : Body :=
  engineStream own o.ctx 3 (some o.oid) o.oid o.cmd.seq 5 (fun b => ((combineOf b o.oid).map CombineWork.rowsDone).getD 0) m b

/-- A replicated COMBINE that has started goes on, once it holds the splice engine and a halyard engine is free. -/
def driveReplicated (own : Nat) (o : Open) (x : CombineWork) (b : Body) : Body :=
  let k := takeUnit 5 o.oid (spliceClaims b) b
  if !k.1 then k.2
  else combineRun own o (do
    let _ ← (List.range (cmbTokens x.w - x.next)).mapM (fun _ => combineNext o.ctx o.oid)
    Io.upd (fun b => complete own o.oid 0 0 0 (dropUnit 5 o.oid b))) k.2

/-- A replicated COMBINE starts once its step is done and every card has completed (R152); one of a failed step writes no
row (R142). -/
def startReplicated (own : Nat) (o : Open) (x : CombineWork) (l : Ledger) (b : Body) : Body :=
  if l.failed then
    complete own o.oid Code.wpCardFail 0 0
      (modCombine o.oid (fun x => { x with started := true, failExpert := l.failExpert, failStatus := l.failStatus }) (unhold o.oid b))
  else
    let k := takeUnit 5 o.oid (spliceClaims b) b
    if !k.1 then k.2
    else driveReplicated own o (beginCombine b o.ctx x) (unhold o.oid (modCombine o.oid (beginCombine b o.ctx) k.2))

/-- The oldest replicated COMBINE of a context that may start. -/
def combineReady (b : Body) (c : Nat) : Option (Open × CombineWork × Ledger) :=
  b.opens.findSome? (fun o => match o.work with
    | .combine x =>
      if o.ctx == c && o.reply.isNone && !x.homed && !x.started && mayRun b o then (combineDue b o x).map (fun l => (o, x, l)) else none
    | _ => none)

/-! ### Homed placement (R157, R158, R186) -/

/-- An entry retires once its COMBINE has completed, or it is void, and every expected answer has come (R166). -/
def settleGen (uid : Nat) (b : Body) : Body :=
  match b.gen uid with
  | none => b
  | some g =>
    if g.live && g.sent && (g.combineDone || g.void) && g.expected ≤ g.received + g.gone then retireGen uid b else b

/-- Staged answers of a COMBINE that satisfy a test leave staging, and the splice engine frees their buffers (Table 8.8). -/
def unstage (oid : Nat) (f : Staged → Bool) (b : Body) : Body :=
  let gone := ((combineOf b oid).map CombineWork.staged).getD [] |>.filter f
  coilDrop (gone.filterMap Staged.buf) (modCombine oid (fun x => { x with staged := x.staged.filter (fun a => !f a) }) b)

/-- A homed COMBINE ends: its staged answers and the splice engine are free, and its generation's COMBINE has completed. -/
def endHomed (own : Nat) (o : Open) (x : CombineWork) (status : Nat) (b : Body) : Body :=
  let b := dropUnit 5 o.oid (dropEngine o.oid 3 (unstage o.oid (fun _ => true) b))
  let b := match x.gen with
    | some u => b.modGen u (fun g => { g with combineDone := true })
    | none => b
  let b := b.modCtx o.ctx (fun c => { c with
    ledger := c.ledger.map (fun l => if l.uid == x.uid then { l with combineDone := true } else l) })
  let b := complete own o.oid status 0 0 b
  match x.gen with
  | some u => settleGen u b
  | none => b

/-- The generation of a homed COMBINE is void: its entry says so, or its ledger entry once the entry has gone. -/
def genIsVoid (b : Body) (c : Nat) (x : CombineWork) : Bool :=
  match x.gen.bind b.gen with
  | some g => g.void
  | none => ((combineLedger b c x.uid).map Ledger.genVoid).getD true

/-- The step of a homed COMBINE, while it has something left to write. -/
def stepOf (b : Body) (x : CombineWork) : Option RouteWork :=
  b.opens.findSome? (fun o => match o.work with
    | .route w => if w.uid == x.uid && w.stage != .finished then some w else none
    | _ => none)

/-- Tokens whose inverse elements Hawser has written (R170). -/
def inverseTokens (b : Body) (x : CombineWork) : Nat :=
  match stepOf b x with
  | none => cmbTokens x.w
  | some _ => min (cmbTokens x.w) (((x.gen.bind b.gen).map GenEnt.inv).getD 0 / cmbKp x.w)

/-- Selection has written the gates of the step. -/
def gatesWritten (b : Body) (x : CombineWork) : Bool := (stepOf b x).all (fun w => w.stage == .send)

/-- The inverse elements of the next token. A homed COMBINE reads and checks those of its tokens as soon as Hawser has written
them, before it combines a staged token (DESIGN CHOICE, log 98). -/
def homedInverse (c oid : Nat) : Io Unit := do
  let b ← Io.get
  match combineOf b oid with
  | none => pure ()
  | some x => do
    let inv ← (List.range (cmbKp x.w)).mapM (inverseAt c (sumOf b c x) x.next x.w)
    Io.upd (modCombine oid (fun x => { x with next := x.next + 1, inv := x.inv ++ [inv] }))

/-- The staged answer of a slot. -/
def stagedAt (x : CombineWork) (t r : Nat) : Option Staged := x.staged.find? (fun a => a.token == t && a.slot == r)

/-- Every present slot of a token has an answer staged. -/
def tokenReady (x : CombineWork) (t : Nat) : Bool :=
  !x.written.contains t && (((List.range (x.inv.getD t []).length).zip (x.inv.getD t [])).all (fun p =>
    p.2 == 0xFFFFFFFF || (stagedAt x t p.1).isSome))

/-- Combine a token if it is ready. -/
def homedToken (c oid t : Nat) : Io Unit := do
  let b ← Io.get
  match combineOf b oid with
  | none => pure ()
  | some x =>
    if !tokenReady x t then pure ()
    else do
      let f := (fmtOfCode (cmbInFmt x.w)).getD .fp32
      let terms ← termsOf c t x.w (fun r => pure ((x.inv.getD t []).getD r 0xFFFFFFFF)) (fun r _ =>
        stagedF32 f (cmbHidden x.w) (((stagedAt x t r).map Staged.hanks).getD []))
      combineRow c oid t x.w terms
      Io.upd (unstage oid (fun a => a.token == t))

/-- A homed COMBINE that holds the splice engine goes on as far as its answers allow. -/
def homedTurn (own : Nat) (o : Open) (x : CombineWork) (b : Body) : Body :=
  let b := combineRun own o (do
    let _ ← (List.range (inverseTokens b x - x.next)).mapM (fun _ => homedInverse o.ctx o.oid)
    let _ ← (List.range (if gatesWritten b x then inverseTokens b x else 0)).mapM (fun t => homedToken o.ctx o.oid t)
    pure ()) b
  match combineOf b o.oid with
  | some y => if y.written.length == cmbTokens y.w then endHomed own o y 0 b else b
  | none => b

/-- Nothing of a homed COMBINE can go on: no inverse element to read and no token to combine. -/
def homedWaits (b : Body) (x : CombineWork) : Bool :=
  x.next == inverseTokens b x
    && !(gatesWritten b x && ((List.range x.next).any (tokenReady x) || x.written.length == cmbTokens x.w))

/-- A homed COMBINE starts as soon as it gets the splice engine, and keeps it while it waits for answers (R157, R160). That its own
home cards failed stops it only as a FAIL answer (R142, R186; DESIGN CHOICE, log 120). -/
def driveHomed (own : Nat) (o : Open) (x : CombineWork) (b : Body) : Body :=
  match x.stop with
  | some code => endHomed own o x code b
  | none =>
    if genIsVoid b o.ctx x then endHomed own o x Code.genVoid b
    else
      let k := takeUnit 5 o.oid (spliceClaims b) b
      if !k.1 then k.2
      else
        let b := modCombine o.oid (beginCombine k.2 o.ctx) k.2
        if homedWaits b x then b else homedTurn own o (beginCombine b o.ctx x) b

/-- An accepted COMBINE goes on: a homed one from its acceptance, a replicated one once it has started. -/
def driveCombine (own oid : Nat) (b : Body) : Body :=
  match b.openOf oid with
  | none => b
  | some o => match o.work with
    | .combine x =>
      if (b.ctx o.ctx).st != .run || frozen b || o.held || o.reply.isSome then b
      else if x.homed then driveHomed own o x b
      else if x.started then driveReplicated own o x b
      else b
    | _ => b

/-- The homed and started COMBINEs of all contexts go on, in submission order, once the splice engine is free. -/
def spliceGo (own : Nat) (b : Body) : Body :=
  if frozen b then b
  else (b.opens.filterMap (fun o => match o.work with
    | .combine _ => some o.oid
    | _ => none)).foldl (fun b k => driveCombine own k b) b

/-- The row COMBINE_START: the COMBINE starts once the splice engine is granted to it (R16). -/
def combineStartOp (own c : Nat) (b : Body) : Body :=
  if frozen b then b
  else match combineReady b c with
    | none => b
    | some (o, x, l) => spliceGo own (startReplicated own o x l b)

/-! ### Acceptance (R149, R150, R152) -/

/-- The read of acceptance and the checks. -/
def combineReads (r : CmdRec) : Io (Except Nat (List Nat × Ledger)) := do
  let hs ← readAcc r.ctx r.addr 4
  let w := (List.range 16).map (recW hs)
  let b ← Io.get
  match combineCheck b r.ctx (r.b 0) w with
  | .error e => pure (.error e)
  | .ok l => pure (.ok (w, l))

/-- Memory that a COMBINE reads (R15): behind its own step a homed one waits for the inverse map and the gates under R157 and R170,
behind any other command under R15. -/
def cmbReads (w : List Nat) : List (Nat × Nat) :=
  (if cmbHomed w then [] else [cmbInvRange w, cmbGateRange w, cmbSrcRange w])
    ++ (if cmbAddEn w then [cmbAddRange w] else [])
def cmbLate (w : List Nat) : List (Nat × Nat) := if cmbHomed w then [cmbInvRange w, cmbGateRange w] else []

/-- COMBINE at its acceptance. -/
def combineOp (own : Nat) (r : CmdRec) (b : Body) : Body :=
  withReads own r (combineReads r) (fun res b => match res with
    | .error code => refuseRec r code b
    | .ok (w, l) =>
      let x : CombineWork :=
        { w := w, step := r.b 0, uid := l.uid, homed := cmbHomed w, gen := if cmbHomed w then l.gen else none }
      let b := match x.gen with
        | some u => b.modGen u (fun g => { g with combined := true })
        | none => b
      acceptWork r (.combine x) (cmbReads w) [cmbDstRange w] b (cmbLate w)) b

end Sys2Proof.Machine
end

