-- ==== Sys2Proof/Machine/Skein.lean ====
section
/-! DEFINITION. The skein queue: the generation filter, the two banks, reads into the splice engine and drop-rest (spec/08 R180
to R186), and with them COMBINE, CANCEL_BATCH and the deadlines of an exchange (R187 to R189). -/

namespace Sys2Proof.Machine

/-! ### Discards (R180, R182) -/

def addDiscard (b : Body) : Body := { b with skn := { b.skn with discard := b.skn.discard + 1 } }
def addStray (b : Body) : Body := { b with skn := { b.skn with stray := b.skn.stray + 1 } }

/-- The skein frees the buffer of a packet that it gives up. -/
def freeSkn (own : Nat) (p : SknPkt) (b : Body) : Body :=
  match p.buf with
  | some x => freeBuf own x b
  | none => b

/-! ### Banks and reads (R181 to R183) -/

/-- The banks swap when the drain bank is empty and the fill bank holds a packet. -/
def swapBanks (k : Skein) : Skein :=
  if k.drain.isEmpty && k.reading.isNone && !k.fill.isEmpty then { k with bank := !k.bank, drain := k.fill, fill := [] } else k

/-- The order of reads: latency-critical before best-effort, then lower rank, then earlier entry. -/
def readKey (b : Body) (g : GenEnt) : Nat := (if g.cls then 0 else 1000000) + b.gens.findIdx (fun x => x.uid == g.uid)

/-- Packets of the drain bank that may be read, with their keys, in entry order. -/
def readable (b : Body) : List (Nat × SknPkt) :=
  b.skn.drain.filterMap (fun p => match sknRead b p with
    | .read g => if takesReads b g then some (readKey b g, p) else none
    | _ => none)

/-- The packet that is read next. -/
def nextRead (b : Body) : Option SknPkt :=
  match readable b with
  | [] => none
  | x :: l => some (l.foldl (fun best y => if y.1 < best.1 then y else best) x).2

/-- A packet of the drain bank that is discarded before any read. -/
def nextDrop (b : Body) : Option SknPkt :=
  b.skn.drain.find? (fun p => match sknRead b p with
    | .stray => true
    | .drop => true
    | _ => false)

def eraseDrain (p : SknPkt) (b : Body) : Body := { b with skn := { b.skn with drain := b.skn.drain.erase p } }

/-- Discard a packet of the drain bank: one of a retired entry as stray. -/
def dropPkt (own : Nat) (p : SknPkt) (b : Body) : Body :=
  let stray := sknRead b p == .stray
  let b := freeSkn own p (eraseDrain p b)
  if stray then addStray b else addDiscard b

/-- The splice engine's request for the staging buffer of a packet (R183, Table 8.8). -/
def stageReq (b : Body) (p : SknPkt) : CoilReq :=
  coilReqOf b (((liveGen b p.xg p.generation).map GenEnt.ctx).getD 0) 6 p.payload.length

/-- A read starts, into its staging buffer; a FAIL answer needs none (R183). -/
def beginRead (p : SknPkt) (buf : Option CoilBuf) (b : Body) : Body :=
  { eraseDrain p b with skn := { (eraseDrain p b).skn with reading := some p, stage := buf } }

/-- The read side goes on: swap, discards, and a read if none is in progress. -/
def sknTurn (own : Nat) : Nat → Body → Body
  | 0, b => b
  | fuel + 1, b =>
    let b := { b with skn := swapBanks b.skn }
    if b.skn.reading.isSome then b
    else match nextDrop b with
      | some p => sknTurn own fuel (dropPkt own p b)
      | none => match nextRead b with
        | some p =>
          if p.fail then beginRead p none b
          else match coilAsk b (stageReq b p) with
            | .grant buf => beginRead p (some buf) (coilTake buf (coilUnwait (stageReq b p) b))
            | .wait _ => holdForCoil own (stageReq b p) b
            | .quotaFault => sknTurn own fuel (quotaFault own (stageReq b p) b)
        | none => b

/-- A request of the splice engine stands only for the read that comes next. -/
def pruneStage (b : Body) : Body :=
  let want := if b.skn.reading.isSome then none else (nextRead b).map (stageReq b)
  { b with coil := { b.coil with wait := b.coil.wait.filter (fun r =>
    r.req != 6 || want.any (fun w => r.ctx == w.ctx && r.size == w.size)) } }

def sknGo (own : Nat) (b : Body) : Body := if frozen b then b else pruneStage (sknTurn own (sknFill b + 1) b)

/-- The COMBINEs and the skein's reads go on. -/
def spliceAll (own : Nat) (b : Body) : Body := sknGo own (spliceGo own b)

/-! ### What a read delivers (R183, R186) -/

/-- The open COMBINE of a generation. -/
def combineOpen (b : Body) (uid : Nat) : Option Open :=
  b.opens.find? (fun o => o.reply.isNone && (match o.work with
    | .combine x => x.homed && x.gen == some uid
    | _ => false))

/-- A FAIL answer stops the COMBINE (R186). -/
def failCombine (own uid expert status : Nat) (b : Body) : Body :=
  match combineOpen b uid with
  | none => b
  | some o => driveCombine own o.oid (modCombine o.oid (fun x => { x with
      failExpert := expert, failStatus := status, stop := some Code.wpCardFail }) (unstage o.oid (fun _ => true) b))

/-- An answer in staging; without its COMBINE the splice engine frees the buffer. -/
def stageAnswer (own uid : Nat) (p : SknPkt) (buf : Option CoilBuf) (b : Body) : Body :=
  match combineOpen b uid with
  | none => coilDrop buf.toList b
  | some o => driveCombine own o.oid (modCombine o.oid (fun x => { x with
      staged := x.staged ++ [{ token := p.token, slot := p.slot, hanks := p.payload, buf := buf }] }) b)

/-- The read in progress is over. -/
def endRead (b : Body) : Body := { b with skn := { b.skn with reading := none, stage := none } }

/-- The read in progress ends: the buffer is freed, the slot is free, and the answer is the splice engine's. -/
def readDone (own : Nat) (b : Body) : Body :=
  match b.skn.reading with
  | none => b
  | some p =>
    let buf := b.skn.stage
    let b := freeSkn own p (endRead b)
    match sknRead b p with
    | .read g => if p.fail then failCombine own g.uid p.expert p.failStatus b else act 4 16 0 (stageAnswer own g.uid p buf b)
    | .stray => addStray (coilDrop buf.toList b)
    | _ => addDiscard (coilDrop buf.toList b)

/-- SKEIN_READ_DONE. -/
def readDoneOp (own : Nat) (b : Body) : Body := if frozen b then b else spliceAll own (readDone own b)

/-! ### Drop-rest (R185) -/

/-- The read in progress is cut: a packet of a live generation is then taken as a FAIL answer with status 0. -/
def dropRest (own : Nat) (b : Body) : Body :=
  match b.skn.reading with
  | none => b
  | some p =>
    let b := addDiscard (freeSkn own p (coilDrop b.skn.stage.toList (endRead b)))
    match sknRead b p with
    | .read g => failCombine own g.uid p.expert 0 { b with skn := { b.skn with droppedLive := true } }
    | _ => b

/-- A write of SKN_CTRL. -/
def sknCtrlWrite (own : Nat) (data : W32) (b : Body) : Body :=
  if data.getLsbD 0 then spliceAll own (dropRest own b) else b

/-- The row DROP_REST: a write of 1 to DROP_REST. -/
def execDropRest (s : State) : Host.Outcome State Fault Refusal :=
  s.onBody (fun own b => if held b 0x0C0100 then b else sknCtrlWrite own 1 b)

/-! ### ANSWER packets (R180, R184) -/

/-- An ANSWER on VC4. -/
def isAnswer (p : Packet) : Bool := p.vc == 4 && exKind p == 2

/-- The skein's slot contents of an ANSWER. -/
def sknPkt (g : GenEnt) (p : Packet) (buf : Option CoilBuf) : SknPkt :=
  let w := hW (pktHead p) 2
  { xg := exXg p, generation := exGeneration p, gen := g.uid, token := exToken p, slot := bits w 12 12,
    expert := bits w 11 0, fail := bit w 13, failStatus := bits w 21 14, payload := pktPayload p, buf := buf }

def answerFails (p : Packet) : Bool := bit (hW (pktHead p) 2) 13

/-- The skein's request for a packet. -/
def sknReq (b : Body) (g : GenEnt) (p : Packet) : CoilReq := coilReqOf b g.ctx 8 (exP p)

/-- A received answer counts for its entry. -/
def gotAnswer (member : Nat) (g : GenEnt) : GenEnt :=
  { g with received := g.received + 1, rcvFrom := tmod g.rcvFrom member (fun n => n + 1) }

/-- N_SKEIN_HIGH at an upward crossing of HIGH_LEVEL while HIGH is 0. -/
def skeinHigh (g : GenEnt) (b : Body) : Body :=
  if sknFill b == b.skn.level.toNat && !b.skn.high then
    notice Ntc.skeinHigh none 0 0 1 [fld 11 0 (sknFill b), fld 7 0 g.xg + fld 23 8 g.generation, 0, 0] 16
      { b with skn := { b.skn with high := true } }
  else b

/-- An answer takes a slot of the fill bank. -/
def enterSkein (own : Nat) (g : GenEnt) (p : Packet) (buf : Option CoilBuf) (b : Body) : Body :=
  let b := consumePacket p (b.modGen g.uid (gotAnswer (exMember p)))
  let b := { b with skn := { b.skn with fill := b.skn.fill ++ [sknPkt g p buf] } }
  sknGo own (skeinHigh g b)

/-- An answer that is discarded on arrival counts as gone. -/
def goneAnswer (uid : Nat) (b : Body) : Body := settleGen uid (b.modGen uid (fun g => { g with gone := g.gone + 1 }))

/-- Coil requests of the skein whose packet no longer stands before it. -/
def pruneSkn (b : Body) : Body :=
  let live := b.fab.rx.filter (fun p => isAnswer p && atFront b p)
  let want := live.filterMap (fun p => (liveGen b (exXg p) (exGeneration p)).bind (fun g =>
    if g.void || g.combineDone then none else some (g.ctx, exP p)))
  { b with coil := { b.coil with wait := b.coil.wait.filter (fun r =>
    r.req != 8 || want.any (fun w => r.ctx == some w.1 && r.size == w.2)) } }

/-- The skein holds a packet for want of a buffer, without COIL_QUOTA; its request waits once. -/
def holdAnswer (r : CoilReq) (b : Body) : Body :=
  if b.coil.wait.any (fun x => sameReq x r) then b else chooseVictim (coilWait r b)

/-- An ANSWER meets the generation filter (R180). While the fill bank is full, an answer that would enter it holds the channel; one
that the filter discards is discarded all the same (R181; DESIGN CHOICE, log 106). -/
def answerOp (own : Nat) (p : Packet) (b : Body) : Body :=
  match liveGen b (exXg p) (exGeneration p) with
  | none => addStray (consumePacket p b)
  | some g =>
    if g.void || g.combineDone then goneAnswer g.uid (addDiscard (consumePacket p b))
    else if 1024 ≤ b.skn.fill.length then b
    else if answerFails p then enterSkein own g p none b
    else if exP p != g.ansHanks then
      hardFault own g.ctx none g.seq Code.answerLen 16 0 0 [] (consumePacket p b)
    else match coilAsk b (sknReq b g p) with
      | .grant buf => enterSkein own g p (some buf) (coilTake buf b)
      | _ => holdAnswer (sknReq b g p) b

/-- An ANSWER at the front of its channel; while the block is shut it is discarded (R442). -/
def answerRow (own : Nat) (b : Body) : Body :=
  if frozen b then b
  else match frontPacket isAnswer b with
    | none => b
    | some p => if b.blk.shut then consumePacket p b else pruneSkn (answerOp own p b)

/-! ### Void of a generation (R158, R187, R188) -/

/-- The read of a packet of a generation is cut. -/
def cutRead (own uid : Nat) (b : Body) : Body :=
  match b.skn.reading with
  | some p => if p.gen == uid then dropRest own b else b
  | none => b

/-- A COMBINE whose generation has become void completes with GEN_VOID, also where its context has stopped in FAULTED or
SAVE_STALLED (R158, R188, R279); one of a context that is being saved or is saved does so after the restore. -/
def voidCombine (own : Nat) (o : Open) (b : Body) : Body :=
  match o.work with
  | .combine x =>
    let st := (b.ctx o.ctx).st
    if (st == .faulted || st == .saveStalled) && !o.held && o.reply.isNone then endHomed own o x Code.genVoid b
    else driveCombine own o.oid b
  | _ => b

/-- The commands that wait for a voided generation: its DISPATCH and its COMBINE. -/
def voidWaiters (own uid : Nat) (b : Body) : Body :=
  let b := match (b.gen uid).bind GenEnt.dispatchOid with
    | some d => complete own d Code.genVoid 0 0 (b.modGen uid (fun g => { g with dispatchOid := none }))
    | none => b
  match combineOpen b uid with
  | some o => voidCombine own o b
  | none => b

/-- Void a generation and do what follows from it at the units of this chip (Table 8.7). -/
def voidAll (own uid : Nat) (b : Body) : Body :=
  settleGen uid (pruneHaw own (spliceAll own (voidWaiters own uid (cutRead own uid (voidGen own uid b)))))

/-- The end of a home role by firmware: the entry retires (R166). -/
def homeEnd (own uid : Nat) (b : Body) : Body := pruneHaw own (sknGo own (dropMarlin (retireGen uid (endHome uid b))))

/-- CANCEL_BATCH at its acceptance. -/
def cancelOp (own : Nat) (r : CmdRec) (b : Body) : Body :=
  if tandemRefused b r then refuseRec r Code.tandemCfg b
  else
    let homeEndFlag := bit (r.b 0) 24
    match liveGen b (bits (r.b 0) 23 16) (bits (r.b 0) 15 0) with
    | none => refuseRec r Code.genUnknown b
    | some g =>
      if g.ctx != r.ctx then refuseRec r Code.genUnknown b
      else if g.void then
        acceptDone own r 0 [] (if homeEndFlag && !g.home.ended then homeEnd own g.uid b else b)
      else
        let oid := b.nextOid
        let b := voidAll own g.uid (acceptOpen r (.cancel g.uid) false [] [] b)
        complete own oid 0 0 0 (if homeEndFlag then homeEnd own g.uid b else b)

/-! ### Deadlines (R189) -/

/-- The window of an entry has ended. -/
def windowOver (b : Body) (g : GenEnt) : Bool := g.map.deadline != 0 && g.stamp + g.map.deadline ≤ b.now

/-- The lowest member that has not answered every slot sent to it, or whose END is unsent. -/
def missingSender (g : GenEnt) : Option Nat :=
  (List.range g.map.members.length).find? (fun m =>
    (unsentEnds g).any (fun e => e.dest == m) || g.rcvFrom.getD m 0 < g.slotsTo.getD m 0)

/-- The lowest member whose part of the first incomplete half is missing. -/
def missingHome (g : GenEnt) : Option Nat :=
  match (List.range (halves g)).find? (fun h => !halfComplete g h) with
  | none => none
  | some h => (List.range g.map.members.length).find? (fun m => !memberComplete g h m)

/-- N_STEP_VOID of a role. -/
def exchangeVoid (g : GenEnt) (source : Nat) (missing : Option Nat) (b : Body) : Body :=
  notice Ntc.stepVoid (some g.ctx) g.seq Code.stepVoid 1
    [fld 1 0 source + fld 15 8 g.xg, g.generation, fld 16 0 (missing.getD 0) + fld 17 17 (b2n missing.isSome), 0] 6 b

/-- The sending role of an entry has missed its window, once that ends. -/
def sendMisses (g : GenEnt) : Bool := g.live && !g.void && !g.sendMissed && !(g.sent && g.received == g.expected)

/-- The home role of an entry has missed its window, once that ends. -/
def homeMisses (g : GenEnt) : Bool := !g.homeMissed && !g.home.ended && !(List.range (halves g)).all (halfComplete g)

/-- The sending role of an entry at the end of its window. -/
def sendDeadline (own : Nat) (g : GenEnt) (b : Body) : Body :=
  if !sendMisses g then b
  else
    let b := exchangeVoid g 2 (missingSender g) b
    voidAll own g.uid (b.modGen g.uid (fun g => { g with late := true, sendMissed := true }))

/-- The home role of an entry at the end of its window. -/
def homeDeadline (own : Nat) (g : GenEnt) (b : Body) : Body :=
  if !homeMisses g then b
  else
    let b := exchangeVoid g 3 (missingHome g) b
    pruneHaw own (dropMarlin (endHome g.uid (b.modGen g.uid (fun g => { g with late := true, homeMissed := true }))))

/-- A void entry whose window has ended retires (R166). -/
def retireLate (uid : Nat) (b : Body) : Body :=
  match b.gen uid with
  | some g => if g.live && g.void then retireGen uid b else pruneGens b
  | none => b

/-- The row HOMED_DEADLINE: every entry whose window has ended, oldest first. -/
def homedDeadlineOp (own : Nat) (b : Body) : Body :=
  if frozen b then b
  else sknGo own ((b.gens.filter (windowOver b)).foldl (fun b g =>
    match b.gen g.uid with
    | none => b
    | some g => match (sendDeadline own g b).gen g.uid with
      | none => sendDeadline own g b
      | some g' => retireLate g.uid (homeDeadline own g' (sendDeadline own g b))) b)

/-- Windows that have ended are settled before an event of the exchange that comes after them (R8, R189). -/
def expire (own : Nat) (b : Body) : Body :=
  if b.gens.any (fun g => windowOver b g && (sendMisses g || homeMisses g)) then homedDeadlineOp own b else b

/-- A packet of an exchange at its consumer. -/
def exchangeRow (row : Nat → Body → Body) (own : Nat) (b : Body) : Body := row own (expire own b)

end Sys2Proof.Machine
end

