-- ==== Sys2Proof/Machine/LiveState.lean ====
section
/-! DEFINITION. The live state of a context: what a save drops, the items that it writes, what leaves the units with them, and how
a restore puts back what it reads (spec/12 R300 to R302, R307, spec/03 R83, spec/05 R124, spec/06 R147, spec/07 R160,
spec/08 R191). -/

namespace Sys2Proof.Machine

/-! ### Commands that are dropped (R300, R301, Table 12.5) -/

/-- A command with LIVE 0 that a save drops. -/
def dropsAtSave (b : Body) (o : Open) : Bool :=
  !o.cmd.live && !o.held && o.reply.isNone && (match o.work with
    | .route w => w.gen.isNone && ((combineLedger b o.ctx w.uid).map Ledger.w) == some 0
    | .combine x => !x.homed && x.started && (!cmbAddEn x.w || !cmbInPlace x.w)
    | .copy x => x.mode ≤ 2
    | _ => false)

/-- A ROUTE_STEP from its beginning: it keeps what its acceptance gave it. -/
def freshRoute (w : RouteWork) : RouteWork :=
  { w with stage := .bias, bias := [], units := [], issued := 0, lines := 0, taken := 0, segs := [], rowBufs := [], selBufs := [],
           fltBufs := [], load := [], dropped := 0, nanKeys := 0, choices := [], gates := [], outQ := [], outDone := 0, walk := [] }

/-- A dropped command, its digest and counts cleared (R329). -/
def restartOpen (o : Open) : Open :=
  let o := { o with digest := 0, items := 0 }
  match o.work with
  | .route w => { o with work := .route (freshRoute w) }
  | .combine x => { o with work := .combine { x with started := false, next := 0, rowsDone := 0, emptyRows := 0, written := [] } }
  | .copy x => { o with work := .copy { x with pos := 0, hanks := 0, bufs := [], at_ := [] } }
  | _ => o

/-! ### Layouts of live state -/

/-- A hank of live state that the spec does not lay out: an I32 hank, tag 0x7F. The contents that a rule names stand in its first words
(DESIGN CHOICE, log 119), and its other words are free (log 8). -/
def namedHank (ws : List Nat) (k : Nat) : Hank := i32Hank (ws ++ ((List.range 4).map (hW (Config.saveHank k))).drop ws.length)

/-- What an item holds at a place: a hank that a rule lays out, or one of which a rule names contents. -/
inductive LiveHank where
  | known (h : Hank)
  | named (ws : List Nat)
deriving DecidableEq, Repr

/-- Hanks that a rule lays out. -/
def knownHanks (hs : List Hank) : List LiveHank := hs.map LiveHank.known

/-- Hanks whose contents are free. -/
def freeHanks (n : Nat) : List LiveHank := List.replicate n (.named [])

/-- A long partial (Table 3.4): the entry in payload bytes 0 to 75, its flags in byte 76. -/
def longPartial (a : LongAcc) : List Hank :=
  let n := (a.entry % (2 ^ 608 : Int)).toNat + 2 ^ 608 * (b2n a.nan + 2 * b2n a.pinf + 4 * b2n a.ninf)
  (List.range 5).map (fun i => i32Hank ((List.range 4).map (fun j => bits n (32 * (4 * i + j) + 31) (32 * (4 * i + j)))))

/-- The entry that a long partial holds. -/
def partialEntry (hs : List Hank) : LongAcc :=
  let n := ((List.range 20).map (fun k => 2 ^ (32 * k) * hW (hs.getD (k / 4) 0) (k % 4))).sum
  let e := bits n 607 0
  { entry := if bit n 607 then (e : Int) - 2 ^ 608 else e, nan := bit n 608, pinf := bit n 609, ninf := bit n 610 }

/-- An assignment as the flint sorter packs it: token, expert, slot (R147). -/
def packAssign (a : Nat × Nat × Nat) : Nat := fld 15 0 a.1 + fld 27 16 a.2.2 + fld 29 28 a.2.1

/-- Flint's live state: the counts, then the assignment list (R147). -/
def flintHanks (counts : List Nat) (as : List (Nat × Nat × Nat)) : List Hank := i32Hanks counts ++ i32Hanks (as.map packAssign)

/-! ### Items (R302, R307) -/

/-- An item of the save area: UNIT, INSTANCE, owner's SEQ, and its hanks. -/
structure LiveItem where
  unit : Nat
  inst : Nat := 0
  seq : Nat
  hanks : List LiveHank

/-- The long partials of an unfinished unit: for each token of its run, each column of its tile, in this order (DESIGN CHOICE, log
121). On the fallback path, whose group sums Table 3.4 does not lay out, their contents are free. -/
def unitPartials (w : RouteWork) (u : UnitWork) : List LiveHank :=
  if scorePath (tokenRows w u).fmt (weightRows w u).fmt == some true then knownHanks (u.acc.flatten.flatMap longPartial)
  else freeHanks (5 * (tokenRows w u).count * (weightRows w u).count)

/-- A step whose rows are being scored and selected. -/
def routeScores (w : RouteWork) : Bool := w.stage == .score

/-- Rows that the mica lanes hold with some segments. -/
def rowsHeld (w : RouteWork) : Nat := ((w.segs.filter (fun s => w.taken ≤ s.token)).map Segment.token).eraseDups.length

/-- Marlin's position: the next expert of a list, the step, and the cards of the step so far (R137). -/
def marlinHank (b : Body) (c uid step : Nat) (walk : List WalkItem) : LiveHank :=
  .named [match walk.head? with
    | some (.card _ x) => x
    | some (.cell _ x) => x
    | _ => 0, step, ((combineLedger b c uid).map Ledger.w).getD 0]

/-- The live items of a ROUTE_STEP. -/
def routeItems (b : Body) (c seq : Nat) (w : RouteWork) : List LiveItem :=
  let e := w.cfg.experts
  let begun := routeScores w && (w.taken != 0 || !w.selBufs.isEmpty)
  let selects := begun || w.stage == .write
  let sorts := w.gen.isNone && (selects || w.stage == .sort)
  (if routeScores w then w.units.map (fun u => { unit := 1, inst := u.arr, seq := seq, hanks := unitPartials w u }) else [])
    ++ (if routeScores w then List.replicate (rowsHeld w) { unit := 10, seq := seq, hanks := freeHanks (cdiv e 4 + 1) } else [])
    ++ (if selects then
        [{ unit := 2, seq := seq, hanks := knownHanks (loadVector w.step w.n (selectedOf w)) ++ [.named [w.taken]] }] else [])
    ++ (if begun && w.cfg.ec then [{ unit := 2, seq := seq, hanks := freeHanks (cdiv (e * w.cfg.capacity) 8) }] else [])
    ++ (if sorts then
        [{ unit := 3, seq := seq, hanks := knownHanks (flintHanks ((selectedOf w).load.map LoadCnt.assigned) (assignments w.choices)) }]
        else [])
    ++ (if w.stage == .cards then [{ unit := 4, seq := seq, hanks := [marlinHank b c w.uid w.step w.walk] }] else [])

/-- A staged answer as it is saved: its hanks with their tags, filled up to SRC_ROW_HANKS (R57, R160). -/
def stagedHanks (w : List Nat) (a : Staged) : List LiveHank := (knownHanks a.hanks ++ freeHanks (cmbSrcRow w)).take (cmbSrcRow w)

/-- The index element that a COPY has reached: that of the next row of a gather, in the scatter modes those read so far. -/
def indexReached (x : CopyWork) : Nat :=
  if x.mode == 1 then (groupAt x [] x.pos).2.getD (x.indexDim - 1) 0 else if x.mode == 0 || x.pos == 0 then 0 else x.idx.extent 0

/-- The position of an engine of a COPY (R214): element index, mode and index element reached. -/
def copyHank (x : CopyWork) : LiveHank :=
  let e := x.pos * fmtGe (layFmt x.dst)
  .named [e % 2 ^ 32, x.mode, indexReached x % 2 ^ 32, e / 2 ^ 32 % 2 ^ 32]

/-- The splice engine's position (R160): next token index, staged tokens. -/
def spliceHank (x : CombineWork) : LiveHank :=
  .named ([x.next] ++ (if x.homed then [(x.staged.map Staged.token).eraseDups.length] else []))

/-- The next piece of a COLLECT that is to be admitted (R249). -/
def pieceHank (b : Body) (oid : Nat) (w : CollectWork) : LiveHank :=
  .named [((b.thm.pieces.find? (fun p => p.oid == oid && !p.admitted)).map Piece.pos).getD w.names.length]

/-- The live items of an open command. -/
def openItems (b : Body) (o : Open) : List LiveItem :=
  let seq := o.cmd.seq
  if o.held || o.reply.isSome then []
  else match o.work with
    | .route w => routeItems b o.ctx seq w
    | .combine x =>
      if x.started then [{ unit := 5, seq := seq, hanks := spliceHank x :: x.staged.flatMap (stagedHanks x.w) }] else []
    | .copy x => x.at_.map (fun n => { unit := 0, inst := n, seq := seq, hanks := [copyHank x] })
    | .collect w => if b.thm.pieces.any (fun p => p.oid == o.oid) then [{ unit := 8, seq := seq, hanks := [pieceHank b o.oid w] }] else []
    | _ => []

/-- Hawser's position (next token, half, role: 0 sending, 1 home), and the Q counters of the destinations (R191): for the sending role
the TOKEN packets sent to each member. -/
def hawserHanks (token half role : Nat) (qs : List Nat) : List LiveHank :=
  .named [token, half, role] :: knownHanks (u16Hanks (qs.map (fun q => q % 2 ^ 16)))

/-- TOKEN packets sent to each member: Q of the next one (R169). -/
def qCounters (g : GenEnt) : List Nat :=
  (List.range g.map.members.length).map (fun d => g.counts.getD (2 * d) 0 + g.counts.getD (2 * d + 1) 0)

/-- The pairs of a half that is being sorted, as assignments: source token, slot, expert. That t is the sender's token, and not the
receive row that R176 makes the index, is a choice of the model (DESIGN CHOICE, log 122). -/
def halfAssigns (g : GenEnt) (h : Nat) : List (Nat × Nat × Nat) :=
  (homePairs g h).map (fun p => (bits p.ret 15 0, bits p.ret 16 16, p.expert))

/-- Items of a context's generation-table entries: sends and answers in progress, the sort of a half, and a home card list. -/
def genItems (b : Body) (c : Nat) : List LiveItem :=
  (b.gens.filter (fun g => g.ctx == c)).flatMap (fun g =>
    (if !batchWants b g then []
      else [{ unit := 6, seq := g.seq, hanks := hawserHanks (hawNext g).1 (hawNext g).2 0 (qCounters g) }])
      ++ (match g.home.answers with
        | [] => []
        | t :: _ => [{ unit := 6, seq := g.seq,
                       hanks := hawserHanks (bits t.ret 15 0) t.half 1 (List.replicate g.map.members.length 0) }])
      ++ (match nextHalf g with
        | some h => if (g.home.counts.getD h []).isEmpty || g.home.ended then []
            else [{ unit := 3, seq := g.seq, hanks := knownHanks (flintHanks (g.home.counts.getD h []) (halfAssigns g h)) }]
        | none => [])
      ++ (if g.home.walk.isEmpty then [] else [{ unit := 4, seq := g.seq, hanks := [marlinHank b g.ctx g.uidL g.step g.home.walk] }]))

/-- The restart records of a context. -/
def recItems (x : Ctx) : List LiveItem :=
  (x.cmdRec.toList ++ x.saveRec.toList).mapIdx (fun i r =>
    { unit := 11, inst := i, seq := r.cmdSeq, hanks := knownHanks (i32Hanks (recWords r)) })

/-- Units in the order of Table 12.6. -/
def unitOrder : List Nat := [1, 10, 2, 3, 4, 5, 6, 0, 8, 11]

/-- Open commands of a context whose live state a save writes. -/
def liveOpens (b : Body) (c : Nat) : List Open := b.opens.filter (fun o => o.ctx == c && !o.cmd.isGlobal && !dropsAtSave b o)

/-- The live items of a context, in unit order and within a unit in instance order. -/
def liveItems (b : Body) (c : Nat) : List LiveItem :=
  let all := (liveOpens b c).flatMap (openItems b) ++ genItems b c ++ recItems (b.ctx c)
  unitOrder.flatMap (fun u => sortKey LiveItem.inst (all.filter (fun i => i.unit == u)))

/-- The hanks of items, each that no rule lays out from its own value of the counter. -/
def fillFree : List LiveHank → Nat → List Hank
  | [], _ => []
  | .known h :: rest, k => h :: fillFree rest k
  | .named ws :: rest, k => namedHank ws k :: fillFree rest (k + 1)

/-- The header of an item (Table 12.7). -/
def itemHeader (i : LiveItem) : Hank := i32Hank [fld 3 0 i.unit + fld 7 4 i.inst, i.hanks.length, i.seq, 0]

/-- The items as they stand in the save area, with their free hanks still open. -/
def areaHanks (is : List LiveItem) : List LiveHank := is.flatMap (fun i => .known (itemHeader i) :: i.hanks)

/-- Hanks that no rule lays out. -/
def openHanks (hs : List LiveHank) : Nat := (hs.filter (fun h => match h with
  | .known _ => false
  | .named _ => true)).length

/-- The header of the save area (Table 12.7). -/
def saveHeader (c cause : Nat) (dropped : Bool) (fw : Nat) (body : List Hank) : Hank :=
  i32Hank [fld 7 0 1 + fld 13 8 c + fld 15 14 cause + fld 16 16 (b2n dropped), body.length, fw, crc32 (body.flatMap hBytes)]

/-! ### What leaves the units with a save -/

/-- A step whose long partials are in the save area; any array may take a unit after the restore (R66, R83). -/
def emptyUnits (w : RouteWork) : RouteWork := { w with units := w.units.map (fun u => { u with acc := [], bound := false }) }

/-- The long partials and the staged answers of a context leave the units for its save area. -/
def moveOut (c : Nat) (o : Open) : Open :=
  if o.ctx != c || o.cmd.isGlobal || o.held then o
  else match o.work with
    | .route w => { o with work := .route (emptyUnits w) }
    | .combine x => { o with work := .combine { x with staged := x.staged.map (fun (a : Staged) => { a with hanks := [] }) } }
    | _ => o

/-- A step without its coil buffers, and without what it had fetched of the next passes (R302). -/
def bareRoute (w : RouteWork) : RouteWork :=
  { w with rowBufs := [], selBufs := [], fltBufs := [],
           units := w.units.map (fun u => { u with
             toks := [], shadow := [], tile0 := [], swapped := false, tokBuf := none, tileBuf := none }) }

/-- The work of a saved context holds no buffer. -/
def bareOpen (o : Open) : Open :=
  match o.work with
  | .route w => { o with work := .route (bareRoute w) }
  | .combine x => { o with work := .combine { x with staged := x.staged.map (fun (a : Staged) => { a with buf := none }) } }
  | .copy x => { o with work := .copy { x with bufs := [] } }
  | _ => o

/-- Sends and half sorts of a saved context hold no buffer. -/
def bareGen (g : GenEnt) : GenEnt :=
  let bare := fun (p : SendPkt) => { p with stg := none }
  { g with sendQ := g.sendQ.map bare, early := g.early.map bare, home := { g.home with fltBufs := [] } }

/-- Nothing of a saved context names a buffer. -/
def unstageAll (c : Nat) (b : Body) : Body :=
  { forgetParked c b with
    opens := b.opens.map (fun o => if o.ctx == c then bareOpen o else o),
    gens := b.gens.map (fun (g : GenEnt) => if g.ctx == c then bareGen g else g),
    fab := { b.fab with rx := b.fab.rx.map (fun (p : Packet) =>
      if p.buf.bind CoilBuf.ctx == some c then { p with buf := none } else p) } }

/-! ### What a restore puts back -/

/-- The items of a save area: unit and hanks of each. The second argument bounds their number. -/
def readItems : Nat → List Hank → List (Nat × List Hank)
  | 0, _ => []
  | fuel + 1, hs =>
    match hs with
    | [] => []
    | h :: rest => (bits (hW h 0) 3 0, rest.take (hW h 1)) :: readItems fuel (rest.drop (hW h 1))

/-- The entries of a unit from its long partials. -/
def unitEntries (w : RouteWork) (u : UnitWork) (hs : List Hank) : UnitWork :=
  if scorePath (tokenRows w u).fmt (weightRows w u).fmt == some true then
    { u with acc := chunks (weightRows w u).count ((chunks 5 hs).map partialEntry) }
  else u

/-- The units of a context in the order of their items: open command, item, array. -/
def savedUnits (b : Body) (c : Nat) : List (Nat × Nat × Nat) :=
  sortKey (fun p => p.2.2) ((liveOpens b c).flatMap (fun o => match o.work with
    | .route w => if routeScores w && !o.held && o.reply.isNone then w.units.map (fun u => (o.oid, unitItem w u, u.arr)) else []
    | _ => []))

/-- The long partials of a context go back to their units. -/
def putUnits (c : Nat) (items : List (Nat × List Hank)) (b : Body) : Body :=
  ((savedUnits b c).zip (items.filter (fun i => i.1 == 1))).foldl (fun b p =>
    modRoute p.1.1 (fun w => { w with units := w.units.map (fun u =>
      if unitItem w u == p.1.2.1 then unitEntries w u p.2.2 else u) }) b) b

/-- The position and the staged answers of a COMBINE from its item; an answer is as long as its row. -/
def putStaged (rowHanks : Nat) (hs : List Hank) (x : CombineWork) : CombineWork :=
  { x with next := hW (hs.headD 0) 0, staged := (x.staged.zip (chunks (cmbSrcRow x.w) (hs.drop 1))).map (fun (p : Staged × List Hank) =>
    { p.1 with hanks := p.2.take rowHanks }) }

/-- The staged answers of a context go back to the splice engine. -/
def putAnswers (c : Nat) (items : List (Nat × List Hank)) (b : Body) : Body :=
  let oids := (liveOpens b c).filterMap (fun o => match o.work with
    | .combine x => if x.started && !o.held && o.reply.isNone then some (o.oid, cmbRowHanks x.w (cmbInFmt x.w)) else none
    | _ => none)
  (oids.zip (items.filter (fun i => i.1 == 5))).foldl (fun b p => modCombine p.1.1 (putStaged p.1.2 p.2.2) b) b

/-- What a restore has read goes back to the units (R83, R160, R308). -/
def putBack (c : Nat) (hs : List Hank) (b : Body) : Body :=
  let items := readItems hs.length hs
  putAnswers c items (putUnits c items b)

end Sys2Proof.Machine
end

