-- ==== Sys2Proof/Machine/Trace.lean ====
section
/-! DEFINITION. Trace, PC sampling and hang reports (spec/16 R395 to R404). The DUMP follows the register map. -/

namespace Sys2Proof.Machine

/-! ### The reservoir (R399 to R401) -/

/-- A PAD record (Table 16.3). -/
def padHank : Hank := i32Hank [0, 15 * 2 ^ 28, 0, 0]

def resBaseLine (o : Obs) : Nat := o.resBase.toNat

/-- RES_WPTR after a line: circular in wrap and pivot modes (R401). -/
def nextWptr (o : Obs) : Nat :=
  let w := o.wptr.toNat + 1
  if o.mode == 1 || w < o.resLines.toNat then w else 0

/-- A line has been written: pointer, WRAPPED, and FULL once the reservoir takes no further line; records staged then are
lost. -/
def lineDone (o : Obs) : Obs :=
  let left := o.left.map (· - 1)
  let o := { o with
    wptr := BitVec.ofNat 28 (nextWptr o), wrapped := o.wrapped || (o.mode != 1 && nextWptr o == 0),
    written := o.written + 1, left := left }
  if left == some 0 then { o with state := 4, lost := o.lost + BitVec.ofNat 32 o.stage.length, stage := [] } else o

/-- What the trace channel of a line's port presents (R254, R259). -/
def presentTr (line : Nat) (bs : List Byte) (b : Body) : Body :=
  { b with xlt := { b.xlt with ports := tmod b.xlt.ports (portOfLine line) (fun p => { p with
      trLine := BitVec.ofNat 28 (line / 32), trData := BitVec.ofNat 2048 (ofLe bs) }) } }

/-- One line goes out through the trace channel of its port (R254, R259): exempt logic (R420, R427), and not counted (R390). -/
def traceLineOut (line : Nat) (bs : List Byte) (b : Body) : Body :=
  charge 7 19 1 { presentTr line bs b with mem := memWrite b.mem (256 * line) bs }

/-- Write one line of the staging, a short one completed with PAD records (R399, R400). -/
def writeTraceLine (b : Body) : Body :=
  let o := b.obs
  if o.stage.isEmpty || !(o.state == 1 || o.state == 2 || o.state == 3) then b
  else
    let hs := o.stage.take 15 ++ List.replicate (15 - o.stage.length) padHank
    let line := resBaseLine o + o.wptr.toNat
    { traceLineOut line (sealedLine hs) b with obs := lineDone { o with stage := o.stage.drop 15 } }

/-- Write every staged record, the last line completed (R400); fuel bounds the lines. -/
def flushTraceN : Nat → Body → Body
  | 0, b => b
  | n + 1, b => if b.obs.stage.isEmpty then b else flushTraceN n (writeTraceLine b)

def flushTrace (b : Body) : Body := flushTraceN b.obs.stage.length b

/-- One whole line of the staging leaves, if there is one. -/
def drainTrace (b : Body) : Body := if b.obs.stage.length ≥ 15 then writeTraceLine b else b

/-- A range of lines meets the page window of an enabled partition (R399, R406). -/
def meetsWindow (b : Body) (base n : Nat) : Bool :=
  b.parts.any (fun p => p.ways != 0 && p.ppnCount != 0 && n != 0
    && base / 8192 < p.ppnBase.toNat + p.ppnCount.toNat && p.ppnBase.toNat ≤ (base + n - 1) / 8192)

/-- The cases in which a write of ENABLE 1 is ignored (R399). -/
def traceCfgBad (b : Body) : Bool :=
  let o := b.obs
  let n := o.resLines.toNat
  !b.lay.loaded || b.lay.pending || n == 0 || lineLimit b < resBaseLine o + n || meetsWindow b (resBaseLine o) n
    || o.mode == 3 || (o.mode == 0 && n ≤ o.resPre.toNat) || quotaOf b o.tracePart.toNat 12 < 1024

/-! ### Control (R398, R402, Table 16.9) -/

/-- The staging buffers still to grant. -/
def stagingReq (o : Obs) : CoilReq := { size := 256, req := 12, ctx := none, part := o.tracePart.toNat, cls := false }

/-- The trace runs once all four buffers are granted; in pivot mode a trigger may have come before (R401, R402). -/
def startTrace (b : Body) : Body :=
  if b.obs.state == 1 && b.obs.bufs.length ≥ 4 then
    { b with obs := { b.obs with state := if b.obs.mode == 0 && b.obs.trigValid then 3 else 2 } }
  else b

/-- One request for a staging buffer. -/
def askStaging (b : Body) : Body :=
  match coilAsk b (stagingReq b.obs) with
  | .grant buf => let b := coilTake buf b
                  { b with obs := { b.obs with bufs := b.obs.bufs ++ [buf] } }
  | .wait _ => coilWait (stagingReq b.obs) b
  | .quotaFault => b

/-- ENABLE becomes 1: a fresh reservoir, the trigger armed, four buffers requested. -/
def traceOn (b : Body) : Body :=
  if traceCfgBad b then { b with obs := { b.obs with cfgBad := true } }
  else
    let o := b.obs
    let b := { b with obs := { o with
      enable := true, state := 1, stage := [], bufs := [], armed := true, wrapped := false, wptr := 0, trigLine := 0,
      trigValid := false, written := 0, lostRun := 0,
      left := if o.mode == 1 then some o.resLines.toNat else none } }
    startTrace ((List.range 4).foldl (fun b _ => askStaging b) b)

/-- ENABLE becomes 0: the staging is flushed, the buffers are freed, STATE is OFF. -/
def traceOff (b : Body) : Body :=
  let b := flushTrace b
  let b := b.obs.bufs.foldl (fun b x => (coilFree x b).1) b
  { b with
    coil := { b.coil with wait := b.coil.wait.filter (fun r => r.req != 12) },
    obs := { b.obs with enable := false, state := 0, stage := [], bufs := [], armed := false, left := none } }

/-- A software trigger (R402). -/
def triggerOp (b : Body) : Body := { b with obs := obsTrigger b.now 0 0 b.obs }

/-- A write of 1 to ARM while STATE is RUNNING. -/
def armOp (b : Body) : Body := if b.obs.state == 2 then { b with obs := { b.obs with armed := true } } else b

/-- A write of OBS_TRACE_CTRL: class bits; MODE and TRACE_PART while ENABLE is 0; then ENABLE, TRIGGER and ARM in that order
(log 26). -/
def traceCtrlWrite (data : W32) (b : Body) : Body :=
  let d := data.toNat
  let o := { b.obs with classes := BitVec.ofNat 5 (bits d 7 3) }
  let o := if o.enable then o else
    { o with mode := BitVec.ofNat 2 (bits d 2 1), tracePart := BitVec.ofNat 2 (bits d 9 8) }
  let b := { b with obs := o }
  let b := if bit d 0 && !o.enable then traceOn b else if !bit d 0 && o.enable then traceOff b else b
  let b := if bit d 10 then triggerOp b else b
  if bit d 11 then armOp b else b

/-- The row TRACE_ENABLE: a write with ENABLE 1. -/
def execTraceEnable (data : W32) (s : State) : Host.Outcome State Fault Refusal :=
  regRow 0x1C0500 (traceCtrlWrite (data ||| 1)) s

/-- The row TRACE_DISABLE: a write with ENABLE 0. -/
def execTraceDisable (data : W32) (s : State) : Host.Outcome State Fault Refusal :=
  regRow 0x1C0500 (traceCtrlWrite (data &&& 0xFFFFFFFE)) s

/-- The row TRIGGER: a software trigger. A trigger by a notice is part of the notice. -/
def execTrigger (s : State) : Host.Outcome State Fault Refusal := regRow 0x1C0500 triggerOp s

/-- The row ARM. -/
def execArm (s : State) : Host.Outcome State Fault Refusal := regRow 0x1C0500 armOp s

/-- The row TRACE_IDLE_FLUSH: 4,096 beats have passed without a new record (R400). -/
def execTraceIdleFlush (s : State) : Host.Outcome State Fault Refusal := s.onBody (fun _ b => flushTrace b)

/-- A write of OBS_MARK (R397). -/
def markOp (c : Option Nat) (data : W32) (b : Body) : Body := trace 19 c 9 data.toNat 0 b

/-- The row OBS_MARK_WRITE: a write through MGP or a record with GLOBAL 1. One with GLOBAL 0 is a REG_WRITE. -/
def execObsMarkWrite (data : W32) (s : State) : Host.Outcome State Fault Refusal := regRow 0x1C041C (markOp none data) s

/-! ### PC sampling (R395) -/

/-- A write of MRL_PC_CTRL: SHIFT outside 6 to 24 is ignored; EN becoming 1 starts afresh. -/
def pcCtrlWrite (data : W32) (b : Body) : Body :=
  let d := data.toNat
  let shift := bits d 5 1
  let m := b.mrl
  let m := if 6 ≤ shift && shift ≤ 24 then { m with pcShift := BitVec.ofNat 5 shift } else m
  let m := if bit d 0 && !m.pcEn then { m with pcSample := m.pcSample &&& 0x7FFFFFFF } else m
  { b with mrl := { m with pcEn := bit d 0 } }

/-- The row MRL_PC_ENABLE: a write with EN 1. -/
def execMrlPcEnable (data : W32) (s : State) : Host.Outcome State Fault Refusal :=
  regRow 0x090010 (pcCtrlWrite (data ||| 1)) s

/-- STALL (R395): frozen, holding for the reason of a bit of MRL_WAIT, idle, or executing. -/
def stallOf (b : Body) : Nat :=
  let w := mrlWait b
  if b.hang.halted then 6 else if bit w 4 then 5
  else ((List.range 4).find? (fun i => bit w i)).elim 0 (· + 1)

/-- A sample is latched and, in the PC class, traced. The program counter is a free value (log 9). -/
def pcSampleOp (b : Body) : Body :=
  if !b.mrl.pcEn then b
  else
    let (k, b) := fresh b
    let c := b.mrl.held.map (listCtx b)
    let w := (Config.marlinPc k).toNat + fld 22 19 (stallOf b) + fld 28 23 (c.getD 0) + 2 ^ 31
    trace 4 c 4 w 0 { b with mrl := { b.mrl with pcSample := BitVec.ofNat 32 w } }

/-- The row PC_SAMPLE. -/
def execPcSample (s : State) : Host.Outcome State Fault Refusal := s.onBody (fun _ b => pcSampleOp b)

/-! ### Hangs (R403, R404) -/

/-- N_HANG for an instance, if HUNG is 0. -/
def reportHang (w : Watch) (b : Body) : Body :=
  let b := { b with hang := { b.hang with units := b.hang.units ||| BitVec.ofNat 21 (2 ^ w.unit) } }
  if b.hang.hung then b
  else match (waitInsts b).find? (fun i => i.unit == w.unit && i.inst == w.inst) with
    | none => b
    | some i =>
      let b := { b with hang := { b.hang with hung := true, unit := w.unit, inst := w.inst, ctx := i.ctx } }
      notice Ntc.hang i.ctx 0 0 1 [fld 4 0 w.unit + fld 8 5 w.inst, i.offset, i.value, w.since % 2 ^ 32] 19 b

/-- Watchdogs at the limit: the earliest first, then the lowest unit, then the lowest instance. None while the block is halted or shut, and a limit of
0 disables them. -/
def watchdogOp (b : Body) : Body :=
  let lim := b.hang.limit.toNat
  if lim == 0 || b.hang.halted || b.blk.shut then b
  else
    let due := b.obs.watch.filter (fun w => !w.hit && lim ≤ w.count b.now)
    let b := { b with obs := { b.obs with
      watch := b.obs.watch.map (fun w => if due.contains w then { w with hit := true } else w) } }
    (sortKey (fun w => ((b.now - w.count b.now) * 32 + w.unit) * 16 + w.inst) due).foldl (fun b w => reportHang w b) b

/-- The row WATCHDOG_LIMIT. -/
def execWatchdogLimit (s : State) : Host.Outcome State Fault Refusal := s.onBody (fun _ b => watchdogOp b)

end Sys2Proof.Machine
end

