-- ==== Sys2Proof/Machine/Save.lean ====
section
/-! DEFINITION. RESUME, saves and restores of contexts (spec/11 R277 to R279, spec/12 R299 to R310). -/

namespace Sys2Proof.Machine

/-! ### A context goes on -/

/-- A held command of a context that may run starts; a SAVE_CONTEXT waits for its cheap point. -/
def startIfMay (oid : Nat) (b : Body) : Body :=
  match b.openOf oid with
  | some o => if o.held && o.work != .save && mayRun b o then startHeld oid b else b
  | none => b

/-- What a context held back goes on once it is in RUN again, in submission order (R306, Table 11.9): held commands, saves, and the
results of its pieces. Its streams go on with those of all others, under R16. -/
def backInRun (own c : Nat) (b : Body) : Body :=
  let oids := (b.opens.filter (fun o => o.ctx == c && !o.cmd.isGlobal)).map Open.oid
  resumePieces own c (startSaves c (oids.foldl (fun b k => startIfMay k b) b))

/-- The save path takes a halyard engine for a context, if one is idle, and waits on it for reads or writes (R213, R215). -/
def pathEngine (c on : Nat) (b : Body) : Body := engineWait (saveHolder c) 6 on (takeEngine (saveHolder c) 6 b).2

/-! ### RESUME (R277, R278) -/

/-- A saved context starts to be restored. -/
def startRestore (c : Nat) (b : Body) : Body :=
  pathEngine c 1 (b.modCtx c (fun x => { x with st := .restoring, save := none }))

/-- RESUME by the state of its context (Table 11.9). One of a context in RUN completes with NOT_FAULTED, one of a SAVE_STALLED context at
once; one of a context that is being saved or restored completes with the restore. -/
def resumeOp (own : Nat) (r : CmdRec) (b : Body) : Body :=
  let c := r.ctx
  let oid := b.nextOid
  let wait := fun b => acceptOpen r (.resume true) false [] [] b
  let now := fun b => complete own oid 0 0 0 (acceptOpen r (.resume false) false [] [] b)
  match (b.ctx c).st with
  | .run => acceptDoneAs own r Code.notFaulted 0 [0, 0, 0, 0] b
  | .faulted => backInRun own c (now (b.modCtx c (fun x => { x with st := .run, cmdRec := none, rcvStop := false })))
  | .saveStalled => now (pathEngine c 2 (b.modCtx c (fun x => { x with st := .saving, saveRec := none })))
  | .saved => startRestore c (wait (b.modCtx c (fun x => { x with auto := false })))
  | .restoreStalled => wait (pathEngine c 1 (b.modCtx c (fun x => { x with st := .restoring, saveRec := none })))
  | _ => wait b

/-! ### SAVE_CONTEXT (R303) -/

/-- SAVE_CONTEXT at its acceptance: the save waits for the next cheap point. -/
def saveOp (r : CmdRec) (b : Body) : Body := startSaves r.ctx (acceptOpen r .save true [] [] b)

/-- The row SAVE_CONTEXT. -/
def execSaveContext (ctx : BitVec 6) (s : State) : Host.Outcome State Fault Refusal :=
  s.onBody (fun own b => withHead own ctx.toNat Cmd.saveContext saveOp b)

/-! ### The save (R303, R304, R307) -/

/-- A context at its cheap point starts to be saved. -/
def saveStartOp (c : Nat) (b : Body) : Body :=
  let x := b.ctx c
  if frozen b || !(x.savePending || x.evictPending) || !(x.st == .run || x.st == .faulted) then b
  else
    let area := areaHanks (liveItems b c)
    let n := openHanks area
    let body := fillFree area b.freeCtr
    let mine := fun (o : Open) => o.ctx == c && !o.cmd.isGlobal && dropsAtSave b o
    let dropped := b.opens.any mine
    let cause := if x.savePending then 1 else 0
    let hs := saveHeader c cause dropped b.mrl.fwId.toNat body :: body
    let work : SaveWork := { items := hs, total := hs.length, cause := cause, byEviction := x.evictPending }
    let b := releaseUnits c { b with
      freeCtr := b.freeCtr + n, opens := b.opens.map (fun o => if mine o then restartOpen o else moveOut c o) }
    pathEngine c 2 (b.modCtx c (fun x => { x with
      st := .saving, savePending := false, evictPending := false, dropped := dropped, save := some work }))

/-- The row SAVE_START. -/
def execSaveStart (ctx : BitVec 6) (s : State) : Host.Outcome State Fault Refusal :=
  s.onBody (fun _ b => saveStartOp ctx.toNat b)

/-- A miss in the save area stalls the save or the restore (Table 11.9). -/
def saveMiss (c seq level access vaddr pos : Nat) (st : CtxState) (b : Body) : Body :=
  let r : RestartRec :=
    { unit := 9, access := access, level := level, kind := 1, ctx := c, cmdSeq := seq, vaddr := vaddr, position := pos }
  notice Ntc.faultSoft (some c) seq Code.xltMiss 2 (recWords r) 9 (b.modCtx c (fun x => { x with st := st, saveRec := some r }))

/-- The open command that a save or a restore serves. -/
def pathOpen (b : Body) (c : Nat) (restore : Bool) : Option Open :=
  b.opens.find? (fun o => o.ctx == c && !o.cmd.isGlobal && !o.held && (match o.work with
    | .save => !restore
    | .resume r => r && restore
    | _ => false))

/-- Progress of the save path, in lines. -/
def savePos (b : Body) (c : Nat) : Nat := (((b.ctx c).save.map SaveWork.pos).getD 0)

/-- Run the stream of the save path. The number says what a stalled access waits for. -/
def savePathRun (own c : Nat) (restore : Bool) (m : Io Unit) (b : Body) : Nat × Body :=
  let o := pathOpen b c restore
  let seq := (o.map (fun o => o.cmd.seq)).getD 0
  let moved := countLines 5 b
  match Io.on m b with
  | (.ok _, b') => (0, moved b')
  | (.error (.soft level access v), b') =>
    (0, saveMiss c seq level access v (savePos b' c) (if restore then .restoreStalled else .saveStalled) (moved b'))
  | (.error (.hard code kind addr u extra), b') =>
    (0, hardFault own c (o.map Open.oid) seq code (u.getD 9) kind addr extra (moved b'))
  | (.error (.wait on), b') => (on, moved b')

/-- The save path runs on the engine that it holds for the context, or takes (R213). -/
def savePathGo (own c : Nat) (restore : Bool) (m : Io Unit) (b : Body) : Body :=
  engineRun (saveHolder c) 6 (savePathRun own c restore m) b

/-- Write the save area line by line. -/
def writeSave (c : Nat) : Nat → Io Unit
  | 0 => pure ()
  | n + 1 => do
    let b ← Io.get
    match (b.ctx c).save with
    | none => pure ()
    | some w =>
      if w.items.isEmpty then pure ()
      else do
        let items := frontLine (itemsAt (saveBase (b.ctx c) + (w.total - w.items.length)) w.items)
        writeHanks c none items
        Io.upd (fun b => act 5 9 0 (b.modCtx c (fun x => { x with save := x.save.map (fun (w : SaveWork) =>
          { w with items := w.items.drop items.length, pos := w.pos + 1 }) })))
        writeSave c n

/-- The commands of a context that a save or a restore completes. -/
def completeWhere (own c : Nat) (f : Open → Bool) (b : Body) : Body :=
  ((b.opens.filter (fun o => o.ctx == c && !o.cmd.isGlobal && !o.held && f o)).map Open.oid).foldl
    (fun b k => complete own k 0 0 0 b) b

/-- Buffers that a save frees, and the requests that end with it: those of the skein and of the tile port hold what the
saved context is still sent, and that of a read in progress holds the answer being read. -/
def freeSaved (c : Nat) (b : Body) : Body :=
  let keeps := fun (ctx : Option Nat) (req : Nat) => ctx != some c || req == 8 || req == 10
  let b := unstageAll c b
  { b with coil := { b.coil with
      bufs := b.coil.bufs.filter (fun x => keeps x.ctx x.req || b.skn.stage == some x),
      staging := b.coil.staging.filter (fun x => x.buf.ctx != some c),
      wait := b.coil.wait.filter (fun r => keeps r.ctx r.req) } }

/-- A staged answer that a restore brings back takes a buffer, if one is free (log 52). -/
def restageOne (c oid : Nat) (b : Body) (a : Staged) : Body :=
  if a.buf.isSome then b
  else match coilAsk b (coilReqOf b c 6 a.hanks.length) with
    | .grant buf => modCombine oid (fun x => { x with staged := x.staged.map (fun (y : Staged) =>
        if y == a then { y with buf := some buf } else y) }) (coilTake buf b)
    | _ => b

/-- Staged answers of a restored context. -/
def restage (c : Nat) (b : Body) : Body :=
  (b.opens.filter (fun o => o.ctx == c)).foldl (fun b o =>
    (((combineOf b o.oid).map CombineWork.staged).getD []).foldl (restageOne c o.oid) b) b

/-- A RESUME of a context waits for its restore. -/
def resumeWaits (b : Body) (c : Nat) : Bool := b.opens.any (fun o => o.ctx == c && o.work == .resume true)

/-- CTX_SW_IN after a save (R309, Table 12.11): an eviction switches to the context whose latency-critical request waits, which was
not saved, so L_in is 0. After any other save the incoming context is the one that is granted a unit next (DEDUCED, log 123). -/
def incoming (b : Body) (c : Nat) (w : SaveWork) : Option Nat :=
  if w.byEviction then (b.coil.wait.find? (fun r => r.cls && r.part == b.partOf c)).map (fun r => r.ctx.getD 0) else none

/-- The context is SAVED: its command replies, its buffers are freed, and an eviction ends. -/
def finishSave (own c : Nat) (w : SaveWork) (b : Body) : Body :=
  let (n, b) := fresh b
  let b := b.modCtx c (fun x => { x with
    st := .saved, lout := w.total, auto := w.byEviction && w.cause == 0 && !resumeWaits b c, save := none, saveRec := none })
  let next := incoming b c w
  let b := { b with cr := { b.cr with
    swOut := BitVec.ofNat 32 (fld 22 0 w.total + fld 28 23 c), swBeats := Config.switchBeats n, swWaits := next.isNone,
    swIn := (next.map (fun d => BitVec.ofNat 32 (fld 28 23 d))).getD b.cr.swIn } }
  let b := completeWhere own c (fun o => o.work == .save) (count Cnt.saves 1 (some c) (freeSaved c b))
  chooseVictim (endEviction c b)

/-- A RESUME that waited for the save starts the restore. -/
def restoreIfAsked (c : Nat) (b : Body) : Body := if (b.ctx c).st == .saved && resumeWaits b c then startRestore c b else b

/-- SAVE_DONE: the save area is written. -/
def saveDoneOp (own c : Nat) (b : Body) : Body :=
  match (b.ctx c).save with
  | none => b
  | some w =>
    if frozen b || (b.ctx c).st != .saving then b
    else restoreIfAsked c (savePathGo own c false (do
      writeSave c w.items.length
      Io.upd (finishSave own c w)) b)

/-! ### The restore (R305, R308) -/

/-- Read on in the save area, line by line; what has been read stays when a miss stops the restore (Table 11.7, R277). -/
def readMore (c : Nat) (runs : List (Nat × Nat)) : Io Unit := do
  let b ← Io.get
  let have_ := (((b.ctx c).save.map (fun w => w.got.length)).getD 0)
  (leftRuns have_ runs).forM (fun r => do
    let hs ← readRun c r.1 r.2
    Io.upd (fun b => b.modCtx c (fun x => { x with save := x.save.map (fun (w : SaveWork) =>
      { w with got := w.got ++ hs, pos := w.pos + 1 }) })))

/-- What a restore has read so far. -/
def gotHanks (c : Nat) : Io (List Hank) := do
  let b ← Io.get
  pure (((b.ctx c).save.map SaveWork.got).getD [])

/-- Read the save area from where the restore stands and check it: VERSION, CONTEXT, FW_ID and CRC (R308). Answers its hanks. -/
def readSave (c : Nat) : Io (List Hank) := do
  let b ← Io.get
  let base := saveBase (b.ctx c)
  if (b.ctx c).save.isNone then Io.upd (fun b => b.modCtx c (fun x => { x with save := some {} })) else pure ()
  readMore c [(base, 1)]
  let h := (← gotHanks c).headD 0
  let n := hW h 1
  if bits (hW h 0) 7 0 != 1 || bits (hW h 0) 13 8 != c || hW h 2 != b.mrl.fwId.toNat then Io.hard Code.ctxSaveBad 1 (v44 base)
  else do
    readMore c ((base, 1) :: lineRuns (base + 1) n)
    let hs ← gotHanks c
    if crc32 ((hs.drop 1).flatMap hBytes) != hW h 3 then Io.hard Code.ctxSaveBad 1 (v44 base) else pure hs

/-- The context is in RUN again with its live state: RESUMEs reply, and its commands go on. -/
def finishRestore (own c : Nat) (hs : List Hank) (b : Body) : Body :=
  let n := hs.length
  let b := (putBack c (hs.drop 1) b).modCtx c (fun x => { x with
    st := .run, lin := n, auto := false, dropped := false, cmdRec := none, saveRec := none, rcvStop := false, save := none })
  let b := { b with cr := { b.cr with swIn := BitVec.ofNat 32 (fld 22 0 n + fld 28 23 c), swWaits := false } }
  backInRun own c (completeWhere own c (fun o => o.work == .resume true) (restage c b))

/-- RESTORE_DONE: the save area is read. -/
def restoreDoneOp (own c : Nat) (b : Body) : Body :=
  if frozen b || (b.ctx c).st != .restoring then b
  else savePathGo own c true (do
    let hs ← readSave c
    Io.upd (finishRestore own c hs)) b

/-- AUTO_RESTORE (R305): 32,768 beats without a waiting latency-critical request of the partition have passed. -/
def autoRestoreOp (c : Nat) (b : Body) : Body :=
  let x := b.ctx c
  let waits := b.coil.wait.any (fun r => r.cls && r.part == x.part.toNat)
  if frozen b || x.st != .saved || !x.auto || waits then b else startRestore c b

/-- The row AUTO_RESTORE. -/
def execAutoRestore (ctx : BitVec 6) (s : State) : Host.Outcome State Fault Refusal :=
  s.onBody (fun _ b => autoRestoreOp ctx.toNat b)

end Sys2Proof.Machine
end

