-- ==== Sys2Proof/Machine/Forecast.lean ====
section
/-! DEFINITION. The draw forecast (spec/17 R422 to R425): bounds of queued and open commands (Table 12.10), their energy laid
over the bins, and the publication. -/

namespace Sys2Proof.Machine

/-! ### Bounds in beats (Table 12.10, R423) -/

/-- Pass length of 64 tokens (Table 3.1). -/
def passBeats (w : RouteWork) : Nat :=
  let t := (fmtOfCode w.tokFmt).getD .fp32
  let v := (fmtOfCode w.wFmt).getD .fp32
  if t == .e2m1 && v == .e2m1 then 38 else if scorePath t v == some true then 70 else 262

/-- A write-acknowledge latency beside PWR_LAT, which holds L_r + L_w: half of it (DESIGN CHOICE, log 91). -/
def latW (b : Body) : Nat := b.pwr.lat.toNat / 2

/-- Assignments of a step at their greatest. -/
def mostAssigned (w : RouteWork) : Nat := w.n * w.cfg.kp

/-- Lines that the flint sorter writes. -/
def sortLines (w : RouteWork) : Nat :=
  let e := w.cfg.experts
  let s := mostAssigned w
  cdiv (e + 1) 15 + cdiv (cdiv s 4) 15 + cdiv (cdiv s 8 + e) 15 + 3

/-- Passes over the assignments in placement. -/
def placePasses (b : Body) : Nat := if b.cr.plumb then 2 else 1

/-- The bound of a replicated ROUTE_STEP, W and S at their greatest (R74, R123, R145, R146). -/
def routeBound (b : Body) (w : RouteWork) : Nat :=
  let e := w.cfg.experts
  let s := mostAssigned w
  let cards := min e s
  let p := placePasses b
  let lines := sortLines w
  40 + b.pwr.lat.toNat + cdiv (unitCount w) (popCount (garPresent b)) * kTiles w * passBeats w
    + cdiv e 16 + 14 + w.cfg.k * (w.cfg.ovf + 1) + cdiv (e + 1) 16 + cdiv e 32 + p * cdiv s 32 + 2 * lines
    + 24 + 4 * cards + (e - cards) + latW b
    + (if w.cfg.ec then cdiv (e * w.cfg.capacity) 32 + 16 else 0)

/-- The bound of a COPY: group moves, or conversion. -/
def copyBound (b : Body) (x : CopyWork) : Nat :=
  let rows := (x.dst.ext.drop 1).foldl (fun a n => a * n) 1
  let n := x.dst.ext.foldl (fun a n => a * n) 1
  let l := if x.mode == 0 then 0 else x.idx.ext.foldl (fun a n => a * n) 1
  let g := rows * x.dst.groups * fmtHg (layFmt x.dst)
  let e := max 1 x.engines
  30 + (if x.identity then cdiv g (16 * e) else cdiv n (64 * e)) + cdiv l (64 * e) + b.pwr.lat.toNat

/-- The bound of a replicated COMBINE. -/
def combineBound (b : Body) (w : List Nat) : Nat :=
  if cmbHomed w then 0 else 40 + cmbTokens w * max 1 (cmbKp w) * cdiv (cmbHidden w) 256 + b.pwr.lat.toNat

/-- The longest interval between stop points of the units that serve a command (Table 12.4). -/
def stopInterval (b : Body) (o : Open) : Nat :=
  match o.work with
  | .route w =>
    let select := if w.cfg.ec then cdiv (w.cfg.experts * w.cfg.capacity) 32 + 16
      else max (cdiv w.cfg.experts 16) (w.cfg.k * (w.cfg.ovf + 1))
    let sort := max (cdiv (mostAssigned w) 32 * placePasses b) (2 * sortLines w + latW b)
    let send := match w.gen.bind b.gen with
      | some g => max 1 (min w.cfg.kp g.map.members.length) * cdiv (1 + g.tokHanks) 16 + 8
      | none => 0
    max (max (passBeats w) select) (max sort send)
  | .combine x => max 1 (cmbKp x.w) * cdiv (cmbHidden x.w) 256
  | .copy _ => 4
  | _ => 0

/-- The longest interval to the next cheap point of a context (R299). -/
def cheapInterval (b : Body) (c : Nat) : Nat :=
  ((b.opens.filter (fun o => o.ctx == c && o.reply.isNone)).map (stopInterval b)).foldl max 0

/-- The bound of a save of a context as it stands, and of a RESUME. -/
def saveBound (b : Body) (c : Nat) : Nat :=
  cheapInterval b c + 1200 + cdiv ((liveItems b c).map (fun i => i.hanks.length + 1)).sum 60
def restoreBound (b : Body) (c : Nat) : Nat := 1200 + cdiv (b.ctx c).lout 60

/-- The bound of an open command; 0 for one that Table 12.10 does not bound. -/
def openBound (b : Body) (o : Open) : Nat :=
  if o.reply.isSome then 0
  else match o.work with
    | .route w => if w.gen.isSome then 0 else routeBound b w
    | .combine x => combineBound b x.w
    | .copy x => copyBound b x
    | .save => saveBound b o.ctx
    | .resume r => if r then restoreBound b o.ctx else 40
    | _ => 0

/-- What reads of memory give now, without a trace of them. -/
def peekRead {α : Type} (m : Io α) (b : Body) : Option α :=
  match Io.on m b with
  | (.ok a, _) => some a
  | _ => none

/-- What a record not yet accepted leads to, as memory stands: a bound; 0 for a record that acceptance would refuse. -/
def plannedBound (own : Nat) (b : Body) (r : CmdRec) : Option Nat :=
  if r.code == Cmd.routeStep then
    (peekRead (planRoute own r) b).map (fun p => match p with
      | .error _ => 0
      | .ok p => if p.home.isSome then 0 else routeBound b (plannedWork (routeRec r) p))
  else if r.code == Cmd.combine then
    (peekRead (readAcc r.ctx r.addr 4) b).map (fun hs => combineBound b ((List.range 16).map (recW hs)))
  else (peekRead (copyReads r.ctx r.addr) b).map (fun x => match x with
      | .error _ => 0
      | .ok x => copyBound b x)

/-- The bound of a RESUME that waits for acceptance, by the state of its context. -/
def resumeBound (b : Body) (c : Nat) : Nat :=
  if (b.ctx c).st == .saved then restoreBound b c else if (b.ctx c).st == .faulted then 40 else 0

/-- The bound of a record not yet accepted. One whose descriptor or configuration cannot be read now has a free one (log 10).
LOAD_LAY and APPLY_SPLICE have the bounds of R376, L_r the rest of PWR_LAT beside L_w. -/
def queuedBound (own : Nat) (b : Body) (r : CmdRec) : Nat :=
  if r.code == Cmd.regRead || r.code == Cmd.regWrite then 16
  else if r.code == Cmd.saveContext then saveBound b r.ctx
  else if r.code == Cmd.resume then resumeBound b r.ctx
  else if r.code == Cmd.loadLay then 80000 + 4 * r.b 0 + (b.pwr.lat.toNat - latW b)
  else if r.code == Cmd.applySplice then 70000 + 4 * r.b 0 + (b.pwr.lat.toNat - latW b)
  else if [Cmd.routeStep, Cmd.combine, Cmd.copy].contains r.code then
    (plannedBound own b r).getD (Config.unreadBound r.code r.seq)
  else 0

/-! ### Energy over the bins (R423) -/

/-- e_c of Table 17.2, in nJ. -/
def classNj (c : Nat) : Nat := [46, 18, 12, 20, 15, 14, 4].getD c 0

/-- The commands of a context (none for the global queue) in submission order: bound and energy class. -/
def forecastList (own : Nat) (b : Body) (q : Option Nat) : List (Nat × Nat) :=
  let os := b.opens.filter (fun o => (if o.cmd.isGlobal then none else some o.ctx) == q)
  let rs := (sortKey CmdRec.arr (b.cp.queue ++ b.cp.express)).filter (fun r => (if r.isGlobal then none else some r.ctx) == q)
  os.map (fun o => (openBound b o, classOf o.cmd.code)) ++ rs.map (fun r => (queuedBound own b r, classOf r.code))

/-- Beats of [lo, lo + n) that lie in the bin of beats [from_, from_ + r). -/
def beatsIn (lo n from_ r : Nat) : Nat := min (lo + n) (from_ + r) - max lo from_

/-- Energy in nJ at 0.75 V that commands laid end to end from beat `lo` put into a bin. -/
def binNj (r i : Nat) : Nat → List (Nat × Nat) → Nat
  | _, [] => 0
  | lo, (n, c) :: rest => beatsIn lo n (i * r) r * classNj c + binNj r i (lo + n) rest

/-- Q_i in nJ at 0.75 V over the second: every context's commands from the publication on. Without a RATE nothing is laid. -/
def queuedNj (own : Nat) (b : Body) (i : Nat) : Nat :=
  let r := b.pwr.rate.toNat * 10 ^ 5
  if r == 0 then 0
  else ((none :: (List.range 64).map some).map (fun q => binNj r i 0 (forecastList own b q))).sum

/-- Bin i: min(1,180, the sum of the three draws rounded up) in units of 0.1 W. -/
def binOf (own : Nat) (b : Body) (i : Nat) : Nat :=
  let scale := 750 ^ 2 * 10 ^ 5
  min 1180 (cdiv ((staticP b + 1000 * b.pwr.hint.getD i 0) * scale + queuedNj own b i * b.pwr.vzc.toNat ^ 2) (1000 * scale))

/-! ### The publication (R422, R424, R425, R431) -/

/-- DRAW_PUBLISH, once for each second: any BREACH of the second that ended comes first, OVER last. -/
def publishOp (own : Nat) (b : Body) : Body :=
  let s := secondOf b
  if b.pwr.published == some s then b
  else
    let b := secondEndOp b
    let b := { b with pwr := b.pwr.shiftOnce s }
    let bins := (List.range 60).map (binOf own b)
    let decl := b.pwr.decl.filter (fun d => s ≤ d.1 + 1) ++ [(s + 59, bins.getD 59 0)]
    let b := { b with pwr := { b.pwr with
      fc := bins, fcSeq := BitVec.ofNat 32 s, decl := decl, published := some s, strobes := b.pwr.strobes + 1 } }
    let b := { b with pwr := { b.pwr with declNow := declOf b s } }
    match (List.range 60).find? (fun i => b.pwr.c < bins.getD i 0) with
    | some i => raiseDraw 2 (bins.getD i 0) (fld 15 0 b.pwr.c + fld 31 16 i) b
    | none => b

/-- The row DRAW_PUBLISH. -/
def execDrawPublish (s : State) : Host.Outcome State Fault Refusal := s.onBody publishOp

end Sys2Proof.Machine
end

