-- ==== Sys2Proof/Machine/Grants.lean ====
section
/-! DEFINITION. Grants of units and of coil buffers, yields (spec/01 R16, spec/11 R271, spec/12 R296, R297), responses of the memory
ports (R258), and what the mooring bridges took while the block was frozen (R408, R427). -/

namespace Sys2Proof.Machine

/-! ### Everything goes on (R16, R213) -/

/-- Steps and COMBINEs whose streams need a halyard engine. -/
def streamClaims (b : Body) : List Claim :=
  b.opens.filterMap (fun o => match o.work with
    | .route w =>
      if o.reply.isNone && !o.held && (b.ctx o.ctx).st == .run && w.stage != .cards && w.stage != .finished then
        some (claimOf b o.oid o.ctx) else none
    | .combine x => if x.started && o.reply.isNone && (b.ctx o.ctx).st == .run then some (claimOf b o.oid o.ctx) else none
    | _ => none)

/-- COPYs that wait for engines: those that come before every other stream in R16's order, and the rest. -/
def copyOrder (b : Body) : List Nat × List Nat :=
  let isCopy := fun (c : Claim) => (copyClaims b).any (fun x => x.oid == c.oid)
  let l := claimOrder b 0 (copyClaims b ++ streamClaims b)
  ((l.takeWhile isCopy).map Claim.oid, ((l.dropWhile isCopy).filter isCopy).map Claim.oid)

/-- COPYs that hold their engines, or need none. -/
def copiesHeld (b : Body) : List Nat :=
  (b.opens.filter (fun o => (copyOf b o.oid).isSome && !copyWaits b o)).map Open.oid

def driveCopies (own : Nat) (ks : List Nat) (b : Body) : Body := ks.foldl (fun b k => driveCopy own k b) b

/-- The halves of home roles are written in the order in which the flint sorter serves them. -/
def driveHomes (own : Nat) (b : Body) : Body :=
  (claimOrder b 3 ((b.gens.filter (halfDue b)).map (fun g => claimOf b g.oid g.ctx))).foldl (fun b c =>
    match b.gens.find? (fun g => g.oid == c.oid) with
    | some g => driveHomeWrites own g.uid b
    | none => b) b

/-- One turn of every stream that has begun and is not stopped. -/
def driveTurn (own : Nat) (b : Body) : Body :=
  let b := driveCopies own (copiesHeld b) b
  let order := copyOrder b
  let b := driveHomes own (routeGo own (driveCopies own order.1 b))
  let b := driveResults own (retryReads own (spliceAll own (marlinGo own b)))
  driveCopies own order.2 b

/-- How far every stream is. -/
def driveMark (b : Body) : List (List Nat) :=
  routeMark b
  ++ b.opens.map (fun o => [o.oid, b2n o.reply.isSome] ++ (match o.work with
    | .copy x => [x.pos, x.bufs.length]
    | .combine x => [x.next, x.rowsDone, x.staged.length, b2n x.started]
    | _ => []))
  ++ [[b.mrl.cards.length, b2n b.mrl.held.isSome, sknFill b, b2n b.skn.reading.isSome, b.thm.pieces.length]]

def driveLoop (own : Nat) : Nat → Body → Body
  | 0, b => b
  | fuel + 1, b =>
    let b' := driveTurn own b
    if driveMark b' == driveMark b then b' else driveLoop own fuel b'

/-! ### Bridges (R408, R427) -/

/-- A response: to the outstanding request that it names, or else to the next access to its line. Status 3 is reserved. -/
def takeMemResponse (own line id status : Nat) (data : BitVec 2048) (b : Body) : Body :=
  if status == 3 then b
  else match b.xlt.reqs.find? (fun r => r.line == line && r.id == id) with
    | none => { b with xlt := { b.xlt with bridge := b.xlt.bridge ++ [{ line := line, status := status, data := some data }] } }
    | some r =>
      let b := { b with xlt := { b.xlt with reqs := b.xlt.reqs.erase r, inval := b.xlt.inval.erase (line, id) } }
      let b := if status == 1 then count Cnt.eccCorr 1 (some r.ctx) b else b
      let seq := ((b.openOf r.oid).map (fun o => o.cmd.seq)).getD 0
      if status == 2 then hardFault own r.ctx (some r.oid) seq Code.memUe 8 2 line [] b else b

/-- The completions that WP's bridge took. -/
def drainWp (b : Body) : Body :=
  b.mrl.bridge.foldl (fun b h => completionOp h b) { b with mrl := { b.mrl with bridge := [] } }

/-- What TP's bridge took, one by one: behind a header that waits for its buffer the rest stays in the bridge (R272). -/
def drainTp (own : Nat) : Nat → Body → Body
  | 0, b => b
  | fuel + 1, b =>
    if b.thm.tpHold then b
    else match b.thm.bridge with
      | [] => b
      | i :: rest =>
        let b := { b with thm := { b.thm with bridge := rest } }
        drainTp own fuel (match i with
          | .header h => tileHeaderOp own h b
          | .payload hs => tileReceiveOp own hs b)

/-- The responses that the memory ports' bridges took. -/
def drainPorts (own : Nat) (b : Body) : Body :=
  b.xlt.frozenRs.foldl (fun b r => takeMemResponse own r.line r.id r.status r.data b) { b with xlt := { b.xlt with frozenRs := [] } }

/-- What the mooring bridges took while the block was frozen comes in. -/
def drainBridges (own : Nat) (b : Body) : Body := drainPorts own (drainTp own b.thm.bridge.length (drainWp b))

/-- Everything goes on as far as the free units, buffers and ports allow, unless the block is frozen. -/
def driveAll (own : Nat) (b : Body) : Body :=
  if frozen b then b
  else
    let b := drainBridges own b
    shutdownEnd (pruneHaw own (driveLoop own (b.opens.length + b.gens.length + 2) b))

/-! ### Coil grants (R271, R297) -/

/-- A granted request of a unit whose work goes on with it at once: a packet that waits before the switch or the skein. -/
def retryUnit (own : Nat) (r : CoilReq) (b : Body) : Body :=
  if r.req == 9 then
    let fits := fun (p : Packet) => forHome b 0 p && r.size == exP p && (homeOf b (exXg p) (exGeneration p)).any (fun g => some g.ctx == r.ctx)
    match frontPacket fits b with
    | some p => tokenOp own p b
    | none => b
  else if r.req == 8 then
    let fits := fun (p : Packet) => isAnswer p && r.size == exP p &&
      ((liveGen b (exXg p) (exGeneration p)).map GenEnt.ctx) == r.ctx
    match frontPacket fits b with
    | some p => pruneSkn (answerOp own p b)
    | none => b
  else b

/-- A granted buffer goes to what asked for it: the tile port, the trace staging, or a unit that asks again. -/
def useGrant (own : Nat) (r : CoilReq) (buf : CoilBuf) (b : Body) : Body :=
  if r.req == 10 then
    let b := coilTake buf b
    { b with thm := { b.thm with header := b.thm.header.map (fun (t : Tile) => { t with buf := some buf }), tpHold := false } }
  else if r.req == 12 then
    let b := coilTake buf b
    startTrace { b with obs := { b.obs with bufs := b.obs.bufs ++ [buf] } }
  else retryUnit own r b

/-- The waiting request that is granted next, with its buffer. -/
def nextGrant (b : Body) : Option (CoilReq × CoilBuf) :=
  (coilOrder b b.coil.wait).findSome? (fun r => match coilAsk b r with
    | .grant buf => some (r, buf)
    | _ => none)

/-- A COIL_GRANT is for one request, made under the quota that stood then (R270), and for no other. -/
def chooseReq (r : CoilReq) (b : Body) : Body := { b with coil := { b.coil with wait := b.coil.wait.erase r, chosen := some r } }

/-- COIL_GRANT: the first waiting request that can be granted is. The units then go on; one that waited asks again, and finds the
buffer. -/
def coilGrantOp (own : Nat) (b : Body) : Body :=
  if frozen b then b
  else
    let b := match nextGrant b with
      | none => b
      | some (r, buf) => useGrant own r buf (chooseReq r b)
    let b := driveAll own b
    chooseVictim { b with coil := { b.coil with chosen := none } }

/-! ### Yields (R296, Table 12.4) -/

/-- Units that a command may hold between two steps at a stop point: Hawser, splice engine, Marlin, flint sorter, selection, halyard
engines. A garnet array yields only at the end of a work unit, where it is granted anew. -/
def yieldUnits : List Nat := [6, 5, 4, 3, 2, 0]

/-- The commands that hold instances of a unit. -/
def holdersOf (b : Body) (unit : Nat) : List Nat :=
  if unit == 4 then b.mrl.held.toList else ((unitGrants b unit).map Grant.oid).eraseDups

/-- The commands that need a unit. -/
def unitClaims (b : Body) (unit : Nat) : List Claim :=
  match unit with
  | 0 => if engineFree b then [] else copyClaims b ++ streamClaims b
  | 2 => selectClaims b
  | 3 => flintClaims b
  | 4 => listClaims b
  | 6 => batchClaims b
  | _ => spliceClaims b

/-- A best-effort command holds a unit that a latency-critical one waits for. Between two steps every unit stands at a stop point of
Table 12.4: selection between tokens, in expert-choice mode too (R124). -/
def mustYield (b : Body) (unit oid : Nat) : Bool :=
  !(b.ctx (ctxOfOid b oid)).cls && (unitClaims b unit).any (fun c => c.cls && !(holdersOf b unit).contains c.oid)

/-- The holder that yields next: unit and command. -/
def nextYield (b : Body) : Option (Nat × Nat) :=
  yieldUnits.findSome? (fun u => ((holdersOf b u).find? (mustYield b u)).map (fun k => (u, k)))

/-- Buffers for the live state of a yield: a position hank for each instance held, with Hawser's its Q counters (Table 12.6). -/
def parkSizes (b : Body) (unit oid : Nat) : List Nat :=
  if unit == 4 then [1]
  else if unit == 6 then [1 + cdiv (((b.gens.find? (fun g => g.oid == oid)).map (fun g => g.map.members.length)).getD 0) 8]
  else List.replicate ((unitGrants b unit).filter (fun g => g.oid == oid)).length 1

/-- The live state of a yield goes into coil buffers. -/
def parkUnit (own unit oid : Nat) (b : Body) : Bool × Body :=
  let had := (b.units.parked.filter (fun p => p.1 == unit && p.2.1 == oid)).length
  askAll own (ctxOfOid b oid) 11 oid
    (fun x b => { b with units := { b.units with parked := b.units.parked ++ [(unit, oid, x)] } }) ((parkSizes b unit oid).drop had) b

/-- A holder gives its unit back. -/
def giveBack (unit oid : Nat) (b : Body) : Body := if unit == 4 then freeMarlin b else dropUnit unit oid b

/-- UNIT_YIELD: a best-effort holder yields to a latency-critical command that waits, once its live state has its buffers, and
the unit is granted anew. -/
def yieldOp (own : Nat) (b : Body) : Body :=
  if frozen b then b
  else match nextYield b with
    | none => b
    | some (u, k) =>
      let p := parkUnit own u k b
      if p.1 then driveAll own (giveBack u k p.2) else p.2

/-! ### Memory responses (R254, R258, R266) -/

/-- A response on a memory port; while the block is frozen it stays in the port's bridge (R408, R427). -/
def memResponseOp (own line id status : Nat) (data : BitVec 2048) (b : Body) : Body :=
  if frozen b then
    { b with xlt := { b.xlt with frozenRs := b.xlt.frozenRs ++ [{ line := line, id := id, status := status, data := data }] } }
  else driveAll own (takeMemResponse own line id status data b)

/-! ### The end of a hold or of a halt (R408, R427, R441) -/

/-- When the block is frozen no longer, its ports, bridges and streams go on. -/
def afterHold (own : Nat) (old new : Body) : Body := if frozen old && !frozen new then driveAll own (thaw new) else new

end Sys2Proof.Machine
end

