-- ==== Sys2Proof/Machine/Links.lean ====
section
/-! DEFINITION. The rows of the link ports (spec/10 R218 to R223), of the shared time counter (R251, R252) and of tandem
records (spec/13 R330 to R333). -/

namespace Sys2Proof.Machine

/-! ### Tandem (R331 to R333) -/

/-- The records of this chip that satisfy a test are lost; entries that free let replies go (R331). -/
def loseRecords (own : Nat) (f : TandemEnt → Bool) (b : Body) : Body :=
  releaseHeld ((b.fab.compare.filter (fun e => e.own && f e)).foldl (fun b e => lostRecord own e b) b)

/-- What follows a port that may have gone DOWN: records that wait for an unreachable partner are lost (R333). -/
def afterDown (own : Nat) (b : Body) : Body := if partnerLost own b then loseRecords own (fun _ => true) b else b

/-- A record of the partner: compared with this chip's own, or kept until that one is made (R331). One for a TORN context
has nothing to meet, and so has one that reaches a block that is shut (R442). -/
def tandemOp (own : Nat) (p : Packet) (b : Body) : Body :=
  let t := tandemOf p.hanks
  if (b.ctx t.ctx).st == .torn || b.blk.shut then b
  else match b.fab.compare.find? (fun e => e.own && e.r.ctx == t.ctx && e.r.tseq == t.tseq) with
    | some e =>
      let b := { b with fab := { b.fab with compare := b.fab.compare.erase e } }
      releaseHeld (compareTandem own e.r t e.oid b)
    | none => { b with fab := { b.fab with compare := b.fab.compare ++ [{ own := false, r := t, since := b.now }] } }

/-- The row TANDEM_RECORD_RECEIVE. -/
def execTandemRecordReceive (s : State) : Host.Outcome State Fault Refusal :=
  s.onBody (fun own b => withPacket (fun p => p.vc == 5) (tandemOp own) b)

/-- The row TANDEM_WINDOW_EXPIRY: records of this chip that have waited longer than WINDOW. -/
def execTandemWindowExpiry (s : State) : Host.Outcome State Fault Refusal :=
  s.onBody (fun own b => loseRecords own (fun e => b.fab.window.toNat < b.now - e.since) b)

/-! ### Link ports (R218 to R223)

The acknowledgement layer of a port runs during a hold and while the block is halted (R408, R427). -/

/-- A port that carries flits. -/
def portLive (b : Body) (n : Nat) : Bool := (b.port n).up && !(b.port n).down

/-- NAK_RECEIVE: LACK first, then the resend from the LSEQ named (R221); one with a bad CRC is dropped (R222). -/
def nakOp (own n : Nat) (crcGood : Bool) (lack expected : Nat) (b : Body) : Body :=
  if !crcGood || !portLive b n then b
  else settleStaging (pumpOn n (afterDown own (resendOrDown own n expected ((clearOut n b).modPort n (takeLack lack)))))

/-- CREDIT_RECEIVE: the cumulative counts replace the last ones (R222). -/
def creditOp (n : Nat) (crcGood : Bool) (lack : Nat) (drained : BitVec 96) (b : Body) : Body :=
  if !crcGood || !portLive b n then b
  else
    let counts := (List.range 6).map (fun v => bits drained.toNat (16 * v + 15) (16 * v))
    settleStaging (pump n (b.modPort n (fun p => { takeLack lack p with credit := counts })))

/-- LINK_RETRY_TIMEOUT: resend from the oldest unacknowledged flit (R221). -/
def retryOp (own n : Nat) (b : Body) : Body :=
  if !portLive b n || (b.port n).replay.isEmpty then b
  else settleStaging (afterDown own (resendOrDown own n (b.port n).acked b))

/-! ### Shared time counter (R251, R252) -/

/-- The STC advances by some ticks. -/
def advance (n : Nat) (b : Body) : Body := { b with stc := { b.stc with now := b.stc.now + BitVec.ofNat 64 n } }

/-- The row STCREF_CYCLE: 10 ticks on the hall root; any other chip ignores STCREF (R21). -/
def execStcrefCycle (s : State) : Host.Outcome State Fault Refusal :=
  s.onBody (fun _ b => if b.stc.root then advance 10 b else b)

/-- One tick of a chip that is not the hall root: a held count stays, and at most one tick in 1,024 is doubled or left out
(R252). -/
def stcTick (t : Stc) : Stc :=
  if t.hold != 0 then { t with hold := t.hold - 1 }
  else if t.phase < 1023 then { t with now := t.now + 1, phase := t.phase + 1 }
  else if t.slew > 0 then { t with now := t.now + 2, phase := 0, slew := t.slew - 1 }
  else if t.slew < 0 then { t with phase := 0, slew := t.slew + 1 }
  else { t with now := t.now + 1 }

/-- The lowest fabric address that an entry of the routing tables reaches from this chip (R227). -/
def entryAddr (own q : Nat) : Nat :=
  if q < 256 then 512 * q
  else if q < 272 then 512 * (own / 512) + 32 * (q - 256)
  else if q < 280 then 32 * (own / 32) + 4 * (q - 272)
  else 4 * (own / 4) + (q - 280)

/-- Put an address in its place in an ascending list. -/
def insertAsc (a : Nat) : List Nat → List Nat
  | [] => [a]
  | c :: rest => if a ≤ c then a :: c :: rest else c :: insertAsc a rest

/-- The chips of the fabric as this chip knows them, ascending: itself, and one address for every other chip of its package, and
every other package, tray and rack that the routing tables reach. The tree of R238 over every chip needs no more for this
chip's own place in it (DEDUCED, log 124). -/
def syncChips (own : Nat) (b : Body) : List Nat :=
  let reached := (List.range 284).filter (fun q =>
    entryAddr own q != own && routeEntry own (entryAddr own q) == q && routeMask b q != 0)
  (own :: reached.map (entryAddr own)).foldr insertAsc []

/-- The parent in the sync tree (R251): the tree of R238 over the fabric addresses of every chip. -/
def syncParent (own : Nat) (b : Body) : Option Nat := treeParent (syncChips own b) own

/-- The ports toward the parent in the sync tree. -/
def parentPorts (own : Nat) (b : Body) : List Nat :=
  match syncParent own b with
  | some a => candidates b own a
  | none => []

/-- The ports on which a chip exchanges sync flits: toward its parent and toward its children in the sync tree. -/
def syncPorts (own : Nat) (b : Body) : List Nat :=
  parentPorts own b ++ (treeKids (syncChips own b) own).flatMap (candidates b own)

/-- The row STC_SYNC_EXCHANGE: a sync control flit with the highest LSEQ accepted and this chip's count goes out on the port,
where that is one toward the parent or a child (R222, R251). -/
def execStcSyncExchange (port : BitVec 6) (s : State) : Host.Outcome State Fault Refusal :=
  s.onBody (fun own b =>
    if portLive b port.toNat && (syncPorts own b).contains port.toNat then
      sendCtrl port.toNat (.sync (b.port port.toNat).rxSeq b.now) b
    else b)

/-- Loss of lock: LOST_LOCK is set when LOCKED is cleared, and a MUSTER that waits is SKEW_UNBOUND (R252, R338). -/
def unlockStc (b : Body) : Body :=
  if !b.stc.locked then b
  else { b with stc := { b.stc with locked := false, lostLock := true },
                thm := { b.thm with musters := b.thm.musters.map (fun (m : MusterWork) => { m with unbound := true }) } }

/-- A MUSTER that waits for its release tick completes when its chip loses its lock (R338). -/
def releaseUnbound (own : Nat) (b : Body) : Body :=
  (b.thm.musters.filter (fun m => m.unbound && m.release.isSome)).foldl (fun b m => releaseMuster own m b) b

/-- The error of a sync (R251): this chip's count less its parent's at this moment, which is the parent's stamp and the one-way
delay, half the round trip. The row is the exchange with the parent: log 90. -/
def syncError (now parentNow roundTrip : Nat) : Int :=
  (BitVec.ofNat 64 (now + 2 ^ 64 - (parentNow + roundTrip / 2) % 2 ^ 64)).toInt

/-- STC_SYNC_RECEIVE: only a sync of the parent moves the count. Above 64 ticks LOCKED falls, and the chip
steps forward or holds; otherwise it slews. LOCKED rises after 8 syncs in a row with an error of at most 4 (R252). -/
def syncOp (own n : Nat) (crcGood : Bool) (error : Int) (b : Body) : Body :=
  if !crcGood || !portLive b n || b.stc.root || !(parentPorts own b).contains n then b
  else
    let b := { b with stc := { b.stc with err := BitVec.ofInt 16 error } }
    if error.natAbs > 64 then
      let b := releaseUnbound own (unlockStc b)
      let t := { b.stc with good := 0, slew := 0, phase := 0 }
      if error < 0 then { b with stc := { t with now := t.now + BitVec.ofNat 64 error.natAbs, hold := 0 } }
      else { b with stc := { t with hold := error.natAbs - 64, slew := -64 } }
    else
      let good := if error.natAbs ≤ 4 then b.stc.good + 1 else 0
      { b with stc := { b.stc with good := good, slew := -error, hold := 0, locked := b.stc.locked || 8 ≤ good } }

/-- The row STC_SYNC_RECEIVE. -/
def execStcSyncReceive (port : BitVec 6) (crcGood : Bool) (error : SyncTimes) (s : State) :
    Host.Outcome State Fault Refusal :=
  s.onBody (fun own b => syncOp own port.toNat crcGood (syncError b.now error.parentNow.toNat error.roundTrip.toNat) b)

end Sys2Proof.Machine
end

