-- ==== Sys2Proof/Machine/Peek.lean ====
section
/-! DEFINITION. What each register of the window reads (Table 19.4 and the field tables of the home chapters), without the
effects of a read. Reserved bits and offsets that no row lists read 0 (R12, R459). -/

namespace Sys2Proof.Machine

/-- Index of an offset in a family of registers: base, stride, number. -/
def famIdx (base stride n off : Nat) : Option Nat :=
  if base ≤ off && (off - base) % stride == 0 && (off - base) / stride < n then some ((off - base) / stride) else none

/-! ### Grade and repair map (R14, R71, R384, R436) -/

/-- Word `i` of the grade mask as the registers show it: that of the latest start, before the first start the one in the
store (DESIGN CHOICE, log 37). -/
def gradeView (s : State) (i : Nat) : Nat :=
  if s.b.blk.gradeRead then gradeWord s.b i else ((s.tal.value 1).getD i 0).toNat

/-- A spare map register: LOGICAL at [8j+6:8j] and VALID at [8j+7] of each spare j of a class and array. -/
def spareMap (b : Body) (cls arr n : Nat) : Nat :=
  let es := repairEntries b.blk.repair
  ((List.range n).map (fun j =>
    match es.find? (fun e => e.1 == cls && e.2.1 == arr && e.2.2.1 == j) with
    | some e => (fld 6 0 e.2.2.2 + 128) <<< (8 * j)
    | none => 0)).sum

def maskOf (bits n : Nat) (f : Nat → Nat) : Nat := ((List.range n).map (fun i => if bit bits i then f i else 0)).sum

/-- The grade mask of a DX4-T (R385). -/
def gradeT : List Nat := [0x7, 0xFFFFFFFF, 0x0000FFFF, 0x3F0FCFFF]

/-- GRADE (R462). -/
def gradeCode (s : State) : Nat :=
  if !s.b.blk.gradeRead then 0xF
  else
    let ws := (List.range 4).map (gradeWord s.b)
    if ws == List.replicate 4 0xFFFFFFFF then 0 else if ws == gradeT then 1 else 0xF

/-! ### Chapters 19, 14, 15 -/

/-- ID_REV (R461, R462); the stepping is that of the part (log 4). -/
def idRev (s : State) : Nat :=
  fld 3 0 (if Config.steppingIsB0 then 0 else 1) + fld 7 4 (if Config.steppingIsB0 then 0xB else 0xA)
    + fld 11 8 (gradeCode s) + fld 15 12 1

def peekId (s : State) (off : Nat) : Nat :=
  if off == 0 then 0xD4045E4B else if off == 4 then idRev s else 0

/-- CP_FABADDR (Table 14.15). -/
def fabAddrWord (a : FabAddr) : Nat :=
  a.addr.toNat + fld 17 17 (b2n a.locked) + fld 18 18 (b2n a.bad) + fld 19 19 (b2n a.repeat_)

def peekCp (s : State) (off : Nat) : Nat :=
  let b := s.b
  if off == 0x010000 then cpStatus b
  else if off == 0x010004 then b.cp.oseq.toNat
  else if off == 0x010008 then b.cp.noticeLost.toNat
  else if off == 0x01000C then b.cp.frameBadCnt.toNat
  else if off == 0x010010 then b.cp.queueSel.toNat
  else if off == 0x010014 then queueState b b.cp.queueSel.toNat
  else if off == 0x010020 then fabAddrWord s.addr
  else 0

/-- LAY_STATUS (Table 15.10). A LOAD_LAY is one step, so BUSY reads 0. -/
def layStatus (l : Lay) : Nat :=
  b2n l.loaded + fld 1 1 (b2n l.serving) + fld 2 2 (b2n l.training) + fld 3 3 (b2n l.tandem) + fld 4 4 (b2n l.assay)
    + fld 5 5 (b2n l.sigSkipped) + fld 7 6 l.keyGen.toNat

/-- TAL_STATUS (Table 15.12). -/
def talStatus (t : Tally) : Nat :=
  fld 4 0 (t.used t.sel.toNat) + fld 9 5 (talBudget t.sel.toNat) + fld 10 10 (b2n t.busy.isSome)
    + fld 11 11 (b2n t.refused) + fld 31 16 t.code.toNat

def peekLay (s : State) (off : Nat) : Nat :=
  let l := s.b.lay
  let t := s.tal
  if off == 0x020000 then layStatus l
  else if off == 0x020004 then l.id.toNat
  else if off == 0x020008 then l.build.toNat
  else if off == 0x02000C then l.lastErr.toNat
  else if off == 0x020010 then l.keyDigest.toNat
  else if off == 0x020100 then t.sel.toNat
  else if off == 0x020104 then t.stageAddr.toNat
  else if off == 0x020110 then talStatus t
  else if off == 0x020114 then t.valueAddr.toNat
  else if off == 0x020118 then ((t.value t.sel.toNat).getD t.valueAddr.toNat 0).toNat
  else if off == 0x02011C then s.b.blk.life.toNat + fld 3 2 t.life
  else 0

/-! ### Chapters 3 to 5 -/

/-- GAR_: a disabled array reads 0 (R14, R84). -/
def peekGar (s : State) (off : Nat) : Nat :=
  let on := gradeView s 0 % 16
  if off == 0x040000 then on
  else if off == 0x040004 then maskOf on 4 (fun n => garGroup s.b n <<< (4 * n))
  else match famIdx 0x040010 4 4 off, famIdx 0x040020 4 4 off, famIdx 0x040030 4 4 off with
    | some n, _, _ => if bit on n then spareMap s.b 0 n 4 else 0
    | _, some n, _ => if bit on n then spareMap s.b 1 n 4 else 0
    | _, _, some n => if bit on n then garPos s.b n else 0
    | _, _, _ => 0

/-- CAL_PRESENT (Table 4.7). -/
def calPresent (b : Body) : Nat :=
  0xFF + (match (repairEntries b.blk.repair).find? (fun e => e.1 == 3) with
    | some e => fld 10 8 e.2.2.2 + 2 ^ 11
    | none => 0)

/-- CAL_SLOTn_STATUS (Table 4.11). -/
def slotStatus (b : Body) (n : Nat) : Nat :=
  let s := b.slot n
  b2n s.curValid + fld 1 1 (b2n (shadowBusy b n)) + fld 2 2 (b2n s.writeLost) + fld 3 3 (b2n s.descBad)
    + fld 19 8 (slotBindings b n s.other) + fld 31 20 s.version.toNat

/-- MIC_PRESENT, 64 bits. -/
def micView (s : State) : Nat := gradeView s 1 + 2 ^ 32 * gradeView s 2

def peekCal (s : State) (off : Nat) : Nat :=
  let b := s.b
  if off == 0x060000 then calPresent b
  else if off == 0x060004 then 0x5A3C0401
  else if off == 0x060108 then spareMap b 2 0 4
  else if off == 0x06010C then (if b.blk.gradeRead then micWait b else fld 30 24 (popCount (micView s)))
  else match famIdx 0x060010 0x10 2 off, famIdx 0x060014 0x10 2 off, famIdx 0x060018 0x10 2 off with
    | some n, _, _ => (b.slot n).part.toNat + fld 2 2 (b2n (b.slot n).opened) + fld 12 4 (b.slot n).segs.toNat
    | _, some n, _ => slotStatus b n
    | _, _, some n => (b.slot n).word.toNat
    | _, _, _ => 0

def peekFlt (b : Body) (off : Nat) : Nat :=
  if off == 0x080000 then selWait b
  else if off == 0x080004 then selPos b
  else if off == 0x080010 then b.stepSel.toNat
  else if off == 0x080014 then (b.ctx b.stepSel.toNat).stepCtr.toNat
  else if off == 0x080100 then sortWait b
  else if off == 0x080104 then sortPos b
  else if off == 0x080108 then spareMap b 4 0 2
  else 0

/-! ### Chapters 6 to 8 -/

def peekMrl (b : Body) (off : Nat) : Nat :=
  let m := b.mrl
  if off == 0x090000 then mrlWait b
  else if off == 0x090004 then mrlPos b
  else if off == 0x090008 then
    fld 14 0 m.cards.length + fld 16 16 (b2n m.stray) + fld 17 17 (b2n m.failed) + fld 31 24 m.lastStatus
  else if off == 0x09000C then m.fwId.toNat
  else if off == 0x090010 then b2n m.pcEn + fld 5 1 m.pcShift.toNat
  else if off == 0x090014 then m.pcSample.toNat
  else 0

/-- SPL_POS (Table 7.7). -/
def splPos (b : Body) : Nat :=
  match splHeld b, splWaiting b with
  | some o, _ => (match o.work with
      | .combine w => fld 16 0 (if w.homed then w.rowsDone else w.next) + fld 22 17 o.ctx + fld 23 23 (b2n w.homed)
          + 2 ^ 31
      | _ => 0)
  | none, some o => (match o.work with
      | .combine w => fld 22 17 o.ctx + fld 23 23 (b2n w.homed) + 2 ^ 24
      | _ => 0)
  | none, none => 0

/-- The ledger entry that SPL_LEDGER_SEL names. -/
def ledgerSel (b : Body) : Option Ledger := (b.ctx b.ledSel.toNat).ledger[b.ledEnt.toNat]?

/-- SPL_LEDGER_STATE (Table 7.10). -/
def ledgerState : Option Ledger → Nat
  | none => 0
  | some l => 1 + fld 1 1 (b2n l.done) + fld 2 2 (b2n l.failed) + fld 3 3 (b2n l.homed) + fld 18 4 (l.w - l.completed)

def peekSpl (b : Body) (off : Nat) : Nat :=
  if off == 0x0A0000 then splWait b
  else if off == 0x0A0004 then splPos b
  else if off == 0x0A0010 then b.ledSel.toNat + fld 10 8 b.ledEnt.toNat
  else if off == 0x0A0014 then ((ledgerSel b).map Ledger.step).getD 0
  else if off == 0x0A0018 then ledgerState (ledgerSel b)
  else 0

/-- The live entry of the generation table that HAW_GEN_SEL names. -/
def genSelected (b : Body) : Option GenEnt := b.gens.find? (fun g => g.live && g.idx == b.genSel.toNat)

/-- HAW_GEN_STATE (Table 8.12); 0 for an entry that is not live (log 38). -/
def genState : Option GenEnt → Nat
  | none => 0
  | some g => fld 15 0 g.generation + fld 21 16 g.ctx + 2 ^ 22 + fld 23 23 (b2n g.void) + fld 24 24 (b2n g.sent)
      + fld 25 25 (b2n (cardsEmitted g)) + fld 26 26 (b2n g.cls) + fld 27 27 (b2n g.late)

def sknStatus (b : Body) : Nat :=
  fld 11 0 (sknFill b) + fld 12 12 (b2n b.skn.bank) + fld 13 13 (b2n b.skn.high) + fld 14 14 (b2n b.skn.droppedLive)
    + fld 15 15 (b2n b.skn.reading.isSome)

def peekHaw (b : Body) (off : Nat) : Nat :=
  if off == 0x0C0000 then hawWait b
  else if off == 0x0C0004 then hawPos b
  else if off == 0x0C0010 then b.genSel.toNat
  else if off == 0x0C0014 then genState (genSelected b)
  else if off == 0x0C0018 then ((genSelected b).map (fun g => if g.sent then g.expected else 0)).getD 0
  else if off == 0x0C001C then ((genSelected b).map GenEnt.received).getD 0
  else if off == 0x0C0104 then sknStatus b
  else if off == 0x0C0108 then b.skn.level.toNat
  else if off == 0x0C010C then sknWait b
  else if off == 0x0C0110 then b.skn.discard.toNat
  else if off == 0x0C0114 then b.skn.stray.toNat
  else 0

/-! ### Chapters 10 and 13: switch, thimble, STC, tandem -/

/-- A port that the grade disables (R14); the reserve ports belong to every grade. -/
def portOff (s : State) (n : Nat) : Bool := n < 32 && !bit (gradeView s 3) n

/-- FAB_PORT_n (Table 10.10). A substituted reserve port serves the level of the port it replaces (R217). -/
def portWord (b : Body) (n : Nat) : Nat :=
  let p := b.port n
  let level := if p.subst then (b.port p.replaces.toNat).level else p.level
  level.toNat + fld 3 3 (b2n p.up) + fld 4 4 (b2n p.down) + fld 10 5 p.replaces.toNat + fld 11 11 (b2n p.subst)

/-- P of the pedigree entry that FAB_PED_SEL names; 0 where there is none. -/
def pedVal (b : Body) : Nat :=
  let sel := b.fab.pedSel.toNat
  let o := bits sel 5 0
  let i := bits sel 11 6
  let v := bits sel 14 12
  if o < 36 && i < 37 && v < 6 then pedigree b i o v else 0

def groupWord (b : Body) (n : Nat) : Nat :=
  let g := b.group n
  b2n g.opened + fld 1 1 (b2n g.openBad) + fld 7 2 g.quota.toNat + fld 9 8 g.part.toNat + fld 10 10 (b2n (groupBusy b n))

/-- The group registers: five of each group. -/
def peekGroup (b : Body) (off : Nat) : Nat :=
  let n := (off - 0x101000) / 0x20
  let g := b.group n
  match (off - 0x101000) % 0x20 with
  | 0x00 => groupWord b n
  | 0x04 => g.membLo.toNat
  | 0x08 => g.membHi.toNat
  | 0x0C => g.count.toNat
  | 0x10 => g.seq.toNat
  | _ => 0

def tandemCtrl (f : Fabric) : Nat := b2n f.tEn + fld 1 1 (b2n f.tHold) + fld 18 2 f.partner.toNat

def peekFab (s : State) (off : Nat) : Nat :=
  let b := s.b
  let f := b.fab
  if 0x101000 ≤ off && off < 0x101200 then peekGroup b off
  else if off == 0x100200 then f.vcLo.toNat
  else if off == 0x100204 then f.vcHi.toNat
  else if off == 0x100208 then fabWait b
  else if off == 0x10020C then f.hopDrop.toNat
  else if off == 0x100210 then f.lost.toNat
  else if off == 0x100220 then f.pedSel.toNat
  else if off == 0x100224 then pedVal b
  else if off == 0x100300 then tandemCtrl f
  else if off == 0x100304 then f.tCtxLo.toNat
  else if off == 0x100308 then f.tCtxHi.toNat
  else if off == 0x10030C then f.window.toNat
  else if off == 0x100310 then f.div.toNat
  else if off == 0x100314 then f.divTseq.toNat
  else if off == 0x100320 then f.lead.toNat
  else if off == 0x100400 then thmStatus b
  else if off == 0x100404 then thmWait b
  else if off == 0x100408 then b.thm.drop.toNat
  else if off == 0x102008 then b2n b.stc.locked + fld 1 1 (b2n b.stc.root) + fld 2 2 (b2n b.stc.lostLock)
  else if off == 0x10200C then b.stc.err.toNat
  else match famIdx 0x100000 4 36 off, famIdx 0x100100 4 36 off with
    | some n, _ => if portOff s n then 0 else portWord b n
    | _, some n => if portOff s n then 0 else (b.port n).retry.toNat
    | _, _ => 0

/-! ### Chapters 11 and 9: translator, coil manager, halyard engines -/

def ctxCode : CtxState → Nat
  | .absent => 0 | .run => 1 | .faulted => 2 | .saving => 3 | .saveStalled => 4 | .saved => 5 | .restoring => 6
  | .restoreStalled => 7 | .torn => 8

/-- The record that XLT_CTX_SEL names. -/
def recSelected (b : Body) : Option RestartRec :=
  let x := b.ctx b.xlt.ctxSel.toNat
  if b.xlt.recSel then x.saveRec else x.cmdRec

/-- Free buffers of a pool over all ways. -/
def poolFree (b : Body) (p : Nat) : Nat := 16 * perWay b p - (b.coil.bufs.filter (fun x => x.pool == p)).length

def coilStatus (c : Coil) : Nat :=
  b2n c.doubleFree + fld 1 1 (b2n c.quotaFault) + fld 7 4 c.lastReq + fld 13 8 c.lastCtx

/-- XLT_, COIL_ and HAL_. -/
def peekXlt (b : Body) (off : Nat) : Nat :=
  let x := b.ctx b.xlt.ctxSel.toNat
  let c := b.coil
  if off == 0x140000 then fld 27 0 (b.layEl 1 5)
  else if off == 0x140004 then b.xlt.ctxSel.toNat + fld 6 6 (b2n b.xlt.recSel)
  else if off == 0x140008 then x.root.toNat + fld 31 31 (b2n x.rootValid)
  else if off == 0x14000C then ctxCode x.st + fld 4 4 (b2n x.cmdRec.isSome) + fld 5 5 (b2n x.saveRec.isSome)
  else if off == 0x140010 then b.xlt.invalVpn.toNat
  else if off == 0x140014 then fld 31 31 (b2n (!b.xlt.inval.isEmpty))
  else if off == 0x140040 then xltWait b
  else if off == 0x140044 then mpWait b
  else if off == 0x144020 then c.quotaReq.toNat + fld 5 4 c.quotaPart.toNat
  else if off == 0x144024 then fld 22 0 (quotaOf b c.quotaPart.toNat c.quotaReq.toNat)
  else if off == 0x144028 then fld 22 0 (quotaHeld b c.quotaPart.toNat c.quotaReq.toNat)
  else if off == 0x14402C then coilStatus c
  else if off == 0x144030 then coilWaitReg b
  else if off == 0x148000 then halWait b
  else match famIdx 0x140020 4 8 off, famIdx 0x144000 4 8 off, famIdx 0x148010 4 8 off with
    | some w, _, _ => ((recSelected b).map (fun r => (recWords r).getD w 0 % 2 ^ 32)).getD 0
    | _, some p, _ => fld 12 0 (perWay b p) + fld 29 13 (poolFree b p)
    | _, _, some n => halPos b n
    | _, _, _ => 0

/-! ### Chapters 12 and 13: contexts -/

def ctxStatus (b : Body) (c : Nat) : Nat :=
  let x := b.ctx c
  fld 9 0 (openCount b c) + fld 10 10 (b2n (x.savePending || x.evictPending)) + fld 11 11 (b2n x.auto)
    + fld 12 12 (b2n x.dropped)

/-- The four registers of a partition. -/
def peekPart (b : Body) (off : Nat) : Nat :=
  let p := b.part ((off - 0x180100) / 0x10)
  match (off - 0x180100) % 0x10 with
  | 0x0 => p.ways.toNat + fld 17 16 p.mode.toNat + fld 18 18 (b2n (p.ways != 0)) + fld 19 19 (b2n p.resetSeen)
  | 0x4 => p.ppnBase.toNat
  | 0x8 => p.ppnCount.toNat
  | 0xC => fld 24 0 p.port.toNat
  | _ => 0

def peekCtx (b : Body) (off : Nat) : Nat :=
  let c := b.cr.sel.toNat
  let x := b.ctx c
  if 0x180100 ≤ off && off < 0x180140 then peekPart b off
  else if off == 0x180000 then c
  else if off == 0x180004 then x.part.toNat + fld 2 2 (b2n x.cls) + fld 19 4 x.ways.toNat
  else if off == 0x180008 then fld 2 2 (b2n b.cr.ctrlBad)
  else if off == 0x18000C then ctxStatus b c
  else if off == 0x180010 then x.saveLo.toNat
  else if off == 0x180014 then x.saveHi.toNat
  else if off == 0x180018 then fld 22 0 (ctxHeld b c)
  else if off == 0x180020 then b.cr.beFloor.toNat + fld 8 8 (b2n b.cr.evictEn)
  else if off == 0x180024 then ctxWait b
  else if off == 0x180028 then b.cr.swOut.toNat
  else if off == 0x18002C then b.cr.swIn.toNat
  else if off == 0x180030 then b.cr.swBeats.toNat
  else if off == 0x180300 then b2n b.cr.plumb
  else 0

/-! ### Chapter 16: observation -/

def traceCtrl (o : Obs) : Nat :=
  b2n o.enable + fld 2 1 o.mode.toNat + fld 7 3 o.classes.toNat + fld 9 8 o.tracePart.toNat

def resStatus (o : Obs) : Nat :=
  o.state.toNat + fld 3 3 (b2n o.wrapped) + fld 4 4 (b2n o.armed) + fld 5 5 (b2n o.trigLate) + fld 6 6 (b2n o.cfgBad)

def hangStatus (h : Hang) : Nat :=
  b2n h.hung + fld 5 1 h.unit + fld 9 6 h.inst + fld 15 10 (h.ctx.getD 0) + fld 16 16 (b2n h.ctx.isSome)
    + fld 17 17 (b2n h.halted)

/-- OBS_ registers of 32 bits; `octx` is the context that the latch registers answer for (R391). -/
def peekObs (b : Body) (octx off : Nat) : Nat :=
  let o := b.obs
  let l := (b.ctx octx).latch
  if off == 0x1C0400 then l.seq
  else if off == 0x1C0404 then fld 7 0 l.code + fld 8 8 (b2n l.valid) + fld 31 16 l.status
  else if off == 0x1C0418 then o.ctxSel.toNat
  else if off == 0x1C0500 then traceCtrl o
  else if off == 0x1C0504 then o.ctxLo.toNat
  else if off == 0x1C0508 then o.ctxHi.toNat
  else if off == 0x1C050C then o.noticeMask.toNat
  else if off == 0x1C0510 then o.resBase.toNat % 2 ^ 32
  else if off == 0x1C0514 then o.resBase.toNat / 2 ^ 32
  else if off == 0x1C0518 then o.resLines.toNat
  else if off == 0x1C051C then o.resPre.toNat
  else if off == 0x1C0520 then resStatus o
  else if off == 0x1C0524 then o.wptr.toNat
  else if off == 0x1C0528 then o.trigLine.toNat + fld 31 31 (b2n o.trigValid)
  else if off == 0x1C052C then o.lost.toNat
  else if off == 0x1C0600 then b.hang.limit.toNat
  else if off == 0x1C0604 then hangStatus b.hang
  else if off == 0x1C0608 then b.hang.units.toNat
  else if off == 0x1C0610 then b.hang.dumpBase.toNat % 2 ^ 32
  else if off == 0x1C0614 then b.hang.dumpBase.toNat / 2 ^ 32
  else if off == 0x1C0618 then b.hang.dumpLines.toNat
  else if off == 0x1C061C then b2n b.hang.written + fld 1 1 (b2n b.hang.trunc)
  else 0

/-! ### Chapters 17 and 18: power and assay -/

def pwrStatus (p : Pwr) : Nat :=
  b2n p.railLow + fld 1 1 (b2n p.railHigh) + fld 2 2 (b2n p.sramHold) + fld 3 3 (b2n p.hot) + fld 4 4 (b2n p.holding)
    + fld 5 5 (b2n p.floor) + fld 6 6 (b2n p.ceilLost) + fld 7 7 (b2n p.breached)

/-- Two 16-bit entries of a table, 2j and 2j + 1. -/
def pairWord (l : List Nat) (j : Nat) : Nat := fld 15 0 (l.getD (2 * j) 0) + fld 31 16 (l.getD (2 * j + 1) 0)

def ceilCtrl (p : Pwr) : Nat :=
  p.ceilSw.toNat + fld 23 12 p.ceilFail.toNat + fld 24 24 (b2n p.holdToDecl) + fld 31 25 p.tjMargin.toNat

def peekPwr (b : Body) (off : Nat) : Nat :=
  let p := b.pwr
  if off == 0x200000 then p.rate.toNat
  else if off == 0x200004 then p.min.toNat + fld 31 16 p.max.toNat
  else if off == 0x20000C then p.vzc.toNat + fld 19 10 p.vzs.toNat
  else if off == 0x200010 then p.tj.toNat + fld 11 8 p.sensor.toNat
  else if off == 0x200014 then pwrStatus p
  else if off == 0x200018 then fld 15 0 (staticNow b)
  else if off == 0x200020 then ceilCtrl p
  else if off == 0x200024 then fld 11 0 p.c + fld 13 12 p.source
  else if off == 0x200030 then p.lat.toNat
  else if off == 0x200034 then p.fcSeq.toNat
  else if off == 0x200038 then fld 15 0 p.declNow
  else if off == 0x20003C then fld 15 0 p.actLast
  else if off == 0x2001F8 then p.hintDefault.toNat
  else match famIdx 0x200100 4 30 off, famIdx 0x200180 4 30 off with
    | some j, _ => pairWord p.fc j
    | _, some j => pairWord p.hint j
    | _, _ => 0

def asyStart (b : Body) : Nat :=
  b2n b.blk.kind + fld 1 1 (b2n b.blk.asyPartial) + fld 2 2 (b2n b.blk.asyRan) + fld 3 3 (b2n b.blk.substNew)
    + fld 4 4 (b2n (b.blk.started && b.lay.pending))

def asyStatus (b : Body) : Nat :=
  let k := b.blk
  fld 2 0 (asyPhase b) + fld 9 3 (asySliceNow b) + fld 16 10 (min k.failCnt 127) + fld 17 17 (b2n k.overflow)
    + fld 18 18 (b2n k.noBudget) + fld 19 19 (b2n k.unrepaired)

/-- The fail-log entry that ASY_FAIL_SEL names. -/
def failSelected (k : Block) : W32 × W32 := if k.failSel.toNat < 64 then k.fails.getD k.failSel.toNat (0, 0) else (0, 0)

def peekAsy (b : Body) (off : Nat) : Nat :=
  let k := b.blk
  if off == 0x200200 then asyStart b
  else if off == 0x200204 then fld 1 1 (b2n k.autoCommit) + fld 8 2 k.first.toNat + fld 15 9 k.last.toNat
  else if off == 0x200208 then asyStatus b
  else if off == 0x20020C then k.budget.toNat
  else if off == 0x200210 then k.next.toNat
  else if off == 0x200240 then k.failSel.toNat
  else if off == 0x200244 then (failSelected k).1.toNat
  else if off == 0x200248 then (failSelected k).2.toNat
  else if off == 0x200250 then k.wearCls.toNat + fld 5 4 k.wearArr.toNat + fld 12 6 k.wearIdx.toNat
  else if off == 0x200254 then fld 15 0 (wearOf b k.wearCls.toNat k.wearArr.toNat k.wearIdx.toNat)
  else if off == 0x200258 then k.wearWarn.toNat + fld 31 16 k.wearSub.toNat
  else if off == 0x200260 then (if wrapperOpen b then k.ctrl1500.toNat else 0)
  else if off == 0x200264 then (if wrapperOpen b then k.data1500.toNat else 0)
  else match famIdx 0x200220 4 4 off with
    | some w => (k.cover.toNat >>> (32 * w)) % 2 ^ 32
    | none => 0

/-! ### 64-bit registers (R4) -/

/-- The families of 64-bit registers: first offset and number. -/
def wideFamilies : List (Nat × Nat) :=
  [(0x060100, 1), (0x102000, 1), (0x180200, 1), (0x1C0000, 18), (0x1C0100, 18), (0x1C0200, 18), (0x1C0300, 18),
   (0x1C0408, 2), (0x200028, 1), (0x200040, 8)]

/-- The lower offset of the 64-bit register that an offset belongs to. -/
def wideBase (off : Nat) : Option Nat :=
  if wideFamilies.any (fun f => f.1 ≤ off && off < f.1 + 8 * f.2) then some (off / 8 * 8) else none

/-- The value of the 64-bit register at a lower offset. -/
def wideValue (s : State) (octx base : Nat) : Nat :=
  let b := s.b
  let x := b.ctx octx
  let v :=
    if base == 0x060100 then micView s
    else if base == 0x102000 then b.stc.now.toNat
    else if base == 0x180200 then spareMap b 5 0 6
    else if base == 0x1C0408 then x.latch.stampS
    else if base == 0x1C0410 then x.latch.stampE
    else if base == 0x200028 then heldTicks b
    else match famIdx 0x1C0000 8 18 base, famIdx 0x1C0100 8 18 base, famIdx 0x1C0200 8 18 base, famIdx 0x1C0300 8 18 base,
      famIdx 0x200040 8 8 base with
    | some k, _, _, _, _ => x.ctr.getD k 0
    | _, some k, _, _, _ => b.obs.glob.getD k 0
    | _, _, some k, _, _ => x.latch.start.getD k 0
    | _, _, _, some k, _ => x.latch.fin.getD k 0
    | _, _, _, _, some c => (accrue b).pwr.energy.getD c 0 / 10 ^ 7
    | _, _, _, _, _ => 0
  v % 2 ^ 64

/-! ### The whole window -/

/-- The value of a 32-bit word of the window. -/
def regWord (s : State) (octx off : Nat) : Nat :=
  match off / 0x10000 with
  | 0x00 => peekId s off
  | 0x01 => peekCp s off
  | 0x02 => peekLay s off
  | 0x04 => peekGar s off
  | 0x06 => peekCal s off
  | 0x08 => peekFlt s.b off
  | 0x09 => peekMrl s.b off
  | 0x0A => peekSpl s.b off
  | 0x0C => peekHaw s.b off
  | 0x10 => peekFab s off
  | 0x14 => peekXlt s.b off
  | 0x18 => peekCtx s.b off
  | 0x1C => peekObs s.b octx off
  | 0x20 => if off < 0x200200 then peekPwr s.b off else peekAsy s.b off
  | _ => 0

/-- What a register word holds now, a word of a 64-bit register included. -/
def regPeek (s : State) (octx off : Nat) : Nat :=
  match wideBase off with
  | some base => if off == base then wideValue s octx base % 2 ^ 32 else wideValue s octx base / 2 ^ 32
  | none => regWord s octx off % 2 ^ 32

end Sys2Proof.Machine
end

