-- ==== Sys2Proof/Machine/Regs.lean ====
section
/-! DEFINITION. Reads and writes of the register window: what a read does besides answering (R11, R392), what a write does,
and the rows MGP_ACCESS, REG_READ, REG_WRITE and REGISTER_WRITE. A write has three independent parts: the fabric address,
the tally store, and everything else. -/

namespace Sys2Proof.Machine

/-! ### Reads (R10, R11, R392) -/

/-- The path of a 64-bit latch: a context queue, the global queue (64), or MGP. -/
def mgpPath : Nat := 65

/-- An RC register is cleared by its read (R10). -/
def clearRc (off : Nat) (b : Body) : Body :=
  if off == 0x010008 then { b with cp := { b.cp with noticeLost := 0 } }
  else if off == 0x01000C then { b with cp := { b.cp with frameBadCnt := 0 } }
  else if off == 0x0C0110 then { b with skn := { b.skn with discard := 0 } }
  else if off == 0x0C0114 then { b with skn := { b.skn with stray := 0 } }
  else if off == 0x10020C then { b with fab := { b.fab with hopDrop := 0 } }
  else if off == 0x100210 then { b with fab := { b.fab with lost := 0 } }
  else if off == 0x100408 then { b with thm := { b.thm with drop := 0 } }
  else if off == 0x1C052C then { b with obs := { b.obs with lost := 0 } }
  else match famIdx 0x100100 4 36 off with
    | some n => b.modPort n (fun p => { p with retry := 0 })
    | none => b

/-- The latches without that of a path. -/
def dropLatch (path : Nat) (l : List (Nat × Nat × Nat)) : List (Nat × Nat × Nat) := l.filter (fun x => x.1 != path)

/-- A read of a register word on a path (R392): the lower word of a 64-bit register latches the upper one, the upper word
takes the latch that is pending for it. A path has one latch, which names its register. -/
def regRead (path octx off : Nat) (s : State) : Nat × Body :=
  match wideBase off with
  | none => (regPeek s octx off, clearRc off s.b)
  | some base =>
    let ls := s.b.cp.latches
    let put := fun l => { s.b with cp := { s.b.cp with latches := l } }
    if off == base then
      (regPeek s octx off, put (dropLatch path ls ++ [(path, base, wideValue s octx base / 2 ^ 32)]))
    else match ls.find? (fun x => x.1 == path && x.2.1 == base) with
      | some x => (x.2.2, put (dropLatch path ls))
      | none => (regPeek s octx off, s.b)

/-! ### Writes: the fabric address and the tally store -/

/-- CP_FABADDR: BAD and REPEAT are cleared by writing 1 (Table 14.15). -/
def addrWrite (off : Nat) (data : W32) (a : FabAddr) : FabAddr :=
  if off == 0x010020 then { a with bad := a.bad && !data.getLsbD 18, repeat_ := a.repeat_ && !data.getLsbD 19 } else a

/-- The TAL_ registers (Table 15.9): the tally store, and the code of a refused GO, else 0. -/
def talWrite (off : Nat) (data : W32) (t : Tally) (b : Body) : Tally × Nat :=
  if off == 0x020100 then (talSelOp data t, 0)
  else if off == 0x020104 then ({ t with stageAddr := data.setWidth 6 }, 0)
  else if off == 0x020108 then (talStageOp data t, 0)
  else if off == 0x02010C then talCommitWrite data t b
  else if off == 0x020110 then ({ t with refused := t.refused && !data.getLsbD 11 }, 0)
  else if off == 0x020114 then ({ t with valueAddr := data.setWidth 6 }, 0)
  else (t, 0)

/-! ### Writes: everything else -/

/-- Chapters 14 and 4 to 8. -/
def writeFront (own off : Nat) (data : W32) (b : Body) : Body :=
  if off == 0x010000 then { b with cp := { b.cp with
    frameBad := b.cp.frameBad && !data.getLsbD 4, noticeLostFlag := b.cp.noticeLostFlag && !data.getLsbD 5 } }
  else if off == 0x010010 then { b with cp := { b.cp with queueSel := data.setWidth 7 } }
  else if off == 0x080010 then { b with stepSel := data.setWidth 6 }
  else if off == 0x080014 then b.modCtx b.stepSel.toNat (fun x => { x with stepCtr := data })
  else if off == 0x090008 then { b with mrl := { b.mrl with
    stray := b.mrl.stray && !data.getLsbD 16, failed := b.mrl.failed && !data.getLsbD 17 } }
  else if off == 0x090010 then pcCtrlWrite data b
  else if off == 0x0A0010 then { b with ledSel := data.setWidth 6, ledEnt := BitVec.ofNat 3 (bits data.toNat 10 8) }
  else if off == 0x0C0010 then { b with genSel := data.setWidth 6 }
  else if off == 0x0C0100 then sknCtrlWrite own data b
  else if off == 0x0C0104 then { b with skn := { b.skn with
    high := b.skn.high && !data.getLsbD 13, droppedLive := b.skn.droppedLive && !data.getLsbD 14 } }
  else if off == 0x0C0108 then
    let v := data.toNat % 2 ^ 12
    if 1 ≤ v && v ≤ 2048 then { b with skn := { b.skn with level := data.setWidth 12 } } else b
  else match famIdx 0x060010 0x10 2 off, famIdx 0x060014 0x10 2 off, famIdx 0x060018 0x10 2 off, famIdx 0x06001C 0x10 2 off with
    | some n, _, _, _ => calCtrlWrite n data b
    | _, some n, _, _ => b.modSlot n (fun s =>
        { s with writeLost := s.writeLost && !data.getLsbD 2, descBad := s.descBad && !data.getLsbD 3 })
    | _, _, some n, _ => b.modSlot n (fun s => { s with word := data.setWidth 10 })
    | _, _, _, some n => calDataWrite n data b
    | _, _, _, _ => b

/-- Some tandem context has an open command: EN, PARTNER and the context bits keep their values (R341). -/
def tandemBusy (b : Body) : Bool := (List.range 64).any (fun c => tandemCtx b c && openCount b c != 0)

/-- FAB_TANDEM_CTRL: EN and PARTNER while no tandem context has an open command; HOLD always, and replies that waited for it
go when it falls (R331, R341). -/
def tandemWrite (data : W32) (b : Body) : Body :=
  let f := b.fab
  let f := if tandemBusy b then f else { f with tEn := data.getLsbD 0, partner := BitVec.ofNat 17 (bits data.toNat 18 2) }
  releaseHeld { b with fab := { f with tHold := data.getLsbD 1 } }

/-- The registers of a thimble group (Tables 10.9, 10.14). -/
def writeGroup (own off : Nat) (data : W32) (b : Body) : Body :=
  let n := (off - 0x101000) / 0x20
  match (off - 0x101000) % 0x20 with
  | 0x00 => shutdownEnd (groupCtrlWrite own n data b)
  | 0x04 => b.modGroup n (fun g => { g with membLo := data })
  | 0x08 => b.modGroup n (fun g => { g with membHi := data.setWidth 12 })
  | 0x0C => b.modGroup n (fun g => { g with count := data.setWidth 18 })
  | _ => b

/-- Chapters 10 and 13. -/
def writeFab (own off : Nat) (data : W32) (b : Body) : Body :=
  if 0x101000 ≤ off && off < 0x101200 then writeGroup own off data b
  else if off == 0x100220 then { b with fab := { b.fab with pedSel := data.setWidth 15 } }
  else if off == 0x100300 then tandemWrite data b
  else if off == 0x100304 then if tandemBusy b then b else { b with fab := { b.fab with tCtxLo := data } }
  else if off == 0x100308 then if tandemBusy b then b else { b with fab := { b.fab with tCtxHi := data } }
  else if off == 0x10030C then { b with fab := { b.fab with window := data } }
  else if off == 0x100310 then
    { b with fab := { b.fab with div := if data.getLsbD 15 then b.fab.div &&& 0xFFFF7FFF else b.fab.div } }
  else if off == 0x102008 then { b with stc := { b.stc with lostLock := b.stc.lostLock && !data.getLsbD 2 } }
  else b

/-- Chapter 11. -/
def writeXlt (off : Nat) (data : W32) (b : Body) : Body :=
  if off == 0x140004 then { b with xlt := { b.xlt with ctxSel := data.setWidth 6, recSel := data.getLsbD 6 } }
  else if off == 0x140008 then
    b.modCtx b.xlt.ctxSel.toNat (fun x => { x with root := data.setWidth 24, rootValid := data.getLsbD 31 })
  else if off == 0x140010 then { b with xlt := { b.xlt with invalVpn := data.setWidth 28 } }
  else if off == 0x140014 then xltInvalWrite data b
  else if off == 0x144020 then { b with coil := { b.coil with
    quotaReq := data.setWidth 4, quotaPart := BitVec.ofNat 2 (bits data.toNat 5 4) } }
  else if off == 0x144024 then
    let p := b.coil.quotaPart.toNat
    let q := tset (tget b.coil.quota p) b.coil.quotaReq.toNat (data.toNat % 2 ^ 23)
    { b with coil := { b.coil with quota := tset b.coil.quota p q } }
  else if off == 0x14402C then { b with coil := { b.coil with
    doubleFree := b.coil.doubleFree && !data.getLsbD 0, quotaFault := b.coil.quotaFault && !data.getLsbD 1 } }
  else b

/-- CTX_PARTp_CTRL: MODE, and RESET_SEEN cleared by 1 (Table 12.17, R293). -/
def partWrite (p : Nat) (data : W32) (b : Body) : Body :=
  { b with parts := tmod b.parts p (fun (x : Part) =>
      { x with mode := BitVec.ofNat 2 (bits data.toNat 17 16), resetSeen := x.resetSeen && !data.getLsbD 19 }) }

/-- A write of a context's configuration: it takes effect only where R287 permits it. -/
def cfgWrite (f : Ctx → Ctx) (b : Body) : Body :=
  if ctxFree b b.cr.sel.toNat then b.modCtx b.cr.sel.toNat f else b

/-- Chapters 12 and 13. -/
def writeCtx (off : Nat) (data : W32) (b : Body) : Body :=
  if off == 0x180000 then { b with cr := { b.cr with sel := data.setWidth 6 } }
  else if off == 0x180004 then cfgWrite (fun x => { x with
    part := data.setWidth 2, cls := data.getLsbD 2, ways := BitVec.ofNat 16 (bits data.toNat 19 4) }) b
  else if off == 0x180008 then ctxCtrlWrite data b
  else if off == 0x180010 then cfgWrite (fun x => { x with saveLo := data }) b
  else if off == 0x180014 then cfgWrite (fun x => { x with saveHi := data.setWidth 12 }) b
  else if off == 0x180020 then
    chooseVictim { b with cr := { b.cr with beFloor := data.setWidth 8, evictEn := data.getLsbD 8 } }
  else if off == 0x180300 then { b with cr := { b.cr with plumb := data.getLsbD 0 } }
  else match famIdx 0x180100 0x10 4 off with
    | some p => partWrite p data b
    | none => b

/-- The reservoir's registers, writable while ENABLE is 0 (R399). -/
def writeRes (off : Nat) (data : W32) (o : Obs) : Obs :=
  if o.enable then o
  else if off == 0x1C0510 then { o with resBase := BitVec.ofNat 33 (o.resBase.toNat / 2 ^ 32 * 2 ^ 32 + data.toNat) }
  else if off == 0x1C0514 then
    { o with resBase := BitVec.ofNat 33 (o.resBase.toNat % 2 ^ 32 + b2n (data.getLsbD 0) * 2 ^ 32) }
  else if off == 0x1C0518 then { o with resLines := data.setWidth 28 }
  else { o with resPre := data.setWidth 28 }

/-- The registers of the DUMP and of hangs. -/
def writeHang (off : Nat) (data : W32) (h : Hang) : Hang :=
  if off == 0x1C0600 then { h with limit := data }
  else if off == 0x1C0604 then { h with hung := h.hung && !data.getLsbD 0 }
  else if off == 0x1C0608 then { h with units := h.units &&& ~~~(data.setWidth 21) }
  else if off == 0x1C0610 then { h with dumpBase := BitVec.ofNat 33 (h.dumpBase.toNat / 2 ^ 32 * 2 ^ 32 + data.toNat) }
  else if off == 0x1C0614 then
    { h with dumpBase := BitVec.ofNat 33 (h.dumpBase.toNat % 2 ^ 32 + b2n (data.getLsbD 0) * 2 ^ 32) }
  else if off == 0x1C0618 then { h with dumpLines := data.setWidth 28 }
  else h

/-- Chapter 16; `mark` is the context of a MARK record (R397). -/
def writeObs (mark : Option Nat) (off : Nat) (data : W32) (b : Body) : Body :=
  let o := b.obs
  if off == 0x1C0418 then { b with obs := { o with ctxSel := data.setWidth 6 } }
  else if off == 0x1C041C then markOp mark data b
  else if off == 0x1C0500 then traceCtrlWrite data b
  else if off == 0x1C0504 then { b with obs := { o with ctxLo := data } }
  else if off == 0x1C0508 then { b with obs := { o with ctxHi := data } }
  else if off == 0x1C050C then { b with obs := { o with noticeMask := data.setWidth 9 &&& 0x1FE } }
  else if 0x1C0510 ≤ off && off < 0x1C0520 then { b with obs := writeRes off data o }
  else if off == 0x1C0520 then { b with obs := { o with
    trigLate := o.trigLate && !data.getLsbD 5, cfgBad := o.cfgBad && !data.getLsbD 6 } }
  else { b with hang := writeHang off data b.hang }

/-- Chapter 17. -/
def writePwr (off : Nat) (data : W32) (b : Body) : Body :=
  let p := b.pwr
  if off == 0x200008 then (if data.getLsbD 0 then paceClrOp b else b)
  else if off == 0x200014 then { b with pwr := { p with
    railLow := p.railLow && !data.getLsbD 0, railHigh := p.railHigh && !data.getLsbD 1, hot := p.hot && !data.getLsbD 3,
    breached := p.breached && !data.getLsbD 7 } }
  else if off == 0x200020 then { b with pwr := changeCeil b.now (fun p => { p with
    ceilSw := data.setWidth 12, ceilFail := BitVec.ofNat 12 (bits data.toNat 23 12), holdToDecl := data.getLsbD 24,
    tjMargin := BitVec.ofNat 7 (bits data.toNat 31 25) }) p }
  else if off == 0x200030 then { b with pwr := { p with lat := data.setWidth 16 } }
  else if off == 0x2001F8 then { b with pwr := hintWrite b.now (fun p => { p with hintDefault := data.setWidth 16 }) p }
  else match famIdx 0x200180 4 30 off with
    | some j => { b with pwr := hintWrite b.now (fun p => { p with
        hint := tset (tset p.hint (2 * j) (data.toNat % 2 ^ 16)) (2 * j + 1) (data.toNat / 2 ^ 16) }) p }
    | none => b

/-- Chapter 18: the block, and the code of a refused GO of ASY_CTRL, else 0. -/
def writeAsy (off : Nat) (data : W32) (b : Body) : Body × Nat :=
  let k := b.blk
  let put := fun k => ({ b with blk := k }, 0)
  if off == 0x200204 then asyCtrlWrite data b
  else if off == 0x20020C then put { k with budget := data }
  else if off == 0x200210 then put { k with next := data.setWidth 7 }
  else if off == 0x200240 then put { k with failSel := data.setWidth 6 }
  else if off == 0x200250 then put { k with
    wearCls := data.setWidth 4, wearArr := BitVec.ofNat 2 (bits data.toNat 5 4), wearIdx := BitVec.ofNat 7 (bits data.toNat 12 6) }
  else if off == 0x200258 then put { k with
    wearWarn := data.setWidth 16, wearSub := BitVec.ofNat 16 (bits data.toNat 31 16) }
  else if off == 0x200260 then (if wrapperOpen b then put { k with ctrl1500 := data.setWidth 4 } else (b, 0))
  else if off == 0x200264 then (wrapperShift data b, 0)
  else (b, 0)

/-- What a write does to everything but the fabric address and the tally store. A write of a field that is RO, of an
offset that no row lists, or of one from 0x24_0000 on is ignored (R10, R12, R459). -/
def bodyWrite (own : Nat) (mark : Option Nat) (off : Nat) (data : W32) (b : Body) : Body × Nat :=
  let h := off / 0x10000
  if h == 0x20 && 0x200200 ≤ off then writeAsy off data b
  else if h == 0x20 then (writePwr off data b, 0)
  else if h == 0x1C then (writeObs mark off data b, 0)
  else if h == 0x18 then (writeCtx off data b, 0)
  else if h == 0x14 then (writeXlt off data b, 0)
  else if h == 0x10 then (writeFab own off data b, 0)
  else if h < 0x10 then (writeFront own off data b, 0)
  else (b, 0)

/-- A write of a register word: the state and the code of a refused GO, else 0. -/
def regWrite (mark : Option Nat) (off : Nat) (data : W32) (s : State) : State × Nat :=
  let t := talWrite off data s.tal s.b
  let r := bodyWrite s.addr.own mark off data s.b
  ({ s with addr := addrWrite off data s.addr, tal := t.1, b := r.1 }, if t.2 != 0 then t.2 else r.2)

/-! ### MGP (R359, R360) -/

/-- An offset of the window, its two low bits dropped as MG_ADDR does. -/
def wordOff (offset : BitVec 22) : Nat := offset.toNat / 4 * 4

/-- A register access has completed as a handshake of the command port's logic: for class 6, or for class 7 on MGP (R419, R420). -/
def State.charged (s : State) (cls : Nat) : State := { s with b := charge cls 13 1 s.b }

/-- An MGP read: the answer on MG_RDATA. -/
def mgpRead (off : Nat) (s : State) : State :=
  let r := regRead mgpPath s.b.obs.ctxSel.toNat off s
  { s with b := { r.2 with cp := { r.2.cp with mgRdata := BitVec.ofNat 32 r.1, mgErr := false } } }

/-- An MGP access: MG_ERR while a slice holds the unit, and then nothing changes and a read returns 0. -/
def mgpOp (write : Bool) (off : Nat) (data : W32) (s : State) : State :=
  let t :=
    if held s.b off then { s with b := { s.b with cp := { s.b.cp with mgRdata := 0, mgErr := true } } }
    else if write then
      let t := (regWrite none off data s).1
      { t with b := { t.b with cp := { t.b.cp with mgErr := false } } }
    else mgpRead off s
  t.charged 7

/-- The row MGP_ACCESS. -/
def execMgpAccess (write : Bool) (offset : BitVec 22) (data : W32) (s : State) : Host.Outcome State Fault Refusal :=
  s.onAll (mgpOp write (wordOff offset) data)

/-! ### REG_READ, REG_WRITE and REGISTER_WRITE (R352, R391, R445) -/

/-- The record at the head of a queue that is accepted now, if it bears a code and passes every check. -/
def acceptable (own q code : Nat) (b : Body) : Option CmdRec :=
  match headRec b q with
  | none => none
  | some r =>
    if r.code != code || headWaits b r || holdStops b code then none
    else match acceptCheck own r b with
      | .error _ => none
      | .ok () => some r

/-- The context that the context copies and the latches answer for (R391). -/
def obsCtxOf (b : Body) (r : CmdRec) : Nat := if r.isGlobal then b.obs.ctxSel.toNat else r.ctx

/-- REG_READ at its acceptance: the value at that moment; ASY_HELD while a slice holds the unit. -/
def regReadOp (r : CmdRec) (s : State) : State :=
  if held s.b r.addr then { s with b := refuseRec r Code.asyHeld s.b }
  else
    let v := regRead r.queue (obsCtxOf s.b r) r.addr s
    { s with b := acceptDone s.addr.own r 0 [v.1, 0, 0, 0] (charge 6 13 1 v.2) }

/-- REG_WRITE at its acceptance: the write, then the reply, which carries the code of a refused GO (R382, R455). -/
def regWriteOp (r : CmdRec) (s : State) : State :=
  if held s.b r.addr then { s with b := refuseRec r Code.asyHeld s.b }
  else
    let w := regWrite r.ctxOpt r.addr (BitVec.ofNat 32 (r.b 0)) s
    { w.1 with b := acceptDone s.addr.own r w.2 [] (charge 6 13 1 w.1.b) }

/-- The head of a queue as a register command: accepted, refused, or still waiting. -/
def regCommand (q code : Nat) (f : CmdRec → State → State) (s : State) : State :=
  match acceptable s.addr.own q code s.b with
  | some r => f r s
  | none => { s with b := withHead s.addr.own q code (fun _ b => b) s.b }

/-- The row REG_READ. -/
def execRegRead (queue : BitVec 7) (s : State) : Host.Outcome State Fault Refusal :=
  s.onAll (regCommand queue.toNat Cmd.regRead regReadOp)

/-- The row REG_WRITE. -/
def execRegWrite (queue : BitVec 7) (s : State) : Host.Outcome State Fault Refusal :=
  s.onAll (regCommand queue.toNat Cmd.regWrite regWriteOp)

/-- The row REGISTER_WRITE: the effect of a write of a register, whichever path it came on with no context to name. -/
def execRegisterWrite (offset : BitVec 22) (data : W32) (s : State) : Host.Outcome State Fault Refusal :=
  s.onAll (fun s => if held s.b (wordOff offset) then s else (regWrite none (wordOff offset) data s).1)

end Sys2Proof.Machine
end

