-- ==== Sys2Proof/Machine/Dump.lean ====
section
/-! DEFINITION. DUMP (spec/16 R406 to R410): the stop of the block and the dump image. -/

namespace Sys2Proof.Machine

/-! ### Checks (R406) -/

/-- The lines of the dump area. -/
def dumpLinesOf (h : Hang) : Nat := h.dumpLines.toNat

/-- OBS_NO_AREA. -/
def dumpNoArea (b : Body) : Bool :=
  let base := b.hang.dumpBase.toNat
  let n := dumpLinesOf b.hang
  n == 0 || lineLimit b < base + n || meetsWindow b base n
    || (b.obs.enable && overlaps (base, n) (resBaseLine b.obs, b.obs.resLines.toNat))

def dumpCheck (b : Body) : Check := do
  failIf (!b.hang.hung && !b.hang.halted) Code.obsNotHung
  failIf (dumpNoArea b) Code.obsNoArea

/-! ### The stop (R407, R408) -/

/-- The unit instances of Table 1.1, by unit code and number (R354, R396; that the mica lanes and the ports of the switch count
as one instance each is DESIGN CHOICE, log 39). -/
def freezeInsts (s : State) : List (Nat × Nat) :=
  (List.range 8).map (fun i => (0, i))
    ++ ((List.range 4).filter (fun i => bit (gradeView s 0) i)).map (fun i => (1, i))
    ++ [(2, 0), (3, 0), (4, 0), (5, 0), (6, 0), (7, 0), (8, 0), (9, 0), (10, 0)]
    ++ (List.range 8).map (fun i => (12, i))
    ++ [(13, 0), (14, 0), (15, 0), (16, 0), (17, 0), (18, 0), (19, 0), (20, 0)]

/-- The freeze stamp of the i-th instance: within 61 ticks after S, otherwise free (R407, log 13); S itself where the stop met
a throttle hold (R431). -/
def freezeStamp (h : Hang) (i : Nat) : Nat :=
  if h.inHold then h.stamp else h.stamp + Config.freezeDelay (64 * h.freezeKey + i) % 62

/-- The FREEZE records of a stop (Table 16.3), each with its own stamp. -/
def freezeRecords (insts : List (Nat × Nat)) (b : Body) : Body :=
  (insts.mapIdx (fun i u => (freezeStamp b.hang i, u))).foldl (fun b p =>
    { b with obs := obsTrace p.1 p.2.1 none 6 p.2.2 0 b.obs }) b

/-- The stop of the block, once: S, the FREEZE records, and the flush of the trace, whose STATE becomes HALTED. -/
def stopBlock (insts : List (Nat × Nat)) (b : Body) : Body :=
  if b.hang.halted then b
  else
    let (k, b) := fresh b
    let b := { b with hang := { b.hang with halted := true, stamp := b.now, freezeKey := k, inHold := b.pwr.holding } }
    let b := flushTrace (freezeRecords insts b)
    { b with obs := { b.obs with state := if b.obs.enable then 5 else b.obs.state } }

/-! ### The image (R409) -/

/-- The selector that a register is read through. -/
inductive Sel where
  | none | queue | tal | step | ledger | gen | ped | xlt | rec_ | quota | ctx | octx | fail | wear
deriving DecidableEq, Repr

/-- The values of a selector, in ascending order; of OBS_CTX_SEL only created contexts (R409). -/
def selValues (s : State) : Sel → List Nat
  | .none => [0]
  | .queue => List.range 128
  | .tal => List.range 4
  | .ledger => (List.range 8).flatMap (fun e => (List.range 64).map (fun c => 256 * e + c))
  | .ped => List.range (2 ^ 15)
  | .rec_ => List.range 128
  | .octx => (List.range 64).filter (fun c => (s.b.ctx c).created)
  | .wear => List.range (2 ^ 13)
  | _ => List.range 64

/-- The state with a selector at a value. -/
def withSel (k : Sel) (v : Nat) (s : State) : State :=
  let b := s.b
  match k with
  | .none => s
  | .queue => { s with b := { b with cp := { b.cp with queueSel := BitVec.ofNat 7 v } } }
  | .tal => { s with tal := { s.tal with sel := BitVec.ofNat 2 v } }
  | .step => { s with b := { b with stepSel := BitVec.ofNat 6 v } }
  | .ledger => { s with b := { b with ledSel := BitVec.ofNat 6 v, ledEnt := BitVec.ofNat 3 (v / 256) } }
  | .gen => { s with b := { b with genSel := BitVec.ofNat 6 v } }
  | .ped => { s with b := { b with fab := { b.fab with pedSel := BitVec.ofNat 15 v } } }
  | .xlt => { s with b := { b with xlt := { b.xlt with ctxSel := BitVec.ofNat 6 v } } }
  | .rec_ => { s with b := { b with xlt := { b.xlt with ctxSel := BitVec.ofNat 6 v, recSel := bit v 6 } } }
  | .quota => { s with b := { b with coil := { b.coil with
      quotaReq := BitVec.ofNat 4 v, quotaPart := BitVec.ofNat 2 (v / 16) } } }
  | .ctx => { s with b := { b with cr := { b.cr with sel := BitVec.ofNat 6 v } } }
  | .octx => s
  | .fail => { s with b := { b with blk := { b.blk with failSel := BitVec.ofNat 6 v } } }
  | .wear => { s with b := { b with blk := { b.blk with
      wearCls := BitVec.ofNat 4 v, wearArr := BitVec.ofNat 2 (v / 16), wearIdx := BitVec.ofNat 7 (v / 64) } } }

/-- Offsets of a run of registers with one selector. -/
def regRun (base n : Nat) (k : Sel) : List (Nat × Sel) := (List.range n).map (fun i => (base + 4 * i, k))

/-- The registers that are not WO, chapters 14 to 8 of the window. -/
def dumpRegsA : List (Nat × Sel) :=
  regRun 0 2 .none ++ regRun 0x010000 5 .none ++ [(0x010014, .queue), (0x010020, .none)]
    ++ regRun 0x020000 5 .none ++ [(0x020100, .none), (0x020104, .none), (0x02010C, .none), (0x020110, .tal),
      (0x020114, .none), (0x020118, .tal), (0x02011C, .none)]
    ++ regRun 0x040000 2 .none ++ regRun 0x040010 12 .none
    ++ regRun 0x060000 3 .none ++ [0x060010, 0x060014, 0x060018, 0x060020, 0x060024, 0x060028].map (fun o => (o, Sel.none))
    ++ regRun 0x060100 4 .none ++ regRun 0x080000 2 .none ++ [(0x080010, .none), (0x080014, .step)]
    ++ regRun 0x080100 3 .none ++ regRun 0x090000 6 .none ++ regRun 0x0A0000 2 .none
    ++ [(0x0A0010, .none), (0x0A0014, .ledger), (0x0A0018, .ledger)]
    ++ regRun 0x0C0000 2 .none ++ [(0x0C0010, .none)] ++ regRun 0x0C0014 3 .gen ++ regRun 0x0C0104 5 .none

/-- Chapters 10 to 13. -/
def dumpRegsB : List (Nat × Sel) :=
  regRun 0x100000 36 .none ++ regRun 0x100100 36 .none ++ regRun 0x100200 5 .none ++ [(0x100220, .none), (0x100224, .ped)]
    ++ regRun 0x100300 6 .none ++ [(0x100320, .none)] ++ regRun 0x100400 3 .none
    ++ (List.range 16).flatMap (fun n => regRun (0x101000 + 0x20 * n) 5 .none)
    ++ regRun 0x102000 4 .none
    ++ regRun 0x140000 2 .none ++ regRun 0x140008 2 .xlt ++ regRun 0x140010 2 .none ++ regRun 0x140020 8 .rec_
    ++ regRun 0x140040 2 .none ++ regRun 0x144000 8 .none ++ [(0x144020, .none), (0x144024, .quota), (0x144028, .quota)]
    ++ regRun 0x14402C 2 .none ++ [(0x148000, .none)] ++ regRun 0x148010 8 .none
    ++ [(0x180000, .none), (0x180004, .ctx), (0x180008, .none), (0x18000C, .ctx), (0x180010, .ctx), (0x180014, .ctx),
      (0x180018, .ctx)]
    ++ regRun 0x180020 5 .none ++ regRun 0x180100 16 .none ++ regRun 0x180200 2 .none ++ [(0x180300, .none)]

/-- Chapters 16 to 18. -/
def dumpRegsC : List (Nat × Sel) :=
  regRun 0x1C0000 36 .octx ++ regRun 0x1C0100 36 .none ++ regRun 0x1C0200 36 .octx ++ regRun 0x1C0300 36 .octx
    ++ regRun 0x1C0400 6 .octx ++ [(0x1C0418, .none)] ++ regRun 0x1C0500 12 .none ++ regRun 0x1C0600 3 .none
    ++ regRun 0x1C0610 4 .none
    ++ regRun 0x200000 2 .none ++ regRun 0x20000C 4 .none ++ regRun 0x200020 24 .none ++ regRun 0x200100 30 .none
    ++ regRun 0x200180 30 .none ++ [(0x2001F8, .none)] ++ regRun 0x200200 5 .none ++ regRun 0x200220 4 .none
    ++ [(0x200240, .none), (0x200244, .fail), (0x200248, .fail), (0x200250, .none), (0x200254, .wear), (0x200258, .none)]
    ++ regRun 0x200260 2 .none

/-- A register hank (R409). -/
def regHank (off sel value : Nat) (selected : Bool) : Hank := i32Hank [fld 21 0 off + 2 ^ 30, sel, value, b2n selected]

/-- The register hanks of one register: one for each value of its selector. -/
def regHanks (s : State) (r : Nat × Sel) : List Hank :=
  (selValues s r.2).map (fun v => regHank r.1 v (regPeek (withSel r.2 v s) v r.1) (r.2 != .none))

/-- A unit hank (R409). -/
def unitHank (h : Hang) (i : Nat) (u : Nat × Nat) : Hank :=
  let t := freezeStamp h i
  i32Hank [fld 4 0 u.1 + fld 8 5 u.2, 0, t % 2 ^ 32, t / 2 ^ 32 % 2 ^ 16]

/-- The hanks that follow the header. -/
def dumpHanks (s : State) : List Hank :=
  (freezeInsts s).mapIdx (unitHank s.b.hang) ++ (dumpRegsA ++ dumpRegsB ++ dumpRegsC).flatMap (regHanks s)

/-- The header (R409). -/
def dumpHeader (h : Hang) (n : Nat) (trunc : Bool) : Hank :=
  i32Hank [0x504D5544, n, h.stamp % 2 ^ 32, fld 15 0 (h.stamp / 2 ^ 32) + fld 16 16 (b2n trunc)]

/-- The lines of the image go out through the trace channels; the last one is completed with hanks of zeros (R409). -/
def dumpLines (base : Nat) : List (List Hank) → Body → Body
  | [], b => b
  | l :: rest, b =>
    dumpLines (base + 1) rest (traceLineOut base (sealedLine (l ++ List.replicate (15 - l.length) (i32Hank []))) b)

/-- The image in the dump area: the hanks that fit, and TRUNC when some do not. -/
def writeDump (s : State) : Body :=
  let b := s.b
  let all := dumpHanks s
  let room := 15 * dumpLinesOf b.hang - 1
  let hs := all.take room
  let trunc := room < all.length
  { dumpLines b.hang.dumpBase.toNat (chunks 15 (dumpHeader b.hang hs.length trunc :: hs)) b with
    hang := { b.hang with written := true, trunc := trunc } }

/-- Every open command replies OBS_HALTED, with its counts at the stop; its CMD_END is not traced (R410). -/
def haltReplies (os : List Open) (b : Body) : Body :=
  os.foldl (fun b o => sendReply o (mkReply b o Code.obsHalted 0) false b) b

/-- DUMP at its acceptance. -/
def dumpOp (r : CmdRec) (s : State) : State :=
  match dumpCheck s.b with
  | .error code => { s with b := refuseRec r code s.b }
  | .ok () =>
    let b := trace 13 none 0 r.seq r.code (dropRec r s.b)
    let os := b.opens
    let b := stopBlock (freezeInsts s) b
    let b := writeDump { s with b := b }
    { s with b := haltReplies os (globalReply r 0 [] b) }

/-- The DUMP that may be accepted now. -/
def dumpReady (own : Nat) (b : Body) : Option CmdRec :=
  match b.cp.express.find? (fun r => r.code == Cmd.dump) with
  | none => none
  | some r => match acceptCheck own r b with
    | .error _ => none
    | .ok () => some r

/-- The row DUMP. -/
def execDump (s : State) : Host.Outcome State Fault Refusal :=
  s.onAll (fun s => match dumpReady s.addr.own s.b with
    | some r => dumpOp r s
    | none => { s with b := withExpress s.addr.own Cmd.dump (fun _ b => b) s.b })

end Sys2Proof.Machine
end

