-- ==== Sys2Proof/Machine/Port.lean ====
section
/-! DEFINITION. The two directions of the command port (spec/14): records in, and replies and notices out. -/

namespace Sys2Proof.Machine

/-- The row CP_RECORD_INTAKE: transfers on CPI, framed and checked. -/
def execCpRecordIntake (transfers : List Transfer) (s : State) : Host.Outcome State Fault Refusal :=
  s.onBody (fun _ b => takeTransfers transfers b)

/-- The words of an outward record (Table 14.5); `lost` sets LOST in a notice. -/
def outWords (oseq : Nat) (lost : Bool) (r : OutRec) : List Nat :=
  [fld 7 0 r.kind + fld 8 8 (b2n r.notice) + fld 14 9 (r.ctx.getD r.shown) + fld 15 15 (b2n r.ctx.isSome) + fld 23 16 r.hanks,
   oseq, r.seq % 2 ^ 32, fld 15 0 r.status + fld 31 16 (r.flags + 8 * b2n lost)]
  ++ ((r.body ++ List.replicate (4 * r.hanks) 0).take (4 * r.hanks))

/-- The transfers that carry hanks: 17 bytes of each in turn, 32 bytes to a transfer, the last one filled with zeros (R344). -/
def outTransfers (hs : List Hank) : List OutTransfer :=
  let stream := hs.foldr (fun h acc => h.toNat + 2 ^ 136 * acc) 0
  let n := cdiv (17 * hs.length) 32
  (List.range n).map (fun k =>
    { data := BitVec.ofNat 256 (stream >>> (256 * k)), first := k == 0, last := k + 1 == n })

/-- A record as it leaves: its words, the I32 hanks that they form, with tag 0x7F, and its transfers (R342, R344, R353). -/
def sentRec (ws : List Nat) : SentRec := { words := ws, hanks := i32Hanks ws, transfers := outTransfers (i32Hanks ws) }

/-- Replies that waited for room enter the store in their order (R357); fuel is their number. -/
def refill : Nat → Body → Body
  | 0, b => b
  | n + 1, b =>
    match b.cp.waitOut with
    | [] => b
    | r :: rest =>
      if replyHeld b + r.size ≤ replyRoom then
        refill n (storeReply r { b with cp := { b.cp with waitOut := rest } })
      else b

/-- The oldest outward record leaves on CPO with the next OSEQ (R353, R357). -/
def outwardOp (b : Body) : Body :=
  match b.cp.out with
  | [] => b
  | r :: rest =>
    let lost := r.notice && b.cp.lostFlag
    let b := { b with cp := { b.cp with
      out := rest, oseq := b.cp.oseq + 1, lostFlag := b.cp.lostFlag && !lost,
      cpo := some (sentRec (outWords b.cp.oseq.toNat lost r)) } }
    refill b.cp.waitOut.length (act 7 13 0 b)

/-- The row OUTWARD_RECORD: CPO_READY is 1. -/
def execOutwardRecord (s : State) : Host.Outcome State Fault Refusal := s.onBody (fun _ b => outwardOp b)

end Sys2Proof.Machine
end

