-- ==== Sys2Proof/Machine/Rows.lean ====
section
/-! DEFINITION. The rows after which units, buffers or ports may be free for others: everything that can then goes on, under R16
(spec/01 R16, spec/09 R213, spec/11 R271, spec/12 R296, R297). -/

namespace Sys2Proof.Machine

/-- A row, and then everything that can go on. -/
def State.goOn (s : State) (f : Nat → Body → Body) : Host.Outcome State Fault Refusal := s.onBody (fun own b => driveAll own (f own b))

/-- A row that may end a hold or a halt. -/
def State.mayThaw (s : State) (f : Nat → Body → Body) : Host.Outcome State Fault Refusal :=
  s.onBody (fun own b => afterHold own b (f own b))

/-! ### Commands -/

/-- The row ROUTE_STEP. -/
def execRouteStep (ctx : BitVec 6) (s : State) : Host.Outcome State Fault Refusal :=
  s.goOn (fun own b => commandRow own ctx.toNat Cmd.routeStep (routeOp own) b)

/-- The row ROUTE_STEP_DONE. -/
def execRouteStepDone (ctx : BitVec 6) (s : State) : Host.Outcome State Fault Refusal :=
  s.onBody (fun own b => routeDoneOp own ctx.toNat b)

/-- The row COMBINE. -/
def execCombine (ctx : BitVec 6) (s : State) : Host.Outcome State Fault Refusal :=
  s.goOn (fun own b => commandRow own ctx.toNat Cmd.combine (combineOp own) b)

/-- The row COMBINE_START. -/
def execCombineStart (ctx : BitVec 6) (s : State) : Host.Outcome State Fault Refusal :=
  s.goOn (fun own b => combineStartOp own ctx.toNat b)

/-- The row DISPATCH. -/
def execDispatch (s : State) : Host.Outcome State Fault Refusal :=
  s.goOn (fun own b => withExpress own Cmd.dispatch (dispatchOp own) b)

/-- The row COPY. -/
def execCopy (ctx : BitVec 6) (s : State) : Host.Outcome State Fault Refusal :=
  s.goOn (fun own b => commandRow own ctx.toNat Cmd.copy (copyOp own) b)

/-- The row CANCEL_BATCH. -/
def execCancelBatch (s : State) : Host.Outcome State Fault Refusal :=
  s.goOn (fun own b => withExpress own Cmd.cancelBatch (cancelOp own) b)

/-- The row RESUME. -/
def execResume (s : State) : Host.Outcome State Fault Refusal :=
  s.goOn (fun own b => withExpress own Cmd.resume (resumeOp own) b)

/-- The row SHUTDOWN: its acceptance, or the end of one that waited for pieces. -/
def execShutdown (s : State) : Host.Outcome State Fault Refusal :=
  s.mayThaw (fun own b => shutdownEnd (withHead own 64 Cmd.shutdown (shutdownOp own) b))

/-- The row DX_EN_FALL. -/
def execDxEnFall (s : State) : Host.Outcome State Fault Refusal := s.mayThaw dxEnFallOp

/-! ### Units -/

/-- The row TOKEN_PACKET_RECEIVE. -/
def execTokenPacketReceive (s : State) : Host.Outcome State Fault Refusal := s.onBody (exchangeRow tokenRow)

/-- The row END_PACKET_RECEIVE. -/
def execEndPacketReceive (s : State) : Host.Outcome State Fault Refusal := s.onBody (exchangeRow endRow)

/-- The row ANSWER_PACKET_RECEIVE. -/
def execAnswerPacketReceive (s : State) : Host.Outcome State Fault Refusal := s.onBody (exchangeRow answerRow)

/-- The row HOME_HALF_SORT. -/
def execHomeHalfSort (s : State) : Host.Outcome State Fault Refusal := s.goOn homeSortOp

/-- The row SKEIN_READ_DONE. -/
def execSkeinReadDone (s : State) : Host.Outcome State Fault Refusal := s.goOn readDoneOp

/-- The row HOMED_DEADLINE. -/
def execHomedDeadline (s : State) : Host.Outcome State Fault Refusal := s.goOn homedDeadlineOp

/-- The row WP_CARD_ACK. -/
def execWpCardAck (s : State) : Host.Outcome State Fault Refusal := s.goOn cardAckOp

/-- The row WP_COMPLETION. -/
def execWpCompletion (hank : Hank) (s : State) : Host.Outcome State Fault Refusal := s.goOn (fun _ b => completionOp hank b)

/-- The row SAVE_DONE. -/
def execSaveDone (ctx : BitVec 6) (s : State) : Host.Outcome State Fault Refusal := s.goOn (fun own b => saveDoneOp own ctx.toNat b)

/-- The row RESTORE_DONE. -/
def execRestoreDone (ctx : BitVec 6) (s : State) : Host.Outcome State Fault Refusal :=
  s.goOn (fun own b => restoreDoneOp own ctx.toNat b)

/-- The row COIL_GRANT. -/
def execCoilGrant (s : State) : Host.Outcome State Fault Refusal := s.onBody (fun own b => coilGrantOp own (expire own b))

/-- The row UNIT_YIELD. -/
def execUnitYield (s : State) : Host.Outcome State Fault Refusal := s.onBody yieldOp

/-- The row MEMORY_RESPONSE. -/
def execMemoryResponse (line : BitVec 33) (id : BitVec 8) (status : BitVec 2) (data : BitVec 2048) (s : State) :
    Host.Outcome State Fault Refusal :=
  s.onBody (fun own b => memResponseOp own line.toNat id.toNat status.toNat data b)

/-- The row THROTTLE_WINDOW. -/
def execThrottleWindow (s : State) : Host.Outcome State Fault Refusal := s.mayThaw (fun _ b => windowOp b)

/-- The row RAIL_READING. -/
def execRailReading (vzc vzs : BitVec 10) (s : State) : Host.Outcome State Fault Refusal := s.mayThaw (fun _ b => railOp vzc vzs b)

/-! ### Link ports and the bight chain: what the switch then takes, Hawser sends -/

/-- The row LINK_FLIT_RECEIVE. -/
def execLinkFlitReceive (port : BitVec 6) (flit : BitVec 640) (s : State) : Host.Outcome State Fault Refusal :=
  s.goOn (fun own b => flitReceived own port.toNat flit b)

/-- The row NAK_RECEIVE. -/
def execNakReceive (port : BitVec 6) (crcGood : Bool) (lack expected : BitVec 10) (s : State) :
    Host.Outcome State Fault Refusal :=
  s.goOn (fun own b => nakOp own port.toNat crcGood lack.toNat expected.toNat b)

/-- The row CREDIT_RECEIVE. -/
def execCreditReceive (port : BitVec 6) (crcGood : Bool) (lack : BitVec 10) (drained : BitVec 96) (s : State) :
    Host.Outcome State Fault Refusal :=
  s.goOn (fun _ b => creditOp port.toNat crcGood lack.toNat drained b)

/-- The row LINK_RETRY_TIMEOUT. -/
def execLinkRetryTimeout (port : BitVec 6) (s : State) : Host.Outcome State Fault Refusal :=
  s.goOn (fun own b => retryOp own port.toNat b)

/-- The row LINK_TRAINED: the port comes UP, and the two ends count from 0. -/
def execLinkTrained (port : BitVec 6) (s : State) : Host.Outcome State Fault Refusal :=
  s.goOn (fun own b => linkTrainedOp own port.toNat b)

/-- The row BIGHT_TOKEN. Packets that waited for an address go on. -/
def execBightToken (token : BitVec 24) (s : State) : Host.Outcome State Fault Refusal :=
  s.onAll (fun s =>
    let a := bightOp token s.addr
    { s with addr := a, b := if a.locked && !s.addr.locked then driveAll a.own (retryUnrouted a.own s.b) else s.b })

end Sys2Proof.Machine
end

