-- ==== Sys2Proof/Machine/Dispatch.lean ====
section
/-! DEFINITION. One arm for each command: the meaning it calls. -/

namespace Sys2Proof.Machine

/-- What a command does to everything but the queue. -/
def exec (i : Instr) (s : State) : Host.Outcome State Fault Refusal :=
  match i with
  | .porstNReset => Sys2Proof.Machine.execPorstNReset s
  | .dxEnRiseStart => Sys2Proof.Machine.execDxEnRiseStart s
  | .dxEnFall => Sys2Proof.Machine.execDxEnFall s
  | .dxEnRiseDuringAssay fails => Sys2Proof.Machine.execDxEnRiseDuringAssay fails s
  | .bightToken token => Sys2Proof.Machine.execBightToken token s
  | .cpRecordIntake transfers => Sys2Proof.Machine.execCpRecordIntake transfers s
  | .outwardRecord => Sys2Proof.Machine.execOutwardRecord s
  | .mgpAccess write offset data => Sys2Proof.Machine.execMgpAccess write offset data s
  | .loadLay => Sys2Proof.Machine.execLoadLay s
  | .applySplice => Sys2Proof.Machine.execApplySplice s
  | .routeStep ctx => Sys2Proof.Machine.execRouteStep ctx s
  | .routeStepDone ctx => Sys2Proof.Machine.execRouteStepDone ctx s
  | .combine ctx => Sys2Proof.Machine.execCombine ctx s
  | .combineStart ctx => Sys2Proof.Machine.execCombineStart ctx s
  | .dispatch => Sys2Proof.Machine.execDispatch s
  | .copy ctx => Sys2Proof.Machine.execCopy ctx s
  | .collect ctx => Sys2Proof.Machine.execCollect ctx s
  | .pieceAdmit group => Sys2Proof.Machine.execPieceAdmit group s
  | .collectDone ctx => Sys2Proof.Machine.execCollectDone ctx s
  | .collectDeadline group => Sys2Proof.Machine.execCollectDeadline group s
  | .muster ctx => Sys2Proof.Machine.execMuster ctx s
  | .musterArriveLocal group => Sys2Proof.Machine.execMusterArriveLocal group s
  | .musterReleaseTick group => Sys2Proof.Machine.execMusterReleaseTick group s
  | .musterDeadline group => Sys2Proof.Machine.execMusterDeadline group s
  | .cancelBatch => Sys2Proof.Machine.execCancelBatch s
  | .saveContext ctx => Sys2Proof.Machine.execSaveContext ctx s
  | .resume => Sys2Proof.Machine.execResume s
  | .regRead queue => Sys2Proof.Machine.execRegRead queue s
  | .regWrite queue => Sys2Proof.Machine.execRegWrite queue s
  | .registerWrite offset data => Sys2Proof.Machine.execRegisterWrite offset data s
  | .dump => Sys2Proof.Machine.execDump s
  | .shutdown => Sys2Proof.Machine.execShutdown s
  | .calSlotDataWrite slot data => Sys2Proof.Machine.execCalSlotDataWrite slot data s
  | .calSlotCommit slot data => Sys2Proof.Machine.execCalSlotCommit slot data s
  | .xltInvalGo data => Sys2Proof.Machine.execXltInvalGo data s
  | .ctxCreate => Sys2Proof.Machine.execCtxCreate s
  | .ctxDestroy => Sys2Proof.Machine.execCtxDestroy s
  | .thmGroupOpen group data => Sys2Proof.Machine.execThmGroupOpen group data s
  | .thmGroupClose group data => Sys2Proof.Machine.execThmGroupClose group data s
  | .abort group data => Sys2Proof.Machine.execAbort group data s
  | .dropRest => Sys2Proof.Machine.execDropRest s
  | .talSelWrite data => Sys2Proof.Machine.execTalSelWrite data s
  | .talStageDataWrite data => Sys2Proof.Machine.execTalStageDataWrite data s
  | .talGo => Sys2Proof.Machine.execTalGo s
  | .tallyCommitDone => Sys2Proof.Machine.execTallyCommitDone s
  | .obsMarkWrite data => Sys2Proof.Machine.execObsMarkWrite data s
  | .traceEnable data => Sys2Proof.Machine.execTraceEnable data s
  | .traceDisable data => Sys2Proof.Machine.execTraceDisable data s
  | .trigger => Sys2Proof.Machine.execTrigger s
  | .arm => Sys2Proof.Machine.execArm s
  | .traceIdleFlush => Sys2Proof.Machine.execTraceIdleFlush s
  | .mrlPcEnable data => Sys2Proof.Machine.execMrlPcEnable data s
  | .pcSample => Sys2Proof.Machine.execPcSample s
  | .paceClr => Sys2Proof.Machine.execPaceClr s
  | .asyGo data => Sys2Proof.Machine.execAsyGo data s
  | .asy1500Shift data => Sys2Proof.Machine.execAsy1500Shift data s
  | .linkFlitReceive port flit => Sys2Proof.Machine.execLinkFlitReceive port flit s
  | .nakReceive port crcGood lack expected => Sys2Proof.Machine.execNakReceive port crcGood lack expected s
  | .creditReceive port crcGood lack drained => Sys2Proof.Machine.execCreditReceive port crcGood lack drained s
  | .linkRetryTimeout port => Sys2Proof.Machine.execLinkRetryTimeout port s
  | .tokenPacketReceive => Sys2Proof.Machine.execTokenPacketReceive s
  | .endPacketReceive => Sys2Proof.Machine.execEndPacketReceive s
  | .homeHalfSort => Sys2Proof.Machine.execHomeHalfSort s
  | .answerPacketReceive => Sys2Proof.Machine.execAnswerPacketReceive s
  | .skeinReadDone => Sys2Proof.Machine.execSkeinReadDone s
  | .collectPartialReceive => Sys2Proof.Machine.execCollectPartialReceive s
  | .admitReceive => Sys2Proof.Machine.execAdmitReceive s
  | .resultReceive => Sys2Proof.Machine.execResultReceive s
  | .collectVoidReceive => Sys2Proof.Machine.execCollectVoidReceive s
  | .musterArriveReceive => Sys2Proof.Machine.execMusterArriveReceive s
  | .musterReleaseReceive => Sys2Proof.Machine.execMusterReleaseReceive s
  | .musterVoidReceive => Sys2Proof.Machine.execMusterVoidReceive s
  | .tandemRecordReceive => Sys2Proof.Machine.execTandemRecordReceive s
  | .tandemWindowExpiry => Sys2Proof.Machine.execTandemWindowExpiry s
  | .stcSyncExchange port => Sys2Proof.Machine.execStcSyncExchange port s
  | .stcSyncReceive port crcGood error => Sys2Proof.Machine.execStcSyncReceive port crcGood error s
  | .stcrefCycle => Sys2Proof.Machine.execStcrefCycle s
  | .wpCardAck => Sys2Proof.Machine.execWpCardAck s
  | .wpCompletion hank => Sys2Proof.Machine.execWpCompletion hank s
  | .tileHeaderArrive hank => Sys2Proof.Machine.execTileHeaderArrive hank s
  | .tileReceive hanks => Sys2Proof.Machine.execTileReceive hanks s
  | .memoryResponse line id status data => Sys2Proof.Machine.execMemoryResponse line id status data s
  | .coilGrant => Sys2Proof.Machine.execCoilGrant s
  | .saveStart ctx => Sys2Proof.Machine.execSaveStart ctx s
  | .saveDone ctx => Sys2Proof.Machine.execSaveDone ctx s
  | .restoreDone ctx => Sys2Proof.Machine.execRestoreDone ctx s
  | .autoRestore ctx => Sys2Proof.Machine.execAutoRestore ctx s
  | .unitYield => Sys2Proof.Machine.execUnitYield s
  | .homedDeadline => Sys2Proof.Machine.execHomedDeadline s
  | .watchdogLimit => Sys2Proof.Machine.execWatchdogLimit s
  | .paceWindowEnd count => Sys2Proof.Machine.execPaceWindowEnd count s
  | .tempReport tj sensor => Sys2Proof.Machine.execTempReport tj sensor s
  | .railReading vzc vzs => Sys2Proof.Machine.execRailReading vzc vzs s
  | .ceilChange ceil valid => Sys2Proof.Machine.execCeilChange ceil valid s
  | .throttleWindow => Sys2Proof.Machine.execThrottleWindow s
  | .throttleHoldStart => Sys2Proof.Machine.execThrottleHoldStart s
  | .drawPublish => Sys2Proof.Machine.execDrawPublish s
  | .secondEnd => Sys2Proof.Machine.execSecondEnd s
  | .wearMeasure cls array index wear => Sys2Proof.Machine.execWearMeasure cls array index wear s
  | .assaySliceEnd fails => Sys2Proof.Machine.execAssaySliceEnd fails s
  | .sliceBudgetExpiry fails => Sys2Proof.Machine.execSliceBudgetExpiry fails s
  | .assayEnd => Sys2Proof.Machine.execAssayEnd s
  | .porstNRelease => Sys2Proof.Machine.execPorstNRelease s
  | .linkTrained port => Sys2Proof.Machine.execLinkTrained port s
  | .lossOfPower => Sys2Proof.Machine.execLossOfPower s

end Sys2Proof.Machine
end

