-- ==== Sys2Proof/Machine/Idle.lean ====
section
/-! DEFINITION. What a step does on an empty queue: one tick of the block's own time (DESIGN CHOICE, log 16). On a chip that
is not the hall root the STC counts (R251, R252), and the trace unit writes one whole line of its staging (R400). -/

namespace Sys2Proof.Machine

/-- One tick: the STC of a chip that is not the hall root, and one line of the trace. -/
def tickBody (b : Body) : Body :=
  let b := if b.stc.root then b else { b with stc := stcTick b.stc }
  drainTrace b

/-- The step on an empty queue. While PORST_N is asserted nothing happens. -/
def idle (s : State) : State := if s.b.blk.porst then s else { s with b := settle s.b (tickBody s.b) }

end Sys2Proof.Machine
end

