-- ==== Sys2Proof/Safety.lean ====
section
/-! DEFINITION. The terms in which the statements speak: what it is for a command to run, the conditions under which it
does, and the invariants of the fabric address and the tally store. -/

namespace Sys2Proof.Machine

/-! ### A command that runs -/

/-- The block is out of reset (R435). -/
def powered (s : State) : Prop := s.b.blk.porst = false

/-- Some next state follows: no fault and no refusal. -/
def completes (o : Host.Outcome State Fault Refusal) : Prop := ∃ t, o = .next t

/-- The next state after an effect on the body: the queue, the fabric address and the tally store stand, and the
observation unit takes note of the step. -/
def ran (s : State) (f : Nat → Body → Body) : Host.Outcome State Fault Refusal :=
  .next { s with b := settle s.b (f s.addr.own s.b) }

/-- The next state after an effect on the whole block. -/
def ranAll (s : State) (f : State → State) : Host.Outcome State Fault Refusal :=
  .next { f s with b := settle s.b (f s).b }

/-- A record stands at the head of a queue, waits for nothing, and passes the common checks of acceptance (R349 to R352). -/
structure HeadRuns (s : State) (q code : Nat) (r : CmdRec) : Prop where
  power : powered s
  head : headRec s.b q = some r
  kind : r.code = code
  wait : headWaits s.b r = false
  hold : holdStops s.b code = false
  check : acceptCheck s.addr.own r s.b = .ok ()

/-- A record that joins no queue is the oldest of its code and passes the common checks (R350, R406). -/
structure ExpressRuns (s : State) (code : Nat) (r : CmdRec) : Prop where
  power : powered s
  first : s.b.cp.express.find? (fun x => x.code == code) = some r
  hold : holdStops s.b code = false
  check : acceptCheck s.addr.own r s.b = .ok ()

/-- A packet stands before its consumer and nothing holds the block. -/
structure PacketWaits (s : State) (f : Packet → Bool) (p : Packet) : Prop where
  power : powered s
  free : frozen s.b = false
  front : frontPacket f s.b = some p

/-- The unit of a register runs: the block is out of reset and no assay slice holds the unit (R445). -/
structure RegFree (s : State) (off : Nat) : Prop where
  power : powered s
  held : held s.b off = false

/-- Units run: the block is out of reset and neither a DUMP nor a throttle hold stops it (R408, R427). -/
structure UnitsRun (s : State) : Prop where
  power : powered s
  free : frozen s.b = false

/-! ### Kinds of commands -/

/-- What moves while PORST_N is asserted: the reset itself, its end, and the loss of power (R434, R435). -/
def movesInReset : Instr → Bool
  | .porstNReset | .porstNRelease | .lossOfPower => true
  | _ => false

/-- What takes the fabric address away (R364). -/
def dropsAddress : Instr → Bool
  | .porstNReset | .lossOfPower => true
  | _ => false

/-- What may change the fabric address or the flags beside it (R363, R364, Table 14.15). -/
def touchesAddress : Instr → Bool
  | .porstNReset | .lossOfPower | .bightToken _ | .mgpAccess _ _ _ | .regWrite _ | .registerWrite _ _ => true
  | _ => false

/-- What may change the tally store or its registers (R380 to R383, R450). -/
def touchesTally : Instr → Bool
  | .porstNReset | .lossOfPower | .mgpAccess _ _ _ | .regWrite _ | .registerWrite _ _ | .talSelWrite _
  | .talStageDataWrite _ | .talGo | .tallyCommitDone | .assayEnd | .dxEnRiseStart | .dxEnRiseDuringAssay _ => true
  | _ => false

/-- The queue and the code of a command that stands at the head of a queue (R350, Table 14.4). -/
def headRow : Instr → Option (Nat × Nat)
  | .loadLay => some (64, Cmd.loadLay)
  | .applySplice => some (64, Cmd.applySplice)
  | .shutdown => some (64, Cmd.shutdown)
  | .routeStep c => some (c.toNat, Cmd.routeStep)
  | .combine c => some (c.toNat, Cmd.combine)
  | .copy c => some (c.toNat, Cmd.copy)
  | .collect c => some (c.toNat, Cmd.collect)
  | .muster c => some (c.toNat, Cmd.muster)
  | .saveContext c => some (c.toNat, Cmd.saveContext)
  | .regRead q => some (q.toNat, Cmd.regRead)
  | .regWrite q => some (q.toNat, Cmd.regWrite)
  | _ => none

/-- The code of a command that joins no queue (R350, R406). -/
def expressRow : Instr → Option Nat
  | .dispatch => some Cmd.dispatch
  | .cancelBatch => some Cmd.cancelBatch
  | .resume => some Cmd.resume
  | .dump => some Cmd.dump
  | _ => none

/-- What a command's step does after the command itself (log 41). -/
def rowEnd : Instr → Nat → Body → Body
  | .routeStep _ | .combine _ | .copy _ | .dispatch | .cancelBatch | .resume => driveAll
  | .shutdown => fun _ b => shutdownEnd b
  | _ => fun _ b => b

/-- Steps of units, which a halt or a throttle hold stops (R408, R427). -/
def unitStep : Instr → Bool
  | .routeStepDone _ | .tokenPacketReceive | .endPacketReceive | .homeHalfSort | .answerPacketReceive | .skeinReadDone
  | .collectDone _ | .musterArriveLocal _ | .musterDeadline _ | .collectDeadline _
  | .tandemRecordReceive | .wpCardAck | .coilGrant | .saveStart _ | .saveDone _ | .restoreDone _ | .autoRestore _ | .unitYield
  | .homedDeadline | .combineStart _ => true
  | _ => false

/-- Steps that store nothing to the memory behind the ports. -/
def storesNothing : Instr → Bool
  | .porstNReset | .porstNRelease | .lossOfPower | .cpRecordIntake _ | .outwardRecord | .calSlotDataWrite _ _
  | .calSlotCommit _ _ | .xltInvalGo _ | .ctxCreate | .ctxDestroy | .talSelWrite _ | .talStageDataWrite _ | .talGo
  | .obsMarkWrite _ | .trigger | .arm | .mrlPcEnable _ | .pcSample | .paceClr | .asyGo _ | .asy1500Shift _ | .stcrefCycle
  | .stcSyncExchange _ | .tempReport _ _ | .ceilChange _ _ | .drawPublish | .secondEnd | .wearMeasure _ _ _ _
  | .assaySliceEnd _ | .sliceBudgetExpiry _ | .assayEnd | .tallyCommitDone | .saveStart _ | .autoRestore _
  | .watchdogLimit => true
  | _ => false

/-! ### What is stored -/

/-- A stream stores to no byte outside the lines named. -/
def storesOnly {α : Type} (m : Io α) (lines : Body → List Nat) : Prop :=
  ∀ (b : Body) (a : Nat), a / 256 ∉ lines b → memByte (Io.on m b).2.mem a = memByte b.mem a

/-- The lines of a unit of output: none where its translation stops. -/
def linesOf (c : Nat) (items : List (Nat × Hank)) (b : Body) : List Nat :=
  match (Io.on (storeLines c items) b).1 with
  | .ok ls => ls
  | .error _ => []

/-- The line of an accumulation: none where its translation stops, no identifier is free or the port takes no request. -/
def raccLines (p : Piece) (items : List (Nat × Hank)) (b : Body) : List Nat :=
  match Io.on (translate p.ctx (items.headD (0, 0)).1 .acc) b with
  | (.ok l, b') => if (freeId b' (b'.partOf p.ctx) l).isSome && portReady b' l then [l] else []
  | _ => []

/-- The lines that a copy's next destination group goes to, after its reads. -/
def copyLines (c : Nat) (x : CopyWork) (all : List Int) (b : Body) : List Nat :=
  match Io.on (copyForm c x all) b with
  | (.ok u, b') => linesOf c (itemsAt u.addr u.hanks) b'
  | _ => []

/-! ### Invariants -/

/-- The fabric address: without a lock it reads 0, and a flag or a lock follows a token (R363, R364). -/
def addrOk (a : FabAddr) : Bool := (a.locked || a.addr == 0) && (a.bco.isSome || (!a.locked && !a.bad && !a.repeat_))

/-- A commit in progress keeps to the forms of its setting: a grade mask only clears bits, and the life-cycle goes on
(R385, R386). -/
def commitOk (t : Tally) : Bool :=
  match t.busy with
  | none => true
  | some (k, ws) => k ≤ 3 && (k != 1 || gradeOk (t.value 1) ws)
      && (k != 3 || (t.life < (ws.getD 0 0).toNat && (ws.getD 0 0).toNat ≤ 3))

/-- The tally store: no setting has taken more commits than its budget, and the commit in progress is well formed (R381,
Table 15.6). -/
def tallyOk (t : Tally) : Bool := (List.range 4).all (fun k => t.used k ≤ talBudget k) && commitOk t

/-- The invariant of the state that no command of the chip's users can take back. -/
def storeInv (s : State) : Bool := addrOk s.addr && tallyOk s.tal

end Sys2Proof.Machine
end

