-- ==== Sys2Proof/Certificates/Slice0/Obligations.lean ====
section
/-! DEFINITION. The statements for the provers. A statement whose docstring names a log entry rests there on a choice of the
model; the others follow the rules of spec/ that they name. -/

open Sys2Proof Sys2Proof.Machine

/-! ### The queue and the whole block -/

/-- The command in front of the queue runs, with the rest of the queue left waiting. -/
def Obligations.StepRunsFront : Prop :=
  ∀ (c : Instr) (rest : List Instr) (s : State), s.pending = c :: rest → step s = exec c { s with pending := rest }

/-- On an empty queue the block takes one tick of its own time (the model's choice, log 16): the hall root's count stands,
any other chip's count goes on by one tick, and nothing else changes but the observation unit's account of the step. -/
def Obligations.IdleTick : Prop :=
  ∀ s : State, s.pending = [] → powered s → s.b.obs.stage.length < 15 →
    (s.b.stc.root = true → step s = ran s (fun _ b => b))
    ∧ (s.b.stc.root = false → s.b.stc.hold = 0 → s.b.stc.phase < 1023 →
        step s = ran s (fun _ b => { b with stc := { b.stc with now := b.stc.now + 1, phase := b.stc.phase + 1 } }))

/-- Every command in every state answers a next state. -/
def Obligations.EveryCommandCompletes : Prop := ∀ (c : Instr) (s : State), completes (exec c s)

/-- No command touches the queue of the commands that wait. -/
def Obligations.QueueUntouched : Prop := ∀ (c : Instr) (s t : State), exec c s = .next t → t.pending = s.pending

/-- While PORST_N is asserted nothing moves but the reset itself, its end, and a loss of power (R434, R435). -/
def Obligations.ResetHoldsEverything : Prop :=
  ∀ (c : Instr) (s : State), s.b.blk.porst = true → movesInReset c = false → exec c s = .next s

/-- Under the invariant below a locked fabric address stays locked and stays the same through every step but a reset and a
loss of power (R364). -/
def Obligations.LockedAddressStays : Prop :=
  ∀ s t : State, storeInv s = true → step s = .next t → (∀ c, s.pending.head? = some c → dropsAddress c = false) → s.addr.locked = true →
    t.addr.locked = true ∧ t.addr.addr = s.addr.addr

/-- No step takes a record of the tally store away or changes it: each setting's records only grow at their end. -/
def Obligations.RecordsOnlyAppend : Prop :=
  ∀ s t : State, step s = .next t → ∀ k : Nat, k < 4 → s.tal.recs k <+: t.tal.recs k

/-- Every step keeps the invariant of the fabric address and the tally store: an unlocked address reads 0, no setting has
more commits than its budget, and a commit in progress keeps to the forms of R385 and R386. -/
def Obligations.StoreInvStep : Prop := ∀ s t : State, storeInv s = true → step s = .next t → storeInv t = true

/-- That invariant holds right after reset. -/
def Obligations.StoreInvReset : Prop := storeInv State.reset = true

/-- Under that invariant no step takes the life-cycle back, and none sets a bit of the grade mask that was cleared (R385,
R386). -/
def Obligations.LifeAndGradeForward : Prop :=
  ∀ s t : State, storeInv s = true → step s = .next t →
    s.tal.life ≤ t.tal.life ∧ gradeOk (s.tal.value 1) (t.tal.value 1) = true

/-- Only the commands named change the fabric address and the flags beside it. -/
def Obligations.AddressFrame : Prop :=
  ∀ (c : Instr) (s t : State), exec c s = .next t → touchesAddress c = false → t.addr = s.addr

/-- Only the commands named change the tally store and its registers. -/
def Obligations.TallyFrame : Prop :=
  ∀ (c : Instr) (s t : State), exec c s = .next t → touchesTally c = false → t.tal = s.tal

/-- While a DUMP or a throttle hold has stopped the block (R408, R427) the steps of units named do nothing, and what arrives at
WP, TP and the memory ports stays in their bridges. -/
def Obligations.StoppedUnitsStand : Prop :=
  ∀ (c : Instr) (s : State), powered s → frozen s.b = true →
    (unitStep c = true → exec c s = ran s (fun _ b => b))
    ∧ (∀ h, exec (.wpCompletion h) s = ran s (fun _ b => { b with mrl := { b.mrl with bridge := b.mrl.bridge ++ [h] } }))
    ∧ (∀ h, s.b.thm.tpHold = false → exec (.tileHeaderArrive h) s
      = ran s (fun _ b => { b with thm := { b.thm with bridge := b.thm.bridge ++ [.header h] } }))
    ∧ (∀ hs, s.b.thm.tpHold = false → exec (.tileReceive hs) s
      = ran s (fun _ b => { b with thm := { b.thm with bridge := b.thm.bridge ++ [.payload hs] } }))
    ∧ (∀ line i st d, exec (.memoryResponse line i st d) s = ran s (fun _ b => { b with xlt := { b.xlt with
        frozenRs := b.xlt.frozenRs ++ [{ line := line.toNat, id := i.toNat, status := st.toNat, data := d }] } }))

/-- Every byte of the memory behind the ports reads as before after the commands named, which store nothing. That SAVE_START is among
them, the area being written as a whole at SAVE_DONE, is log 70; that these steps stage trace records and write no line of the
reservoir is log 65: both are the model's choice. -/
def Obligations.MemoryFrame : Prop :=
  ∀ (c : Instr) (s t : State), exec c s = .next t → storesNothing c = true →
    ∀ a : Nat, memByte t.b.mem a = memByte s.b.mem a

/-! ### Reset, power, the bight chain and the start -/

/-- PORST_N_RESET, LOSS_OF_POWER and PORST_N_RELEASE. After the first two everything but the memory behind the ports, the
pins that others drive, the commands that wait and the records of the tally store is at its reset value; the records are those
before, with one that a commit in progress leaves behind (under the tally store's invariant, O8). The third takes the block out of reset and changes nothing else.
Which of these a reset keeps is log 25. -/
def Obligations.ResetRows : Prop :=
  ∀ s : State,
    exec .porstNReset s = .next
      { pending := s.pending, addr := {},
        tal := { recs0 := (talCut s.tal).recs0, recs1 := (talCut s.tal).recs1, recs2 := (talCut s.tal).recs2,
                 recs3 := (talCut s.tal).recs3 },
        b := { mem := s.b.mem, blk := { porst := true, dxEn := s.b.blk.dxEn },
               pwr := { ceilIn := s.b.pwr.ceilIn, ceilValid := s.b.pwr.ceilValid } } }
    ∧ exec .lossOfPower s = .next
      { pending := s.pending, addr := {},
        tal := { recs0 := (talCut s.tal).recs0, recs1 := (talCut s.tal).recs1, recs2 := (talCut s.tal).recs2,
                 recs3 := (talCut s.tal).recs3 },
        b := { mem := s.b.mem, blk := { porst := true, dxEn := false },
               pwr := { ceilIn := s.b.pwr.ceilIn, ceilValid := s.b.pwr.ceilValid } } }
    ∧ (tallyOk s.tal = true → ∀ k, k < 4 → (talCut s.tal).recs k = s.tal.recs k ++ (match s.tal.busy with
        | some (j, ws) => if j = k then [{ words := ws, good := false }] else []
        | none => []))
    ∧ (s.b.blk.porst = true →
      exec .porstNRelease s = .next { s with b := { s.b with blk := { s.b.blk with porst := false } } })
    ∧ (s.b.blk.porst = false → exec .porstNRelease s = .next s)

/-- A commit that a loss of power cuts short leaves a record whose CRC fails, which stays consumed, and the value committed
before it stays in force (R383). -/
def Obligations.CutCommitStaysConsumed : Prop :=
  ∀ (s : State) (k : Nat) (ws : List W32), s.tal.busy = some (k, ws) → k < 4 →
    ∃ t, exec .lossOfPower s = .next t ∧ t.tal.recs k = s.tal.recs k ++ [{ words := ws, good := false }]
      ∧ t.tal.used k = s.tal.used k ∧ t.tal.value k = s.tal.value k

/-- BIGHT_TOKEN (R363): the first token with good parity, ERR 0 and COUNT at most 511 locks the address
RACK × 512 + ⌊P/32⌋ × 32 + (⌊P/4⌋ mod 8) × 4 + (P mod 4) and is passed on with COUNT one higher; a first token that fails
sets BAD and is passed on with ERR 1; a later one sets REPEAT, is passed on as it is and changes no address. -/
def Obligations.BightTokens : Prop :=
  ∀ (k : BitVec 24) (s : State), powered s →
    (s.addr.bco = none → tokenGood k.toNat = true →
      ∃ t, exec (.bightToken k) s = .next t ∧ t.addr.locked = true
        ∧ t.addr.addr = BitVec.ofNat 17 (bits k.toNat 17 10 * 512 + bits k.toNat 9 0 / 32 * 32
            + bits k.toNat 9 0 / 4 % 8 * 4 + bits k.toNat 9 0 % 4)
        ∧ t.addr.bco = some (withParity (fld 9 0 (bits k.toNat 9 0 + 1) + fld 17 10 (bits k.toNat 17 10)))
        ∧ t.addr.bad = s.addr.bad ∧ t.addr.repeat_ = s.addr.repeat_)
    ∧ (s.addr.bco = none → tokenGood k.toNat = false →
      ∃ t, exec (.bightToken k) s = .next t
        ∧ t.addr = { s.addr with bad := true, bco := some (withParity (k.toNat ||| 2 ^ 18)) })
    ∧ (s.addr.bco.isSome = true →
      exec (.bightToken k) s = ranAll s (fun s => { s with addr := { s.addr with repeat_ := true, bco := some k } }))

/-- DX_EN_RISE_START (R436, R438, Table 18.2): the repair map and the grade mask committed come into force, no context, open
command, queued record or outward record is left, every partition is in START, a lay is pending, DX_READY is 1, no port is DOWN
(R223), a port that the grade mask disables is not UP (R14), the quarry's banks have been written 0 at a cold start (log 109), nothing
is granted or held in a bridge (log 23), and the start is warm when one has run since the reset. While a SHUTDOWN or a tally commit is
not over, the edge waits. -/
def Obligations.StartRuns : Prop :=
  ∀ s : State, powered s → s.b.blk.dxEn = false → s.b.blk.assay = none → s.b.blk.assayNext = false →
    (s.b.blk.shutting = false → s.b.blk.afterCommit = none → s.tal.busy = none →
      ∃ t, exec .dxEnRiseStart s = .next t ∧ t.addr = s.addr ∧ t.tal = s.tal ∧ t.b.blk.dxEn = true ∧ t.b.blk.dxReady = true
        ∧ t.b.blk.kind = s.b.blk.started ∧ t.b.blk.started = true ∧ t.b.blk.repair = s.tal.value 0
        ∧ t.b.blk.grade = s.tal.value 1 ∧ t.b.blk.life = BitVec.ofNat 2 s.tal.life ∧ t.b.lay.pending = true
        ∧ t.b.ctxs = List.replicate 64 {} ∧ t.b.opens = [] ∧ t.b.gens = [] ∧ t.b.coil.bufs = [] ∧ t.b.cp.queue = []
        ∧ t.b.cp.express = [] ∧ t.b.cp.out = [] ∧ t.b.cp.waitOut = [] ∧ (∀ p ∈ t.b.parts, p.mode = 0)
        ∧ (∀ p ∈ t.b.fab.ports, p.down = false)
        ∧ (∀ n, portEnabled t.b n = false → (t.b.port n).up = false) ∧ t.b.mem = s.b.mem
        ∧ t.b.coil.zeroed = (if s.b.blk.started then s.b.coil.zeroed else BitVec.allOnes 102)
        ∧ t.b.units = {} ∧ t.b.mrl.bridge = [] ∧ t.b.thm.bridge = [] ∧ t.b.xlt.frozenRs = [])
    ∧ (s.b.blk.shutting = true ∨ s.b.blk.afterCommit ≠ none ∨ s.tal.busy ≠ none →
      exec .dxEnRiseStart s
        = ran s (fun _ b => { b with blk := { b.blk with dxEn := true, startWaits := true } }))

/-- DX_EN_FALL (R443): DX_READY falls with DX_EN (log 24); where the block is already shut, shutting or not ready that is all, and
where it serves and no SHUTDOWN has run the fall acts as a SHUTDOWN without a record, and what a DUMP had frozen goes on (R408). A
start that waited waits no longer. -/
def Obligations.EnableFalls : Prop :=
  ∀ s : State, powered s → s.b.blk.dxEn = true →
    (s.b.blk.shut = true ∨ s.b.blk.shutting = true ∨ s.b.blk.dxReady = false → exec .dxEnFall s
        = ran s (fun _ b => { b with blk := { b.blk with dxEn := false, startWaits := false, dxReady := false } }))
    ∧ (s.b.blk.dxReady = true → s.b.blk.shut = false → s.b.blk.shutting = false →
      exec .dxEnFall s = ran s (fun own b =>
        let t := shutdownEnd (shutdownBegin own { b with blk := { b.blk with dxEn := false, startWaits := false } })
        afterHold own b { t with blk := { t.blk with dxReady := false } }))

/-- DX_EN_RISE_DURING_ASSAY (R452): the slice in progress counts as partial and is restored, no further slice starts, the assay ends
once the restore is over (R445), and the warm start follows when nothing holds it. -/
def Obligations.RiseDuringAssay : Prop :=
  ∀ (s : State) (fails : List Failure) (a : Assay), powered s → s.b.blk.dxEn = false → s.b.blk.assay = some a →
    let risen := fun (b : Body) => ({ b with blk := { b.blk with dxEn := true, startWaits := true } } : Body)
    let stopped := fun (b : Body) => ({ b with blk := { b.blk with
      assay := b.blk.assay.map (fun (a : Assay) => { a with todo := [] }) } } : Body)
    (∀ n, a.cur = some n → exec (.dxEnRiseDuringAssay fails) s = ranAll s (fun s =>
      startIfWaiting (endAssay { s with b := nextSlice (slicePartial (logFails n fails (stopped (risen s.b)))) })))
    ∧ (a.cur = none → exec (.dxEnRiseDuringAssay fails) s = ranAll s (fun s =>
      startIfWaiting (endAssay { s with b := stopped (risen s.b) })))
    ∧ ∀ t : State, t.b.blk.assay = some a → t.b.now < a.start → endAssay t = t

/-! ### The command port and the registers -/

/-- CP_RECORD_INTAKE (R344, R345, R349, R350, R437): transfers are taken one after the other while CPI_READY is 1, each a handshake
of the exempt logic (R420), and none before DX_READY. A record's first transfer says how many it has, its last bears LAST, and the
hanks stand in the transfers' bytes in order. A record taken whole that passes every check of intake takes the next arrival number and
joins the records that wait; one that fails a check is refused with the code of the first check that it fails. FIRST inside a record,
no FIRST at its start, or LAST on another transfer than BODY implies breaks framing: one event, FRAME_BAD with the header of the
first transfer if there is one, and every transfer up to the next FIRST is discarded without a further event. -/
def Obligations.IntakeTakesRecords : Prop :=
  (∀ (s : State) (xs : List Transfer), powered s →
    (s.b.blk.dxReady = true →
      exec (.cpRecordIntake xs) s = ran s (fun _ b => xs.foldl (fun b x => takeTransfer x (charge 7 13 1 b)) b))
    ∧ (s.b.blk.dxReady = false → exec (.cpRecordIntake xs) s = ran s (fun _ b => b))) ∧
  (∀ (r : CmdRec) (b : Body),
    (intakeCheck r b = .ok () → intake r b =
      (let r := { r with arr := b.cp.arr }
       if expressCode r.code then { b with cp := { b.cp with arr := b.cp.arr + 1, express := b.cp.express ++ [r] } }
       else { b with cp := { b.cp with arr := b.cp.arr + 1, queue := b.cp.queue ++ [r] } }))
    ∧ ∀ code, intakeCheck r b = .error code → intake r b = refuse r code b) ∧
  ∀ (b : Body) (x : Transfer) (ts : List (BitVec 256)) (priv : Bool),
    let broken := fun (b : Body) => ({ b with cp := { b.cp with
      partial_ := none, discard := true, frameBad := true, frameBadCnt := b.cp.frameBadCnt + 1 } } : Body)
    let after := fun (p : Option (List (BitVec 256) × Bool)) (b : Body) => ({ b with cp := { b.cp with partial_ := p } } : Body)
    (b.cp.partial_ = none → x.first = true →
      let b0 : Body := { b with cp := { b.cp with discard := false } }
      (x.last = true → transferCount x.data = 1 → takeTransfer x b = intake (recordOf [x.data] x.priv) (after none b0))
      ∧ (x.last = false → transferCount x.data ≠ 1 → takeTransfer x b = after (some ([x.data], x.priv)) b0)
      ∧ ((x.last = true ∧ transferCount x.data ≠ 1 ∨ x.last = false ∧ transferCount x.data = 1) →
        takeTransfer x b = refuse (recordOf [x.data] false) Code.frameBad (broken b0)))
    ∧ (b.cp.partial_ = none → x.first = false →
      (b.cp.discard = true → takeTransfer x b = b) ∧ (b.cp.discard = false → takeTransfer x b = broken b))
    ∧ (b.cp.partial_ = some (ts, priv) → ts ≠ [] → x.first = true →
      takeTransfer x b = refuse (recordOf (ts.take 1) false) Code.frameBad (broken b))
    ∧ (b.cp.partial_ = some (ts, priv) → ts ≠ [] → x.first = false →
      let n := transferCount (ts.headD 0)
      (x.last = true → ts.length + 1 = n → takeTransfer x b = intake (recordOf (ts ++ [x.data]) priv) (after none b))
      ∧ (x.last = false → ts.length + 1 ≠ n → takeTransfer x b = after (some (ts ++ [x.data], priv)) b)
      ∧ ((x.last = true ∧ ts.length + 1 ≠ n ∨ x.last = false ∧ ts.length + 1 = n) →
        takeTransfer x b = refuse (recordOf (ts.take 1) false) Code.frameBad (broken b)))

/-- OUTWARD_RECORD (R353, R356): the oldest outward record leaves whole with the next OSEQ, modulo 2^32; a reply never
carries LOST, and a notice carries it when a notice was dropped before it (R357). Its words stand in I32 hanks, byte j of hank h in
byte 17h + j of the transfers (R344). -/
def Obligations.OutwardRecordLeaves : Prop :=
  ∀ (s : State) (r : OutRec) (rest : List OutRec), powered s → s.b.cp.out = r :: rest → s.b.cp.waitOut = [] →
    exec .outwardRecord s = ran s (fun _ b => act 7 13 0 { b with cp := { b.cp with
      out := rest, oseq := b.cp.oseq + 1, lostFlag := b.cp.lostFlag && !(r.notice && b.cp.lostFlag),
      cpo := some (sentRec (outWords b.cp.oseq.toNat (r.notice && b.cp.lostFlag) r)) } })
    ∧ ∀ ws : List Nat, (sentRec ws).words = ws ∧ (sentRec ws).hanks = i32Hanks ws
      ∧ (sentRec ws).transfers.length = cdiv (17 * (i32Hanks ws).length) 32
      ∧ ∀ h j, h < (i32Hanks ws).length → j < 17 →
        bits ((((sentRec ws).transfers.getD ((17 * h + j) / 32) {}).data).toNat) (8 * ((17 * h + j) % 32) + 7) (8 * ((17 * h + j) % 32))
          = bits ((i32Hanks ws).getD h 0).toNat (8 * j + 7) (8 * j)


/-- A head record that fails a check of acceptance is refused with the code of the first check that it fails, and leaves the
queue (R349, R350); one that has to wait stays, and nothing happens (R352): for every command that a queue brings, and for those that
join none. What other streams then do is the model's order (log 41). A refused record (R354): BODY 0, KIND its CODE, its SEQ, the
refusal's code as STATUS, and the header's CONTEXT with CTX_VALID 0 exactly when GLOBAL is 1. -/
def Obligations.HeadsRefusedOrWait : Prop :=
  (∀ (r : CmdRec) (code : Nat) (b : Body), b.cp.waitOut = [] → replyHeld b + 1 ≤ replyRoom →
    (refuse r code b).cp.out = b.cp.out ++ [{
      kind := r.code, ctx := if r.isGlobal then none else some r.ctx, shown := r.ctx, seq := r.seq, status := code }]
    ∧ (refuse r code b).mem = b.mem ∧ (refuse r code b).opens = b.opens) ∧
  (∀ (s : State) (i : Instr) (q k : Nat) (r : CmdRec), powered s → headRow i = some (q, k) → headRec s.b q = some r → r.code = k →
    (∀ c, i = .routeStep c ∨ i = .combine c ∨ i = .copy c → heldReady s.b c.toNat k = none) →
    (headWaits s.b r = true ∨ holdStops s.b k = true → exec i s = ran s (fun own b => rowEnd i own b))
    ∧ (∀ code, headWaits s.b r = false → holdStops s.b k = false → acceptCheck s.addr.own r s.b = .error code →
      exec i s = ran s (fun own b => rowEnd i own (refuseRec r code b)))) ∧
  ∀ (s : State) (i : Instr) (k : Nat) (r : CmdRec), powered s → expressRow i = some k →
    s.b.cp.express.find? (fun x => x.code == k) = some r → holdStops s.b k = false → ∀ code,
    acceptCheck s.addr.own r s.b = .error code → exec i s = ran s (fun own b => rowEnd i own (refuseRec r code b))

/-- LOAD_LAY, APPLY_SPLICE, COLLECT, MUSTER, SAVE_CONTEXT and SHUTDOWN: the head of the command's queue, once it waits for
nothing and passes the common checks, meets the checks and the effect of its own chapter. -/
def Obligations.HeadCommandsRun : Prop :=
  ∀ (s : State) (c : BitVec 6) (r : CmdRec),
    (HeadRuns s 64 Cmd.loadLay r → exec .loadLay s = ran s (fun _ b => loadLayOp s.tal r b))
    ∧ (HeadRuns s 64 Cmd.applySplice r → exec .applySplice s = ran s (fun _ b => applySpliceOp s.tal r b))
    ∧ (HeadRuns s c.toNat Cmd.collect r → exec (.collect c) s = ran s (fun own b => collectOp own r b))
    ∧ (HeadRuns s c.toNat Cmd.muster r → exec (.muster c) s = ran s (fun own b => musterOp own r b))
    ∧ (HeadRuns s c.toNat Cmd.saveContext r → exec (.saveContext c) s = ran s (fun _ b => saveOp r b))
    ∧ (HeadRuns s 64 Cmd.shutdown r →
      exec .shutdown s = ran s (fun own b => afterHold own b (shutdownEnd (shutdownOp own r b))))

/-- ROUTE_STEP, COMBINE and COPY: a held command that may run starts; otherwise the head of the queue meets the checks of
its chapter. Everything that the free units, buffers and ports let go on then goes on in the same step (R15, R16, R306, R350;
log 41). -/
def Obligations.ContextCommandsRun : Prop :=
  ∀ (s : State) (c : BitVec 6), powered s →
    (∀ o, heldReady s.b c.toNat Cmd.routeStep = some o →
      exec (.routeStep c) s = ran s (fun own b => driveAll own (startHeld o.oid b)))
    ∧ (∀ o, heldReady s.b c.toNat Cmd.combine = some o →
      exec (.combine c) s = ran s (fun own b => driveAll own (startHeld o.oid b)))
    ∧ (∀ o, heldReady s.b c.toNat Cmd.copy = some o →
      exec (.copy c) s = ran s (fun own b => driveAll own (startHeld o.oid b)))
    ∧ (∀ r, HeadRuns s c.toNat Cmd.routeStep r → heldReady s.b c.toNat Cmd.routeStep = none →
      exec (.routeStep c) s = ran s (fun own b => driveAll own (routeOp own r b)))
    ∧ (∀ r, HeadRuns s c.toNat Cmd.combine r → heldReady s.b c.toNat Cmd.combine = none →
      exec (.combine c) s = ran s (fun own b => driveAll own (combineOp own r b)))
    ∧ (∀ r, HeadRuns s c.toNat Cmd.copy r → heldReady s.b c.toNat Cmd.copy = none →
      exec (.copy c) s = ran s (fun own b => driveAll own (copyOp own r b)))
    ∧ (∀ (oid : Nat) (b : Body), ((routeOf b oid).bind RouteWork.gen = none → startHeld oid b = unhold oid b)
      ∧ ∀ u, (routeOf b oid).bind RouteWork.gen = some u →
        startHeld oid b = (unhold oid b).modGen u (fun g => { g with home := { g.home with opened := true } }))

/-- DISPATCH, CANCEL_BATCH, RESUME and DUMP join no queue: the oldest of its code is accepted by the command's step (R350,
R406). A RESUME of a context in RUN completes at once with NOT_FAULTED, which the tandem record gives OUTCOME 0 (R277, R330). What
the command lets go on goes on in the same step (log 41). -/
def Obligations.ExpressCommandsRun : Prop :=
  ∀ (s : State) (r : CmdRec),
    (ExpressRuns s Cmd.dispatch r → exec .dispatch s = ran s (fun own b => driveAll own (dispatchOp own r b)))
    ∧ (ExpressRuns s Cmd.cancelBatch r → exec .cancelBatch s = ran s (fun own b => driveAll own (cancelOp own r b)))
    ∧ (ExpressRuns s Cmd.resume r → exec .resume s = ran s (fun own b => driveAll own (resumeOp own r b)))
    ∧ (ExpressRuns s Cmd.resume r → (s.b.ctx r.ctx).st = .run →
      exec .resume s = ran s (fun own b => driveAll own (acceptDoneAs own r Code.notFaulted 0 [0, 0, 0, 0] b)))
    ∧ (powered s → dumpReady s.addr.own s.b = some r → exec .dump s = ranAll s (fun s => dumpOp r s))

/-- MGP_ACCESS (R359, R360): a read answers the register's value on MG_RDATA, a write has the effect of a write of the
register, both with MG_ERR 0; while an assay slice holds the unit, MG_ERR is 1, a read returns 0, and nothing else
changes but the energy account: an access is a handshake of the exempt logic (R420, R427). -/
def Obligations.MgpAccess : Prop :=
  ∀ (s : State) (o : BitVec 22) (d : W32),
    (RegFree s (wordOff o) → exec (.mgpAccess true o d) s = ranAll s (fun s =>
      { (regWrite none (wordOff o) d s).1 with
        b := charge 7 13 1 { (regWrite none (wordOff o) d s).1.b with
          cp := { (regWrite none (wordOff o) d s).1.b.cp with mgErr := false } } }))
    ∧ (RegFree s (wordOff o) → ∃ t, exec (.mgpAccess false o d) s = .next t
      ∧ t.b.cp.mgRdata = BitVec.ofNat 32 (regRead mgpPath s.b.obs.ctxSel.toNat (wordOff o) s).1 ∧ t.b.cp.mgErr = false
      ∧ t.addr = s.addr ∧ t.tal = s.tal ∧ t.b.mem = s.b.mem)
    ∧ (∀ w, powered s → held s.b (wordOff o) = true → exec (.mgpAccess w o d) s
        = ran s (fun _ b => charge 7 13 1 { b with cp := { b.cp with mgRdata := 0, mgErr := true } }))

/-- REG_READ and REG_WRITE (R352): accepted at the head of their queue, a read replies with the register's value at that
moment and a write replies after the write's effect. REGISTER_WRITE is the write of a register whichever path it came on;
nothing happens while a slice holds the unit (R445). REG_READ and REG_WRITE are handshakes of class 6, MGP_ACCESS of class 7 (R420;
whose energy REGISTER_WRITE leaves out is log 88). From offset 0x24_0000 on a read returns 0 and a write is ignored (R12). -/
def Obligations.RegisterCommandsRun : Prop :=
  (∀ (s : State) (o : BitVec 22) (d : W32), powered s → 0x240000 ≤ o.toNat →
    exec (.registerWrite o d) s = ran s (fun _ b => b)
    ∧ exec (.mgpAccess false o d) s
      = ran s (fun _ b => charge 7 13 1 { b with cp := { b.cp with mgRdata := 0, mgErr := false } })
    ∧ exec (.mgpAccess true o d) s = ran s (fun _ b => charge 7 13 1 { b with cp := { b.cp with mgErr := false } })) ∧
  ∀ (s : State) (q : BitVec 7) (r : CmdRec) (o : BitVec 22) (d : W32), powered s →
    (held s.b r.addr = false → acceptable s.addr.own q.toNat Cmd.regRead s.b = some r → exec (.regRead q) s = ranAll s (fun s =>
      { s with b := acceptDone s.addr.own r 0 [(regRead r.queue (obsCtxOf s.b r) r.addr s).1, 0, 0, 0]
                      (charge 6 13 1 (regRead r.queue (obsCtxOf s.b r) r.addr s).2) }))
    ∧ (held s.b r.addr = false → acceptable s.addr.own q.toNat Cmd.regWrite s.b = some r → exec (.regWrite q) s = ranAll s (fun s =>
      { (regWrite r.ctxOpt r.addr (BitVec.ofNat 32 (r.b 0)) s).1 with
        b := acceptDone s.addr.own r (regWrite r.ctxOpt r.addr (BitVec.ofNat 32 (r.b 0)) s).2 []
              (charge 6 13 1 (regWrite r.ctxOpt r.addr (BitVec.ofNat 32 (r.b 0)) s).1.b) }))
    ∧ (held s.b (wordOff o) = false →
      exec (.registerWrite o d) s = ranAll s (fun s => (regWrite none (wordOff o) d s).1))
    ∧ (held s.b (wordOff o) = true → exec (.registerWrite o d) s = ran s (fun _ b => b))

/-- The steps that are named after the write of one bit or register are the writes of those registers: the model's choice, log 88. -/
def Obligations.RegisterRowsAreWrites : Prop :=
  ∀ (s : State) (d : W32),
    exec (.calSlotDataWrite 0 d) s = exec (.registerWrite 0x06001C d) s
    ∧ exec (.calSlotDataWrite 1 d) s = exec (.registerWrite 0x06002C d) s
    ∧ exec (.calSlotCommit 0 d) s = exec (.registerWrite 0x060010 (d ||| 0x10000)) s
    ∧ exec (.calSlotCommit 1 d) s = exec (.registerWrite 0x060020 (d ||| 0x10000)) s
    ∧ exec (.xltInvalGo d) s = exec (.registerWrite 0x140014 (d ||| 0x100)) s
    ∧ exec .ctxCreate s = exec (.registerWrite 0x180008 1) s
    ∧ exec .ctxDestroy s = exec (.registerWrite 0x180008 2) s
    ∧ exec .dropRest s = exec (.registerWrite 0x0C0100 1) s
    ∧ exec (.obsMarkWrite d) s = exec (.registerWrite 0x1C041C d) s
    ∧ exec (.traceEnable d) s = exec (.registerWrite 0x1C0500 (d ||| 1)) s
    ∧ exec (.traceDisable d) s = exec (.registerWrite 0x1C0500 (d &&& 0xFFFFFFFE)) s
    ∧ exec (.mrlPcEnable d) s = exec (.registerWrite 0x090010 (d ||| 1)) s
    ∧ exec .paceClr s = exec (.registerWrite 0x200008 1) s
    ∧ exec (.asyGo d) s = exec (.registerWrite 0x200204 (d ||| 1)) s
    ∧ exec (.asy1500Shift d) s = exec (.registerWrite 0x200264 d) s

/-! ### Units with registers of their own -/

/-- CAL_SLOT_DATA_WRITE, CAL_SLOT_COMMIT, and the write of CAL_SLOTn_ADDR (R94, R95). Data goes to the shadow at WORD,
which advances, while WORD is at most 771 and no command is bound to the shadow; otherwise it is dropped and WRITE_LOST is
set. COMMIT takes the fields first, and then the shadow becomes current with SEGS latched and VERSION one higher, or the
slot shows why not. -/
def Obligations.CalSlots : Prop :=
  ∀ (s : State) (n : BitVec 1) (d : W32), RegFree s (0x060010 + 0x10 * n.toNat) →
    exec (.registerWrite (BitVec.ofNat 22 (0x060018 + 0x10 * n.toNat)) d) s
      = ran s (fun _ b => b.modSlot n.toNat (fun x => { x with word := d.setWidth 10 }))
    ∧ ((s.b.slot n.toNat).word.toNat ≤ 771 → shadowBusy s.b n.toNat = false → exec (.calSlotDataWrite n d) s
      = ran s (fun _ b => b.modSlot n.toNat (fun x =>
          { x.modShadow (fun y => { y with words := y.words.set x.word.toNat d }) with word := x.word + 1 })))
    ∧ (771 < (s.b.slot n.toNat).word.toNat ∨ shadowBusy s.b n.toNat = true → exec (.calSlotDataWrite n d) s
      = ran s (fun _ b => b.modSlot n.toNat (fun x => { x with writeLost := true })))
    ∧ exec (.calSlotCommit n d) s = ran s (fun _ b => calCommit n.toNat (b.modSlot n.toNat (fun x =>
        { x with part := d.setWidth 2, opened := d.getLsbD 2, segs := BitVec.ofNat 9 (bits d.toNat 12 4) })))
    ∧ ∀ b : Body,
      let segs := (b.slot n.toNat).segs.toNat
      let lo := sbWord ((b.slot n.toNat).buf (b.slot n.toNat).other) 0
      let inv := sbWord ((b.slot n.toNat).buf (b.slot n.toNat).other) 1
      let good := 1 ≤ segs ∧ segs ≤ 256 ∧ isFinite32 lo = true ∧ isFinite32 inv = true ∧ isZero32 inv = false
        ∧ bit inv 31 = false
      (shadowBusy b n.toNat = true → calCommit n.toNat b = b.modSlot n.toNat (fun x => { x with writeLost := true }))
      ∧ (shadowBusy b n.toNat = false → ¬good →
        calCommit n.toNat b = b.modSlot n.toNat (fun x => { x with descBad := true }))
      ∧ (shadowBusy b n.toNat = false → good →
        calCommit n.toNat b = b.modSlot n.toNat (fun x => { x.modShadow (fun y => { y with segs := x.segs.toNat }) with
          cur := x.other, curValid := true, version := x.version + 1 }))

/-- XLT_INVAL_GO (R266): the cached translations in the scope go and no others, and the outstanding accesses that used one
are waited for. -/
def Obligations.XltInvalidates : Prop :=
  ∀ (s : State) (d : W32), RegFree s 0x140014 → ∃ t, exec (.xltInvalGo d) s = .next t
    ∧ (∀ e, e ∈ t.b.xlt.cache ↔ e ∈ s.b.xlt.cache ∧ invalScope s.b d e.ctx e.vpn = false)
    ∧ (∀ p, p ∈ t.b.xlt.inval ↔ p ∈ s.b.xlt.inval
        ∨ ∃ r ∈ s.b.xlt.reqs, invalScope s.b d r.ctx r.vpn = true ∧ p = (r.line, r.id))
    ∧ t.addr = s.addr ∧ t.tal = s.tal
    ∧ t.b = { s.b with obs := t.b.obs, xlt := { s.b.xlt with cache := t.b.xlt.cache, inval := t.b.xlt.inval } }

/-- Translation (R261 to R265, R291). A context without a root, an entry with a reserved bit, a page without the permission, a
line that does not exist and a page outside the partition's window are hard faults on the hank's address; an entry that is not
there is a miss of its level; a table line is read in the partition's window only. A translation that was found is cached, at
most 4,096 of them (which one makes room is log 15), and is then found again without a walk. That a table line outside the window is
XLT_PART even where it does not exist is the model's choice, log 77. -/
def Obligations.Translations : Prop :=
  ∀ (b : Body) (c v : Nat) (a : Acc),
    let vpn := v / 15 / 8192
    let line := fun (e : XltEntry) => e.ppn * 8192 + v / 15 % 8192
    let cached := b.xlt.cache.find? (fun e => e.ctx == c && e.vpn == vpn)
    let ends := fun (b' : Body) (e : XltEntry) (t : Body) =>
      (accAllowed a e.rd e.wr e.acc = false → Io.on (translate c v a) b = (.error (.hard Code.xltPerm 1 v none []), b'))
      ∧ (accAllowed a e.rd e.wr e.acc = true → lineLimit b ≤ line e →
        Io.on (translate c v a) b = (.error (.hard Code.xltPhys 1 v none []), b'))
      ∧ (accAllowed a e.rd e.wr e.acc = true → line e < lineLimit b → inWindow (b.part (b.partOf c)) e.ppn = false →
        Io.on (translate c v a) b = (.error (.hard Code.xltPart 1 v none []), b'))
      ∧ (accAllowed a e.rd e.wr e.acc = true → line e < lineLimit b → inWindow (b.part (b.partOf c)) e.ppn = true →
        Io.on (translate c v a) b = (.ok (line e), t))
    ((b.ctx c).rootValid = false → Io.on (translate c v a) b = (.error (.hard Code.xltEntry 1 v none []), b))
    ∧ ((b.ctx c).rootValid = true →
      (∀ e, cached = some e → ends b e b)
      ∧ (∀ x b1, cached = none → Io.on (tableEntry c v ((b.ctx c).root.toNat * 512) (vpn / 2 ^ 14)) b = (.error x, b1) →
        Io.on (translate c v a) b = (.error x, b1))
      ∧ (∀ e1 b1, cached = none → Io.on (tableEntry c v ((b.ctx c).root.toNat * 512) (vpn / 2 ^ 14)) b = (.ok e1, b1) →
        (bit e1 31 = false → Io.on (translate c v a) b = (.error (.soft 0 a.code v), b1))
        ∧ (bit e1 31 = true → bits e1 30 24 ≠ 0 →
          Io.on (translate c v a) b = (.error (.hard Code.xltEntry 1 v none []), b1))
        ∧ (bit e1 31 = true → bits e1 30 24 = 0 →
          (∀ x b2, Io.on (tableEntry c v (bits e1 23 0 * 512) (vpn % 2 ^ 14)) b1 = (.error x, b2) →
            Io.on (translate c v a) b = (.error x, b2))
          ∧ ∀ e2 b2, Io.on (tableEntry c v (bits e1 23 0 * 512) (vpn % 2 ^ 14)) b1 = (.ok e2, b2) →
            (bit e2 24 = false → Io.on (translate c v a) b = (.error (.soft 1 a.code v), b2))
            ∧ (bit e2 24 = true → bits e2 23 20 ≠ 0 ∨ bits e2 31 28 ≠ 0 →
              Io.on (translate c v a) b = (.error (.hard Code.xltEntry 1 v none []), b2))
            ∧ (bit e2 24 = true → bits e2 23 20 = 0 → bits e2 31 28 = 0 →
              let e : XltEntry :=
                { ctx := c, vpn := vpn, ppn := bits e2 19 0, rd := bit e2 25, wr := bit e2 26, acc := bit e2 27 }
              ends b2 e { b2 with xlt := { b2.xlt with cache := cacheAdd b2.xlt.cache e } }))))
    ∧ (∀ base i : Nat,
      (inWindow (b.part (b.partOf c)) ((base + i / 60) / 8192) = false →
        Io.on (tableEntry c v base i) b = (.error (.hard Code.xltPart 1 v none []), b))
      ∧ (inWindow (b.part (b.partOf c)) ((base + i / 60) / 8192) = true → lineLimit b ≤ base + i / 60 →
        Io.on (tableEntry c v base i) b = (.error (.hard Code.xltPhys 1 v none []), b))
      ∧ (inWindow (b.part (b.partOf c)) ((base + i / 60) / 8192) = true → base + i / 60 < lineLimit b →
        ∀ hs b', Io.on (readLine (some c) (base + i / 60)) b = (.ok hs, b') →
          Io.on (tableEntry c v base i) b = (.ok (hW (hs.getD (i % 60 / 4) 0) (i % 4)), b')))
    ∧ (∀ (l : List XltEntry) (e : XltEntry), l.length ≤ 4096 →
      e ∈ cacheAdd l e ∧ (cacheAdd l e).length ≤ 4096 ∧ ∀ f ∈ cacheAdd l e, f = e ∨ f ∈ l)
    ∧ ∀ line b', Io.on (translate c v a) b = (.ok line, b') →
      Io.on (translate c v a) b' = (.ok line, b') ∧ line < lineLimit b
        ∧ inWindow (b.part (b.partOf c)) (line / 8192) = true ∧ b'.mem = b.mem

/-- CTX_CREATE and CTX_DESTROY (R287): where the request is accepted the context named by CTX_SEL enters RUN with its
counters 0 and its ledger empty, or is absent and no victim of an eviction any more, so that another may be chosen (R303); otherwise
CTRL_BAD is set and nothing else changes. -/
def Obligations.ContextsCreatedAndDestroyed : Prop :=
  ∀ s : State, RegFree s 0x180008 →
    (createOk s.b s.b.cr.sel.toNat = true →
      exec .ctxCreate s = ran s (fun _ b => b.modCtx b.cr.sel.toNat (fun x =>
        { x with st := .run, stepCtr := 0, cardCtr := 0, ledger := [], tseq := 0, cmdRec := none, saveRec := none,
                 savePending := false, evictPending := false, auto := false, dropped := false,
                 ctr := List.replicate 18 0, ctrOld := List.replicate 18 0, rcvStop := false, save := none, lout := 0,
                 lin := 0 })))
    ∧ (createOk s.b s.b.cr.sel.toNat = false →
      exec .ctxCreate s = ran s (fun _ b => { b with cr := { b.cr with ctrlBad := true } }))
    ∧ (destroyOk s.b s.b.cr.sel.toNat = true →
      exec .ctxDestroy s = ran s (fun _ b => chooseVictim (endEviction b.cr.sel.toNat
        (b.modCtx b.cr.sel.toNat (fun x => { x with st := .absent, evictPending := false })))))
    ∧ (∀ (b : Body) (c : Nat), (∀ d, ((chooseVictim b).ctx d).st = (b.ctx d).st) ∧ (chooseVictim b).mem = b.mem
      ∧ ∀ p ∈ (endEviction c b).parts, p.evicting ≠ some c)
    ∧ (destroyOk s.b s.b.cr.sel.toNat = false →
      exec .ctxDestroy s = ran s (fun _ b => { b with cr := { b.cr with ctrlBad := true } }))

/-- THM_GROUP_OPEN, THM_GROUP_CLOSE and ABORT (R224, R231). The fields of the write come first (log 26); with pieces or MUSTERs of the
group outstanding QUOTA and PARTITION stay, and OPEN 1 only sets OPEN_BAD (log 31): both are the model's choice. A member table that
lies outside the memory or whose read fails sets OPEN_BAD. Otherwise OPEN 1 opens the group with its members'
tree and its sequence counter 0, where the member table and the quotas allow it, OPEN 0 closes it, and ABORT ends what is not
complete; ABORT of a closed group changes nothing. -/
def Obligations.GroupControl : Prop :=
  ∀ (s : State) (n : BitVec 4) (d : W32), RegFree s (0x101000 + 0x20 * n.toNat) →
    let fields := fun (b : Body) => b.modGroup n.toNat (fun g => { g with
      openBad := g.openBad && !d.getLsbD 1,
      quota := if groupBusy b n.toNat then g.quota else BitVec.ofNat 6 (bits d.toNat 7 2),
      part := if groupBusy b n.toNat then g.part else BitVec.ofNat 2 (bits d.toNat 9 8) })
    (d.getLsbD 11 = false → groupBusy s.b n.toNat = false →
      exec (.thmGroupOpen n d) s = ran s (fun own b => shutdownEnd (openGroup own n.toNat
        ((fields b).modGroup n.toNat (fun g => { g with opened := false, closing := false })))))
    ∧ (d.getLsbD 11 = false → groupBusy s.b n.toNat = true →
      exec (.thmGroupOpen n d) s = ran s (fun _ b => shutdownEnd
        ((fields b).modGroup n.toNat (fun g => { g with openBad := true }))))
    ∧ (d.getLsbD 11 = false →
      exec (.thmGroupClose n d) s = ran s (fun _ b => shutdownEnd (closeGroup n.toNat (fields b))))
    ∧ (groupLive (s.b.group n.toNat) = true →
      exec (.abort n d) s = ran s (fun own b => shutdownEnd (abortGroup own n.toNat (fields b))))
    ∧ (groupLive (s.b.group n.toNat) = false → exec (.abort n d) s = ran s (fun _ b => shutdownEnd b))
    ∧ ∀ (own : Nat) (b : Body),
      ((b.group n.toNat).quota.toNat = 0 ∨ 48 < otherQuotas b n.toNat + (b.group n.toNat).quota.toNat →
        openGroup own n.toNat b = b.modGroup n.toNat (fun g => { g with openBad := true }))
      ∧ (∀ (b' : Body) (x : Stop), (b.group n.toNat).quota.toNat ≠ 0 →
        otherQuotas b n.toNat + (b.group n.toNat).quota.toNat ≤ 48 →
        Io.on (readMembers (b.group n.toNat)) b = (.ok none, b') ∨ Io.on (readMembers (b.group n.toNat)) b = (.error x, b') →
        openGroup own n.toNat b = b'.modGroup n.toNat (fun g => { g with openBad := true }))
      ∧ ∀ (b' : Body) (ms : List Nat), (b.group n.toNat).quota.toNat ≠ 0 →
        otherQuotas b n.toNat + (b.group n.toNat).quota.toNat ≤ 48 →
        Io.on (readMembers (b.group n.toNat)) b = (.ok (some ms), b') →
        (ascending ms = true → ms.contains own = true → openGroup own n.toNat b = b'.modGroup n.toNat (fun g => { g with
          opened := true, closing := false, seq := 0, voids := [], early := [],
          parent := treeParent ms own, kids := treeKids ms own }))
        ∧ (ascending ms = false ∨ ms.contains own = false →
          openGroup own n.toNat b = b'.modGroup n.toNat (fun g => { g with openBad := true }))

/-- OBS_MARK_WRITE, TRIGGER, ARM, TRACE_ENABLE, TRACE_DISABLE and TRACE_IDLE_FLUSH (R397, R399, R400, R402). A configuration
that R399 rules out only sets CFG_BAD, and a flush leaves nothing staged. A trigger acts and clears ARMED while ARMED is 1, before the
staging buffers are granted too. That the fields are taken before ENABLE, and kept where it is ignored, is log 26; when lines leave is
log 65; what TRIG_LINE shows past the last line, and a trigger in STAGING, are log 96: the model's choices. -/
def Obligations.TraceControl : Prop :=
  ∀ (s : State) (d : W32), powered s →
    exec (.obsMarkWrite d) s = ran s (fun _ b => trace 19 none 9 d.toNat 0 b)
    ∧ exec .trigger s = ran s (fun _ b => { b with obs := obsTrigger b.now 0 0 b.obs })
    ∧ (s.b.obs.state = 2 → exec .arm s = ran s (fun _ b => { b with obs := { b.obs with armed := true } }))
    ∧ (s.b.obs.state ≠ 2 → exec .arm s = ran s (fun _ b => b))
    ∧ (s.b.obs.enable = false → d.getLsbD 10 = false → d.getLsbD 11 = false →
      exec (.traceEnable d) s = ran s (fun _ b => traceOn { b with obs := { b.obs with
        classes := BitVec.ofNat 5 (bits d.toNat 7 3), mode := BitVec.ofNat 2 (bits d.toNat 2 1),
        tracePart := BitVec.ofNat 2 (bits d.toNat 9 8) } }))
    ∧ (s.b.obs.enable = true → d.getLsbD 10 = false → d.getLsbD 11 = false →
      exec (.traceDisable d) s
        = ran s (fun _ b => traceOff { b with obs := { b.obs with classes := BitVec.ofNat 5 (bits d.toNat 7 3) } }))
    ∧ exec .traceIdleFlush s = ran s (fun _ b => flushTrace b)
    ∧ ∀ b : Body,
      (traceCfgBad b = true → traceOn b = { b with obs := { b.obs with cfgBad := true } })
      ∧ (traceOff b).obs.enable = false ∧ (traceOff b).obs.state = 0 ∧ (traceOff b).obs.bufs = []
      ∧ (b.obs.state = 1 ∨ b.obs.state = 2 ∨ b.obs.state = 3 → (flushTrace b).obs.stage = [])
      ∧ (b.obs.armed = true → ∀ source code, (obsTrigger b.now source code b.obs).armed = false)
      ∧ (b.obs.armed = true → b.obs.state = 1 ∨ b.obs.state = 2 → ∀ source code,
        (obsTrigger b.now source code b.obs).trigValid = true)

/-- MRL_PC_ENABLE and PC_SAMPLE (R395): a SHIFT outside 6 to 24 is ignored, EN becoming 1 clears the sample's valid bit, and
a sample is latched and traced for the list that holds Marlin. The program counter in it is a free value (log 9). -/
def Obligations.PcSampling : Prop :=
  ∀ (s : State) (d : W32), powered s →
    exec (.mrlPcEnable d) s = ran s (fun _ b => { b with mrl := { b.mrl with
      pcEn := true,
      pcShift := if 6 ≤ bits d.toNat 5 1 ∧ bits d.toNat 5 1 ≤ 24 then BitVec.ofNat 5 (bits d.toNat 5 1) else b.mrl.pcShift,
      pcSample := if b.mrl.pcEn then b.mrl.pcSample else b.mrl.pcSample &&& 0x7FFFFFFF } })
    ∧ (s.b.mrl.pcEn = false → exec .pcSample s = ran s (fun _ b => b))
    ∧ (s.b.mrl.pcEn = true → ∃ (pc : Nat) (t : State), exec .pcSample s = .next t
      ∧ pc < 2 ^ 19 ∧ t.b.mrl.pcSample = BitVec.ofNat 32
          (pc + fld 22 19 (stallOf s.b) + fld 28 23 ((s.b.mrl.held.map (listCtx s.b)).getD 0) + 2 ^ 31)
      ∧ t.addr = s.addr ∧ t.tal = s.tal
      ∧ t.b = { s.b with
          freeCtr := s.b.freeCtr + 1, mrl := { s.b.mrl with pcSample := t.b.mrl.pcSample }, obs := t.b.obs })

/-- TAL_SEL_WRITE, TAL_STAGE_DATA_WRITE, TAL_GO and TALLY_COMMIT_DONE (R381, R382): selection stages the current value,
staging stops at the setting's words, a GO that passes its checks begins a commit unless the value is the one committed, one
that fails sets REFUSED with the code, and the end of a commit appends its record. -/
def Obligations.TallyRegisters : Prop :=
  ∀ (s : State) (d : W32), powered s →
    exec (.talSelWrite d) s = ranAll s (fun s => { s with tal := { s.tal with
      sel := d.setWidth 2, stageAddr := 0,
      stage := (s.tal.value (d.setWidth 2 : BitVec 2).toNat ++ List.replicate 52 0).take 52 } })
    ∧ (s.tal.stageAddr.toNat < talWords s.tal.sel.toNat →
      exec (.talStageDataWrite d) s = ranAll s (fun s => { s with tal := { s.tal with
        stage := s.tal.stage.set s.tal.stageAddr.toNat d, stageAddr := s.tal.stageAddr + 1 } }))
    ∧ (talWords s.tal.sel.toNat ≤ s.tal.stageAddr.toNat → exec (.talStageDataWrite d) s = ranAll s (fun s => s))
    ∧ (talGoCheck s.tal s.b = .ok () → s.tal.value s.tal.sel.toNat ≠ s.tal.staged →
      exec .talGo s = ranAll s (fun s => { s with tal := { s.tal with busy := some (s.tal.sel.toNat, s.tal.staged) } }))
    ∧ (talGoCheck s.tal s.b = .ok () → s.tal.value s.tal.sel.toNat = s.tal.staged → exec .talGo s = ranAll s (fun s => s))
    ∧ (∀ code, talGoCheck s.tal s.b = .error code →
      exec .talGo s = ranAll s (fun s => { s with tal := { s.tal with refused := true, code := BitVec.ofNat 16 code } }))
    ∧ (∀ k ws, s.tal.busy = some (k, ws) → s.b.blk.afterCommit = none → s.b.blk.startWaits = false →
      exec .tallyCommitDone s = ranAll s (fun s => { s with tal := { s.tal.append k { words := ws, good := true } with
        busy := none } }))

/-- GO for the life-cycle setting (R386, R382), and the state in force: a value that is not later than the one committed is
refused with TAL_FORM, a step from FORGE without a key hash and a grade mask with TAL_PRECOND, any other commit begins; and
a start puts the state committed in force. -/
def Obligations.LifeCycleCommits : Prop :=
  ∀ (s : State) (v : W32), powered s → s.tal.sel = 3 → s.tal.staged = [v] → s.tal.busy = none → s.b.blk.life ≠ 3 →
    s.tal.used 3 < talBudget 3 →
    (v.toNat ≤ s.tal.life ∨ 3 < v.toNat → exec .talGo s
      = ranAll s (fun s => { s with tal := { s.tal with refused := true, code := BitVec.ofNat 16 Code.talForm } }))
    ∧ (s.tal.life < v.toNat → v.toNat ≤ 3 → s.tal.life = 0 → s.tal.committed 1 = false ∨ s.tal.committed 2 = false →
      exec .talGo s
        = ranAll s (fun s => { s with tal := { s.tal with refused := true, code := BitVec.ofNat 16 Code.talPrecond } }))
    ∧ (s.tal.life < v.toNat → v.toNat ≤ 3 → s.tal.life ≠ 0 ∨ (s.tal.committed 1 = true ∧ s.tal.committed 2 = true) →
      exec .talGo s = ranAll s (fun s => { s with tal := { s.tal with busy := some (3, [v]) } }))
    ∧ ∀ t : Tally, ∀ b : Body, (startOp t b).blk.life = BitVec.ofNat 2 t.life

/-- ASY_GO, ASY_1500_SHIFT, ASSAY_SLICE_END, SLICE_BUDGET_EXPIRY and ASSAY_END (R444 to R451, R455, R456). A throttle hold
stops the slices (R444). A test phase follows its save, and an assay ends once its last slice is restored (R445), whose ticks are free
values (log 93). The 32 bits that the wrapper shifts out are a free value (log 11); that the fields of a refused GO are stored is
log 26, and ASY_NEXT after a full assay log 22: the model's choices. -/
def Obligations.AssayRuns : Prop :=
  ∀ (s : State) (d : W32) (fails : List Failure), powered s →
    (asyGoCheck s.b = .ok () → exec (.asyGo d) s = ran s (fun _ b =>
      startAssay true (bits d.toNat 8 2)
        ((List.range 122).filter (fun n => bits d.toNat 8 2 ≤ n && n ≤ bits d.toNat 15 9))
        { b with blk := { b.blk with autoCommit := d.getLsbD 1, first := BitVec.ofNat 7 (bits d.toNat 8 2),
                                     last := BitVec.ofNat 7 (bits d.toNat 15 9) } }))
    ∧ (∀ code, asyGoCheck s.b = .error code → exec (.asyGo d) s = ran s (fun _ b =>
      { b with blk := { b.blk with autoCommit := d.getLsbD 1, first := BitVec.ofNat 7 (bits d.toNat 8 2),
                                   last := BitVec.ofNat 7 (bits d.toNat 15 9) } }))
    ∧ (wrapperOpen s.b = true → ∃ (out : W32) (t : State), exec (.asy1500Shift d) s = .next t
      ∧ t.addr = s.addr ∧ t.tal = s.tal
      ∧ t.b = { s.b with blk := { s.b.blk with data1500 := out }, freeCtr := s.b.freeCtr + 1, obs := t.b.obs })
    ∧ (wrapperOpen s.b = false → exec (.asy1500Shift d) s = ran s (fun _ b => b))
    ∧ (∀ n t, curSlice s.b = some (n, t) → s.b.pwr.holding = false →
      (s.b.now < t + (Config.saveTicks n).toNat → exec (.assaySliceEnd fails) s = ran s (fun _ b => b))
      ∧ (t + (Config.saveTicks n).toNat ≤ s.b.now → s.b.now - t < s.b.blk.budget.toNat →
        exec (.assaySliceEnd fails) s = ran s (fun _ b => nextSlice (sliceComplete n (logFails n fails b))))
      ∧ (t ≤ s.b.now → s.b.blk.budget.toNat ≤ s.b.now - t →
        exec (.sliceBudgetExpiry fails) s = ran s (fun _ b => nextSlice (slicePartial (logFails n fails b)))))
    ∧ (s.b.pwr.holding = true → exec (.assaySliceEnd fails) s = ran s (fun _ b => b)
      ∧ exec (.sliceBudgetExpiry fails) s = ran s (fun _ b => b))
    ∧ (∀ a, s.b.blk.assay = some a → a.cur = none → a.start ≤ s.b.now → s.tal.busy = none → s.b.blk.startWaits = false →
      s.b.blk.assayNext = false →
      ∃ t, exec .assayEnd s = .next t ∧ t.addr = s.addr ∧ t.b.blk.assay = none ∧ t.b.mem = s.b.mem
        ∧ t.b.blk.unrepaired = (chooseMap (s.tal.value 0) s.b).unrepaired
        ∧ t.b.blk.next = BitVec.ofNat 7 (nextAfter a) ∧ t.b.blk.partialLast = assayIncomplete a
        ∧ ((chooseMap (s.tal.value 0) s.b).words ≠ s.tal.value 0 → (a.byCommand = false ∨ s.b.blk.autoCommit = true) →
          s.tal.used 0 < talBudget 0 →
          t.tal = { s.tal with busy := some (0, (chooseMap (s.tal.value 0) s.b).words) } ∧ t.b.blk.noBudget = false)
        ∧ ((chooseMap (s.tal.value 0) s.b).words = s.tal.value 0 → t.tal = s.tal ∧ t.b.blk.noBudget = false))

/-! ### Power, temperature and aging -/

/-- RAIL_READING, TEMP_REPORT, PACE_WINDOW_END and PACE_CLR (R415 to R419). A reading first accounts for the static energy up to
its tick; what waited goes on when it ends a hold. RATE is COUNT × 10,000 / 65,536 to the nearest number, once for each window of
65,536 ticks; half way between two numbers it is a free value (log 32). That MIN and MAX follow RATE plainly from their reset value 0 is
the model's choice, log 72. -/
def Obligations.PowerReadings : Prop :=
  ∀ (s : State) (vzc vzs : BitVec 10) (tj : BitVec 8) (sensor : BitVec 4) (count : BitVec 32), powered s →
    exec (.railReading vzc vzs) s = ran s (fun own b => afterHold own b (railOp vzc vzs b))
    ∧ (∀ b : Body,
      let r := railOp vzc vzs b
      r.pwr.vzc = vzc ∧ r.pwr.vzs = vzs
      ∧ r.pwr.railLow = (b.pwr.railLow || decide (vzc.toNat < 650 ∨ vzs.toNat < 750))
      ∧ r.pwr.railHigh = (b.pwr.railHigh || decide (850 < vzc.toNat ∨ 900 < vzs.toNat))
      ∧ r.pwr.sramHold = (if vzs.toNat < 740 then true else if 750 ≤ vzs.toNat then false else b.pwr.sramHold)
      ∧ r.mem = b.mem ∧ r.ctxs.map Ctx.st = b.ctxs.map Ctx.st ∧ r.opens = b.opens)
    ∧ (105 ≤ s.b.pwr.tj.toNat ∨ tj.toNat < 105 → exec (.tempReport tj sensor) s
      = ran s (fun _ b => { accrue b with pwr := { (accrue b).pwr with tj := tj, sensor := sensor } }))
    ∧ (s.b.pwr.tj.toNat < 105 → 105 ≤ tj.toNat → exec (.tempReport tj sensor) s
      = ran s (fun _ b => raiseDraw 6 tj.toNat sensor.toNat
          { accrue b with pwr := { (accrue b).pwr with tj := tj, sensor := sensor, hot := true } }))
    ∧ (count.toNat * 10000 % 65536 ≠ 32768 → s.b.now / 65536 ≠ 0 → s.b.pwr.paceWin ≠ some (s.b.now / 65536) →
      exec (.paceWindowEnd count) s = ran s (fun _ b =>
        let r := BitVec.ofNat 16 ((count.toNat * 10000 + 32768) / 65536)
        { b with freeCtr := b.freeCtr + 1, pwr := { b.pwr with
            rate := r, min := if r < b.pwr.min then r else b.pwr.min, max := if b.pwr.max < r then r else b.pwr.max,
            paceWin := some (b.now / 65536) } }))
    ∧ (s.b.now / 65536 = 0 ∨ s.b.pwr.paceWin = some (s.b.now / 65536) →
      exec (.paceWindowEnd count) s = ran s (fun _ b => b))
    ∧ exec .paceClr s = ran s (fun _ b => { b with pwr := { b.pwr with min := b.pwr.rate, max := b.pwr.rate } })

/-- CEIL_CHANGE, THROTTLE_WINDOW and THROTTLE_HOLD_START (R426 to R431): one gain of C × 1.024 µs for each window of 1,024 ticks,
capped at two of them, C the least source as it stood before the window; a hold from the bucket at 0 to a window that leaves it
above 0, from which what waited goes on. What the window has drawn before its THROTTLE_WINDOW comes after its gain and cap (R8). The
energies that the bucket pays are sums of free values (log 10). When FLOOR and CEIL_LOST change is log 57, and the static draw that
FLOOR compares is log 72: the model's choices. -/
def Obligations.CeilingAndThrottle : Prop :=
  ∀ (s : State) (c : BitVec 12) (v : Bool), powered s →
    (s.b.pwr.ceilValid = false ∨ v = true → exec (.ceilChange c v) s = ran s (fun _ b => { b with
      pwr := changeCeil b.now (fun p => { p with ceilIn := c, ceilValid := v, ceilLost := !v }) b.pwr }))
    ∧ (s.b.pwr.ceilValid = true → exec (.ceilChange c false) s
      = ran s (fun _ b => raiseDraw 3 b.pwr.ceilFail.toNat b.pwr.ceilIn.toNat { b with
          pwr := changeCeil b.now (fun p => { p with ceilIn := c, ceilValid := false, ceilLost := true }) b.pwr }))
    ∧ exec .throttleWindow s = ran s (fun own b => afterHold own b (windowOp b))
    ∧ (∀ b : Body,
      let r := windowOp b
      let ceil := (effectiveCeil b).1
      let spent := if (accrue b).pwr.winAt = b.now / 1024 then (accrue b).pwr.winSpent else 0
      let bucket := min ((accrue b).pwr.bucket + spent + (ceil * 1024000 : Nat)) (2 * (ceil * 1024000 : Nat)) - spent
      (b.pwr.win = some (b.now / 1024) → r = b)
      ∧ (b.pwr.win ≠ some (b.now / 1024) →
        r.pwr.win = some (b.now / 1024) ∧ r.pwr.c = ceil ∧ r.pwr.source = (effectiveCeil b).2
        ∧ r.pwr.floor = decide (ceil * 1000 ≤ staticP b) ∧ r.pwr.binding = (b.pwr.binding && decide (bucket ≤ 0))
        ∧ (b.pwr.binding = false ∨ b.pwr.sramHold = true ∨ bucket ≤ 0 → r.pwr.bucket = bucket)
        ∧ r.mem = b.mem ∧ r.ctxs.map Ctx.st = b.ctxs.map Ctx.st ∧ r.opens = b.opens))
    ∧ (s.b.pwr.binding = false → (accrue s.b).pwr.bucket ≤ 0 → ∃ t, exec .throttleHoldStart s = .next t
      ∧ t.b.pwr.binding = true ∧ t.b.pwr.bucket = (accrue s.b).pwr.bucket
      ∧ t.addr = s.addr ∧ t.tal = s.tal ∧ t.b.mem = s.b.mem ∧ t.b.ctxs = s.b.ctxs)
    ∧ (s.b.pwr.binding = true ∨ 0 < (accrue s.b).pwr.bucket → exec .throttleHoldStart s = ran s (fun _ b => accrue b))

/-- DRAW_PUBLISH and SECOND_END (R422 to R425): one publication for each second, of 60 bins that none exceeds 118.0 W, with
the hints shifted once by one bin, and one account for each second that has ended, of the energy drawn in it. The coefficients of
the draws are free values (log 10). -/
def Obligations.DrawAndSeconds : Prop :=
  ∀ s : State, powered s →
    let hints := if s.b.pwr.hintAt = some (secondOf s.b) then s.b.pwr.hint else s.b.pwr.hint.drop 1 ++ [s.b.pwr.hintDefault.toNat]
    (s.b.pwr.published ≠ some (secondOf s.b) → ∃ t, exec .drawPublish s = .next t
      ∧ t.b.pwr.published = some (secondOf s.b) ∧ t.b.pwr.fcSeq = BitVec.ofNat 32 (secondOf s.b)
      ∧ t.b.pwr.strobes = s.b.pwr.strobes + 1 ∧ t.b.pwr.hint = hints
      ∧ (0 < secondOf s.b → t.b.pwr.ended = some (secondOf s.b - 1))
      ∧ t.b.pwr.fc.length = 60 ∧ (∀ i : Nat, i < 60 → t.b.pwr.fc.getD i 0 ≤ 1180)
      ∧ (∀ i : Nat, i < 60 → min 1180 (hints.getD i 0) ≤ t.b.pwr.fc.getD i 0)
      ∧ t.addr = s.addr ∧ t.tal = s.tal ∧ t.b.mem = s.b.mem ∧ t.b.ctxs = s.b.ctxs)
    ∧ (s.b.pwr.published = some (secondOf s.b) → exec .drawPublish s = ran s (fun _ b => b))
    ∧ (0 < secondOf s.b → s.b.pwr.ended ≠ some (secondOf s.b - 1) → ∃ t, exec .secondEnd s = .next t
      ∧ t.b.pwr.ended = some (secondOf s.b - 1)
      ∧ t.b.pwr.actLast = (accrue s.b).pwr.endEnergy / 10 ^ 12
      ∧ t.b.pwr.breached
        = (s.b.pwr.breached || decide (declOf s.b (secondOf s.b - 1) * 10 ^ 12 < (accrue s.b).pwr.endEnergy))
      ∧ t.addr = s.addr ∧ t.tal = s.tal ∧ t.b.mem = s.b.mem ∧ t.b.ctxs = s.b.ctxs)
    ∧ (secondOf s.b = 0 ∨ s.b.pwr.ended = some (secondOf s.b - 1) → exec .secondEnd s = ran s (fun _ b => b))

/-- WEAR_MEASURE (R453, R454): while the block runs, once for each monitor in an STC second, the monitor reads the value measured
and every other monitor reads as before; only a value that crosses WEAR_WARN upward raises a notice. -/
def Obligations.WearMeasured : Prop :=
  ∀ (s : State) (cls : BitVec 4) (arr : BitVec 2) (idx : BitVec 8) (w : W16), powered s →
    (idx.toNat ≤ logicalMax cls.toNat + spareLimit cls.toNat → cls.toNat ≤ 6 → (cls.toNat ≤ 1 ∨ arr = 0) →
      s.b.blk.started = true → s.b.blk.shut = false →
      (∀ m ∈ s.b.blk.wear, m.cls = cls.toNat → m.arr = arr.toNat → m.idx = idx.toNat → m.sec ≠ s.b.now / 10 ^ 9) →
      ∃ t, exec (.wearMeasure cls arr idx w) s = .next t
        ∧ (∀ a b c : Nat, wearOf t.b a b c
            = if a = cls.toNat ∧ b = arr.toNat ∧ c = idx.toNat then w.toNat else wearOf s.b a b c)
        ∧ t.addr = s.addr ∧ t.tal = s.tal
        ∧ t.b = { s.b with cp := t.b.cp, obs := t.b.obs, blk := { s.b.blk with wear := t.b.blk.wear } }
        ∧ (s.b.blk.wearWarn.toNat ≤ wearOf s.b cls.toNat arr.toNat idx.toNat ∨ w.toNat < s.b.blk.wearWarn.toNat →
          t.b.cp = s.b.cp))
    ∧ (wearDue cls.toNat arr.toNat idx.toNat s.b = false → exec (.wearMeasure cls arr idx w) s = ran s (fun _ b => b))

/-! ### Links, the shared time counter and tandem -/

/-- LINK_TRAINED, LINK_FLIT_RECEIVE, NAK_RECEIVE, CREDIT_RECEIVE and LINK_RETRY_TIMEOUT (R221, R222, R438). A link that comes UP
counts from 0 (log 110). A flit with the expected LSEQ and a good CRC is taken; any other one is discarded with one NAK until the
expected flit comes. What the switch then takes goes on in the same step (log 41). After each of them Hawser frees the staging buffers whose packets are acknowledged to the last flit (Table 8.8, R190, R223). -/
def Obligations.LinkPorts : Prop :=
  ∀ (s : State) (p : BitVec 6) (f : BitVec 640) (lack x : BitVec 10) (dr : BitVec 96), powered s →
    (portEnabled s.b p.toNat = true → (s.b.port p.toNat).up = false → (s.b.port p.toNat).down = false →
      exec (.linkTrained p) s = ran s (fun own b => driveAll own (retryUnrouted own (pump p.toNat (settleStaging
        (b.modPort p.toNat (fun y => { alignPort y with up := true, trained := true })))))))
    ∧ (∀ y : Port, (alignPort y).txSeq = 0 ∧ (alignPort y).rxSeq = 0 ∧ (alignPort y).acked = 0 ∧ (alignPort y).replay = []
      ∧ (alignPort y).sentCnt = (alignPort y).credit ∧ (alignPort y).level = y.level ∧ (alignPort y).retry = y.retry)
    ∧ (portLive s.b p.toNat = true → f.getLsbD 39 = false →
      (flitCrcOk f = true → hdrLseq (flitHdr f) = (s.b.port p.toNat).rxSeq →
        exec (.linkFlitReceive p f) s = ran s (fun own b => driveAll own (settleStaging (pump p.toNat (assemble own p.toNat f
          (b.modPort p.toNat (fun y =>
            { takeLack (hdrLack (flitHdr f)) y with rxSeq := (y.rxSeq + 1) % 1024, nakSent := false })))))))
      ∧ (flitCrcOk f = false ∨ hdrLseq (flitHdr f) ≠ (s.b.port p.toNat).rxSeq →
        ((s.b.port p.toNat).nakSent = true → exec (.linkFlitReceive p f) s = ran s driveAll)
        ∧ ((s.b.port p.toNat).nakSent = false → exec (.linkFlitReceive p f) s = ran s (fun own b => driveAll own
            (sendCtrl p.toNat (.nak (s.b.port p.toNat).rxSeq (s.b.port p.toNat).rxSeq)
              (b.modPort p.toNat (fun y => { y with nakSent := true })))))))
    ∧ (portLive s.b p.toNat = true →
      exec (.nakReceive p true lack x) s = ran s (fun own b => driveAll own (settleStaging (pumpOn p.toNat (afterDown own
        (resendOrDown own p.toNat x.toNat
          ((b.modPort p.toNat (fun y => { y with lastFlits := [] })).modPort p.toNat (takeLack lack.toNat)))))))
      ∧ exec (.creditReceive p true lack dr) s = ran s (fun own b => driveAll own (settleStaging (pump p.toNat
          (b.modPort p.toNat (fun y => { takeLack lack.toNat y with
            credit := (List.range 6).map (fun v => bits dr.toNat (16 * v + 15) (16 * v)) })))))
      ∧ ((s.b.port p.toNat).replay ≠ [] → exec (.linkRetryTimeout p) s = ran s (fun own b =>
          driveAll own (settleStaging (afterDown own (resendOrDown own p.toNat (b.port p.toNat).acked b)))))
      ∧ ((s.b.port p.toNat).replay = [] → exec (.linkRetryTimeout p) s = ran s driveAll))
    ∧ exec (.nakReceive p false lack x) s = ran s driveAll
    ∧ exec (.creditReceive p false lack dr) s = ran s driveAll
    ∧ (portLive s.b p.toNat = false → exec (.linkFlitReceive p f) s = ran s driveAll
      ∧ exec (.nakReceive p true lack x) s = ran s driveAll
      ∧ exec (.creditReceive p true lack dr) s = ran s driveAll
      ∧ exec (.linkRetryTimeout p) s = ran s driveAll)
    ∧ ∀ (b : Body) (y : Staging), y ∈ b.coil.staging →
      ((∀ q ∈ b.fab.unrouted, q.stg ≠ some y.id) → (∀ q ∈ b.fab.ports, (∀ k ∈ q.queue, k.stg ≠ some y.id)
          ∧ ∀ k ∈ q.replay, k.stg ≠ some y.id) → (∀ g ∈ b.gens, ∀ k ∈ g.sendQ ++ g.early, k.stg ≠ some y.id) →
        y ∉ (settleStaging b).coil.staging ∧ y.buf ∉ (settleStaging b).coil.bufs)
      ∧ ((∃ q ∈ b.fab.ports, ∃ k ∈ q.replay, k.stg = some y.id) → y ∈ (settleStaging b).coil.staging)

/-- STCREF_CYCLE, STC_SYNC_EXCHANGE and STC_SYNC_RECEIVE (R251, R252): a cycle of STCREF is 10 ticks on the hall root; a sync flit
goes out toward the parent and the children in the sync tree and bears this chip's count; only a sync of the parent moves the count;
the error
of a sync is this chip's count less its parent's stamp and half the round trip; a sync with an error of at most 64 ticks leaves the
count as it is and slews, the eighth in a row within 4 ticks sets LOCKED; one of more than 64 ticks clears LOCKED, and LOST_LOCK is
set when it does. What the exchange yields is the row's operand (log 90); how a chip knows its place in the tree is log 124, and the
sign of the error, the slew and the held count are log 47: the model's choices. -/
def Obligations.StcCounts : Prop :=
  ∀ (s : State) (p : BitVec 6) (x : SyncTimes), powered s →
    let e : Int := (s.b.stc.now - (x.parentNow + BitVec.ofNat 64 (x.roundTrip.toNat / 2))).toInt
    (s.b.stc.root = true →
      exec .stcrefCycle s = ran s (fun _ b => { b with stc := { b.stc with now := b.stc.now + 10 } }))
    ∧ (s.b.stc.root = false → exec .stcrefCycle s = ran s (fun _ b => b))
    ∧ (portLive s.b p.toNat = true → (syncPorts s.addr.own s.b).contains p.toNat = true →
      exec (.stcSyncExchange p) s = ran s (fun _ b => sendCtrl p.toNat (.sync (b.port p.toNat).rxSeq b.stc.now.toNat) b))
    ∧ (portLive s.b p.toNat = false ∨ (syncPorts s.addr.own s.b).contains p.toNat = false →
      exec (.stcSyncExchange p) s = ran s (fun _ b => b))
    ∧ (∀ a, syncParent s.addr.own s.b = some a →
      parentPorts s.addr.own s.b = candidates s.b s.addr.own a ∧ a ∈ syncChips s.addr.own s.b)
    ∧ (syncParent s.addr.own s.b = none → parentPorts s.addr.own s.b = [])
    ∧ (portLive s.b p.toNat = true → (parentPorts s.addr.own s.b).contains p.toNat = true → s.b.stc.root = false → e.natAbs ≤ 64 →
      exec (.stcSyncReceive p true x) s = ran s (fun _ b =>
        let good := if e.natAbs ≤ 4 then b.stc.good + 1 else 0
        { b with stc := { b.stc with
          err := BitVec.ofInt 16 e, good := good, slew := -e, hold := 0, locked := b.stc.locked || decide (8 ≤ good) } }))
    ∧ (portLive s.b p.toNat = true → (parentPorts s.addr.own s.b).contains p.toNat = true → s.b.stc.root = false → 64 < e.natAbs →
      ∃ t, exec (.stcSyncReceive p true x) s = .next t ∧ t.b.stc.locked = false ∧ t.b.stc.err = BitVec.ofInt 16 e
        ∧ t.b.stc.lostLock = (s.b.stc.lostLock || s.b.stc.locked) ∧ t.b.stc.good = 0
        ∧ t.addr = s.addr ∧ t.tal = s.tal ∧ t.b.mem = s.b.mem
        ∧ (e < 0 → t.b.stc.now = s.b.stc.now + BitVec.ofNat 64 e.natAbs)
        ∧ (0 < e → t.b.stc.now = s.b.stc.now ∧ t.b.stc.hold = e.natAbs - 64))
    ∧ (portLive s.b p.toNat = false ∨ s.b.stc.root = true ∨ (parentPorts s.addr.own s.b).contains p.toNat = false →
      exec (.stcSyncReceive p true x) s = ran s (fun _ b => b))
    ∧ exec (.stcSyncReceive p false x) s = ran s (fun _ b => b)

/-- TANDEM_RECORD_RECEIVE and TANDEM_WINDOW_EXPIRY (R331 to R333): a record meets this chip's own or is kept until that one
is made; two that differ are a hard fault of the context, latched with both digests; equal ones let a held reply go. One for a block
that is shut is discarded (R442), and so is one of a TORN context, which is the model's choice (log 48). Own records that have waited
longer than WINDOW are lost. -/
def Obligations.TandemRows : Prop :=
  ∀ (s : State) (p : Packet), powered s →
    (PacketWaits s (fun q => q.vc == 5) p → exec .tandemRecordReceive s
      = ran s (fun own b => tandemOp own p (consumePacket p b)))
    ∧ exec .tandemWindowExpiry s
      = ran s (fun own b => loseRecords own (fun e => decide (b.fab.window.toNat < b.now - e.since)) b)
    ∧ (∀ (own : Nat) (b : Body), (b.ctx (tandemOf p.hanks).ctx).st = .torn ∨ b.blk.shut = true → tandemOp own p b = b)
    ∧ ∀ (own : Nat) (b : Body), (b.ctx (tandemOf p.hanks).ctx).st ≠ .torn → b.blk.shut = false →
      (b.fab.compare.find? (fun e => e.own && e.r.ctx == (tandemOf p.hanks).ctx && e.r.tseq == (tandemOf p.hanks).tseq) = none →
        tandemOp own p b = { b with fab := { b.fab with
          compare := b.fab.compare ++ [{ own := false, r := tandemOf p.hanks, since := b.now }] } })
      ∧ (∀ e, b.fab.compare.find? (fun e => e.own && e.r.ctx == (tandemOf p.hanks).ctx
            && e.r.tseq == (tandemOf p.hanks).tseq) = some e →
        let met : Body := { b with fab := { b.fab with compare := b.fab.compare.erase e } }
        let open_ := e.oid.bind met.openOf
        (e.r = tandemOf p.hanks → open_.bind Open.reply = none → tandemOp own p b = releaseHeld met)
        ∧ (∀ o r, e.r = tandemOf p.hanks → open_ = some o → o.reply = some r →
          tandemOp own p b = releaseHeld (sendReply o r true met))
        ∧ (e.r ≠ tandemOf p.hanks → tandemOp own p b = releaseHeld (hardFault own e.r.ctx e.oid
          ((open_.map (fun o => o.cmd.seq)).getD 0) Code.tandemDiverge 7 0 0
          (tandemWords e.r e.r.digest (tandemOf p.hanks).digest) (latchDiv e.r false met))))

/-! ### Exchanges, collectives and MUSTERs -/

/-- TOKEN_PACKET_RECEIVE, END_PACKET_RECEIVE, HOME_HALF_SORT, ANSWER_PACKET_RECEIVE, SKEIN_READ_DONE and DROP_REST (R175 to
R177, R180 to R185), on the packet, half or read that stands next. A window that has ended is settled before a packet that comes after
it (R8, R189). An ANSWER whose generation no live entry names is stray,
and one whose generation is void or already combined is discarded and takes no slot. -/
def Obligations.ExchangePackets : Prop :=
  ∀ (s : State) (p : Packet) (g : GenEnt) (k : SknPkt),
    (powered s → exec .tokenPacketReceive s = ran s (fun own b => tokenRow own (expire own b))
      ∧ exec .endPacketReceive s = ran s (fun own b => endRow own (expire own b))
      ∧ exec .answerPacketReceive s = ran s (fun own b => answerRow own (expire own b)))
    ∧ (∀ (own : Nat) (b : Body),
      (b.gens.any (fun g => windowOver b g && (sendMisses g || homeMisses g)) = false → expire own b = b)
      ∧ (b.gens.any (fun g => windowOver b g && (sendMisses g || homeMisses g)) = true →
        exec .homedDeadline { s with b := b } = State.goOn { s with b := b } expire)
      ∧ (frozen b = false → frontPacket (forHome b 0) b = some p → tokenRow own b = tokenOp own p b)
      ∧ (frozen b = false → frontPacket (forHome b 1) b = some p → endRow own b = endOp p (consumePacket p b))
      ∧ (frozen b = false → frontPacket isAnswer b = some p →
        (b.blk.shut = false → answerRow own b = pruneSkn (answerOp own p b))
        ∧ (b.blk.shut = true → answerRow own b = consumePacket p b)))
    ∧ (UnitsRun s → sortReady s.b = some g → exec .homeHalfSort s
      = ran s (fun own b => driveAll own (driveHomeWrites own g.uid (b.modGen g.uid (sortHalf ((nextHalf g).getD 0))))))
    ∧ (UnitsRun s → s.b.skn.reading = some k →
      exec .skeinReadDone s = ran s (fun own b => driveAll own (spliceAll own (readDone own b))))
    ∧ (RegFree s 0x0C0100 → s.b.skn.reading = some k → exec .dropRest s = ran s (fun own b => spliceAll own (dropRest own b)))
    ∧ ∀ (own : Nat) (b : Body),
      (liveGen b (exXg p) (exGeneration p) = none → answerOp own p b
        = { consumePacket p b with skn := { (consumePacket p b).skn with stray := (consumePacket p b).skn.stray + 1 } })
      ∧ (liveGen b (exXg p) (exGeneration p) = some g → g.void = true ∨ g.combineDone = true →
        (answerOp own p b).skn = { b.skn with discard := b.skn.discard + 1 } ∧ (answerOp own p b).mem = b.mem)

/-- PIECE_ADMIT, COLLECT_DONE, COLLECT_DEADLINE and the packets of a collective (R239 to R245, R250). -/
def Obligations.CollectiveRows : Prop :=
  ∀ (s : State) (n : BitVec 4) (c : BitVec 6) (p : Packet),
    (∀ x, UnitsRun s → nextPiece s.b n.toNat = some x → slotsHeld s.b n.toNat < (s.b.group n.toNat).quota.toNat →
      admitOpen s.b x = true → exec (.pieceAdmit n) s = ran s (fun own b => shutdownEnd (admitPiece own x b)))
    ∧ (∀ o w, UnitsRun s → o.work = .collect w → s.b.opens.find? (fun o => o.ctx == c.toNat && o.reply.isNone &&
        (match o.work with
          | .collect w => w.ended == w.names.length
          | _ => false)) = some o →
      exec (.collectDone c) s = ran s (fun own b => finishCollect own o w b))
    ∧ (UnitsRun s → exec (.collectDeadline n) s
      = ran s (fun own b => shutdownEnd (driveResults own (collectDeadlineOp own n.toNat b))))
    ∧ (PacketWaits s (fun q => q.vc == 1 && pktKind q ≤ 1) p → exec .collectPartialReceive s
      = ran s (fun own b => shutdownEnd (driveResults own (partialOp own p (consumePacket p b)))))
    ∧ (PacketWaits s (fun q => q.vc == 2 && pktKind q == 4) p → exec .admitReceive s
      = ran s (fun own b => shutdownEnd (driveResults own (admitOp own p (consumePacket p b)))))
    ∧ (PacketWaits s (fun q => q.vc == 2 && pktKind q == 2) p → exec .resultReceive s
      = ran s (fun own b => shutdownEnd (driveResults own (resultOp own p (consumePacket p b)))))
    ∧ (PacketWaits s (fun q => (q.vc == 1 || q.vc == 2) && pktKind q == 3) p → exec .collectVoidReceive s
      = ran s (fun own b => shutdownEnd (driveResults own (voidOp own p (consumePacket p b)))))

/-- A node's sum (R239, R243): one VOID input makes it VOID; without one, and with its own contribution and every partner's
input, it is the own contribution and then the inputs in the order of the tree's partners; otherwise the node has none
yet. -/
def Obligations.NodeSums : Prop :=
  ∀ (g : Group) (p : Piece),
    ((∃ i ∈ p.inputs, i.2 = .void) → nodeOutput g p = some .void)
    ∧ ((∀ i ∈ p.inputs, i.2 ≠ .void) → p.own ≠ .none → (∀ k ∈ g.kids, (inputOf p k).isSome = true) →
      nodeOutput g p = some (g.kids.foldl (fun acc k => addInput p.op acc ((inputOf p k).getD .null)) p.own))
    ∧ ((∀ i ∈ p.inputs, i.2 ≠ .void) → (p.own = .none ∨ ∃ k ∈ g.kids, inputOf p k = none) → nodeOutput g p = none)
    ∧ (∀ op x, addInput op x .void = .void) ∧ ∀ op, addInput op .null .null = .null

/-- The arrival of a MUSTER, its release tick and deadline, and the packets of a MUSTER (R334 to R339). The release tick runs on in a
throttle hold (R427). -/
def Obligations.MusterRows : Prop :=
  ∀ (s : State) (n : BitVec 4) (m : MusterWork) (p : Packet),
    (UnitsRun s → s.b.thm.musters.find? (fun m => m.group == n.toNat && !m.arrived && !m.orphan
        && (s.b.ctx m.ctx).st == .run && earlierReplied s.b m && lowerSettled s.b m) = some m →
      exec (.musterArriveLocal n) s = ran s (fun own b =>
        settleGroups (progressMuster own m.oid (b.modMuster m.oid (fun m => { m with arrived := true })))))
    ∧ (powered s → s.b.hang.halted = false → s.b.thm.musters.find? (fun m => m.group == n.toNat && (match m.release with
        | some t => t ≤ s.b.now
        | none => false)) = some m →
      exec (.musterReleaseTick n) s = ran s (fun own b => shutdownEnd (settleGroups (releaseMuster own m b))))
    ∧ (UnitsRun s → exec (.musterDeadline n) s
      = ran s (fun own b => shutdownEnd (settleGroups (musterDeadlineOp own n.toNat b))))
    ∧ (PacketWaits s (fun q => q.vc == 0 && pktKind q == 0) p → exec .musterArriveReceive s
      = ran s (fun own b => shutdownEnd (settleGroups (arriveOp own p (consumePacket p b)))))
    ∧ (PacketWaits s (fun q => q.vc == 0 && pktKind q == 1) p → exec .musterReleaseReceive s
      = ran s (fun own b => shutdownEnd (settleGroups (releaseOp own p (consumePacket p b)))))
    ∧ (PacketWaits s (fun q => q.vc == 0 && pktKind q == 2) p → exec .musterVoidReceive s
      = ran s (fun own b => shutdownEnd (settleGroups (musterVoidOp own p (consumePacket p b)))))

/-! ### The work port, tiles, memory, saves, and the ends of steps -/

/-- WP_CARD_ACK, WP_COMPLETION and UNIT_YIELD (R136, R140 to R142, R296): the next card of the list that holds Marlin is
acknowledged, a completion that matches no entry of the outstanding-card table or a dead one is stray and changes no ledger, one
that matches frees its entry and, for a home role, brings the answers of its rows,
what waited then goes on (log 41), and a best-effort command yields its unit to a latency-critical one once the live state has its
buffers. -/
def Obligations.WorkPort : Prop :=
  ∀ (s : State) (h : Hank), UnitsRun s →
    (∀ l k x w, heldList (marlinGo s.addr.own s.b) = some l → l.walk = .card k x :: w →
      tableBlocks (marlinGo s.addr.own s.b) l.ctx = false → (marlinGo s.addr.own s.b).mrl.buf.isSome = true →
      exec .wpCardAck s = ran s (fun own b => driveAll own (marlinGo own (emitCard l k x (marlinGo own b)))))
    ∧ exec (.wpCompletion h) s = ran s (fun own b => driveAll own (completionOp h b))
    ∧ (∀ b : Body, frozen b = false →
      (cplEntry b h = none → completionOp h b = count Cnt.wpStray 1 none { b with mrl := { b.mrl with stray := true } })
      ∧ ∀ e, cplEntry b h = some e →
        let freed : Body := { b with mrl := { b.mrl with cards := b.mrl.cards.erase e } }
        let noted := fun (b : Body) => if cplStatus h = 0 then b
          else { b with mrl := { b.mrl with failed := true, lastStatus := cplStatus h } }
        (e.dead = true → completionOp h b = count Cnt.wpStray 1 none { freed with mrl := { freed.mrl with stray := true } })
        ∧ (e.dead = false → e.gen = none → completionOp h b = noted (ledgerCpl e (cplStatus h) freed))
        ∧ (∀ u, e.dead = false → e.gen = some u →
          completionOp h b = (noted (ledgerCpl e (cplStatus h) freed)).modHome u (homeTasks e (cplStatus h))))
    ∧ (∀ u k, nextYield s.b = some (u, k) →
      ((parkUnit s.addr.own u k s.b).1 = true → exec .unitYield s
        = ran s (fun own b => driveAll own (giveBack u k (parkUnit own u k b).2)))
      ∧ ((parkUnit s.addr.own u k s.b).1 = false → exec .unitYield s = ran s (fun own b => (parkUnit own u k b).2)))
    ∧ (nextYield s.b = none → exec .unitYield s = ran s (fun _ b => b))
    ∧ ∀ (b : Body) (u k : Nat), nextYield b = some (u, k) → (b.ctx (ctxOfOid b k)).cls = false

/-- TILE_HEADER_ARRIVE, TILE_RECEIVE, MEMORY_RESPONSE and COIL_GRANT (R246, R258, R271, R272). What waited goes on in the same step
(log 41). That a response without an outstanding request stands for the next access to its line is the model's choice, log 19. -/
def Obligations.TilesMemoryCoil : Prop :=
  ∀ (s : State) (h : Hank) (hs : List Hank) (line : BitVec 33) (i : BitVec 8) (st : BitVec 2) (d : BitVec 2048), UnitsRun s →
    (∀ buf, s.b.thm.header = none → s.b.thm.tpHold = false →
      coilAsk s.b (coilReqOf s.b (tileOf h).ctx 10 (1 + (tileOf h).hanks)) = .grant buf → exec (.tileHeaderArrive h) s
        = ran s (fun _ b => { coilTake buf b with thm := { (coilTake buf b).thm with
            header := some { tileOf h with buf := some buf } } }))
    ∧ (∀ t buf, s.b.thm.tpHold = false → s.b.thm.header = some t → t.buf = some buf → hs.length = t.hanks →
      exec (.tileReceive hs) s = ran s (fun own b => shutdownEnd (driveResults own (matchTile own { t with payload := hs }
          { b with thm := { b.thm with header := none, tiles := b.thm.tiles ++ [{ t with payload := hs }] } }))))
    ∧ (s.b.thm.tpHold = true → exec (.tileHeaderArrive h) s = ran s (fun _ b => b)
      ∧ exec (.tileReceive hs) s = ran s (fun _ b => b))
    ∧ (st ≠ 3 → s.b.xlt.reqs.find? (fun r => r.line == line.toNat && r.id == i.toNat) = none →
      exec (.memoryResponse line i st d) s = ran s (fun own b => driveAll own { b with xlt := { b.xlt with
        bridge := b.xlt.bridge ++ [{ line := line.toNat, status := st.toNat, data := some d }] } }))
    ∧ (st = 3 → exec (.memoryResponse line i st d) s = ran s driveAll)
    ∧ (∀ r, s.b.xlt.reqs.find? (fun r => r.line == line.toNat && r.id == i.toNat) = some r →
      exec (.memoryResponse line i 0 d) s = ran s (fun own b => driveAll own { b with
        xlt := { b.xlt with reqs := b.xlt.reqs.erase r, inval := b.xlt.inval.erase (line.toNat, i.toNat) } }))
    ∧ (s.b.gens.any (fun g => windowOver s.b g && (sendMisses g || homeMisses g)) = false →
      (∀ r buf, nextGrant s.b = some (r, buf) → exec .coilGrant s = ran s (fun own b =>
        let t := driveAll own (useGrant own r buf (chooseReq r b))
        chooseVictim { t with coil := { t.coil with chosen := none } }))
      ∧ (nextGrant s.b = none → exec .coilGrant s = ran s (fun own b =>
        let t := driveAll own b
        chooseVictim { t with coil := { t.coil with chosen := none } })))
    ∧ (∀ (b : Body) (r : CoilReq) (buf : CoilBuf), nextGrant b = some (r, buf) → r ∈ b.coil.wait ∧ coilAsk b r = .grant buf)
    ∧ ∀ (b : Body) (r : CoilReq) (buf : CoilBuf), coilAsk b r = .grant buf →
      bufTaken b buf.way buf.pool buf.idx = false ∧ r.size ≤ poolSize buf.pool ∧ buf.req = r.req ∧ buf.ctx = r.ctx
        ∧ quotaHeld b r.part r.req + poolSize buf.pool ≤ limitOf b r ∧ buf.way ∈ usableWays b r.ctx r.part

/-- SAVE_START, SAVE_DONE, RESTORE_DONE and AUTO_RESTORE (R303 to R308): a context that waits for its save enters SAVING
with its save area formed, the area is written, a restored context's area is read and checked, and an evicted one starts to
be restored by itself; the save path writes and reads with one halyard engine (R213). That the area is written as a whole at SAVE_DONE
and read as a whole at RESTORE_DONE, and that SAVE_START leaves memory as it is, are the model's choice, log 70. -/
def Obligations.SavesAndRestores : Prop :=
  ∀ (s : State) (c : BitVec 6), UnitsRun s →
    ((s.b.ctx c.toNat).savePending = true ∨ (s.b.ctx c.toNat).evictPending = true →
      (s.b.ctx c.toNat).st = .run ∨ (s.b.ctx c.toNat).st = .faulted →
      ∃ t, exec (.saveStart c) s = .next t ∧ (t.b.ctx c.toNat).st = .saving
        ∧ (t.b.ctx c.toNat).savePending = false ∧ (t.b.ctx c.toNat).evictPending = false
        ∧ (∀ d, d ≠ c.toNat → t.b.ctx d = s.b.ctx d) ∧ t.addr = s.addr ∧ t.tal = s.tal ∧ t.b.mem = s.b.mem)
    ∧ (∀ w, (s.b.ctx c.toNat).save = some w → (s.b.ctx c.toNat).st = .saving → exec (.saveDone c) s
      = ran s (fun own b => driveAll own (restoreIfAsked c.toNat (savePathGo own c.toNat false (do
          writeSave c.toNat w.items.length
          Io.upd (finishSave own c.toNat w)) b))))
    ∧ ((s.b.ctx c.toNat).st = .restoring → exec (.restoreDone c) s
      = ran s (fun own b => driveAll own (savePathGo own c.toNat true (do
          let n ← readSave c.toNat
          Io.upd (finishRestore own c.toNat n)) b)))
    ∧ (∀ (own : Nat) (b : Body) (restore : Bool) (m : Io Unit), (takeEngine (saveHolder c.toNat) 6 b).1 = false →
      savePathGo own c.toNat restore m b = b)
    ∧ ((s.b.ctx c.toNat).st = .saved → (s.b.ctx c.toNat).auto = true →
      s.b.coil.wait.any (fun r => r.cls && r.part == (s.b.ctx c.toNat).part.toNat) = false →
      exec (.autoRestore c) s = ran s (fun _ b =>
        pathEngine c.toNat 1 (b.modCtx c.toNat (fun x => { x with st := .restoring, save := none }))))

/-- ROUTE_STEP_DONE, COMBINE_START, HOMED_DEADLINE and WATCHDOG_LIMIT (R30, R151, R152, R189, R403): a finished step replies with
status 0, or GEN_VOID where its generation was voided, and with that reply its ledger entry shows DONE; a replicated COMBINE whose step is done and whose cards have
completed starts; roles whose window has ended are voided; and a watchdog at its limit reports a hang. It restarts at a handshake and when its instance
becomes idle, counts while a wait bit is 1, and keeps its count while none is. What waited goes on in the same step (log 41). -/
def Obligations.StepsEnd : Prop :=
  ∀ (s : State) (c : BitVec 6), powered s →
    (∀ o w, frozen s.b = false → (s.b.ctx c.toNat).st = .run → finishedRoute s.b c.toNat = some (o, w) →
      exec (.routeStepDone c) s = ran s (fun own b => pruneGens (complete own o.oid
        (if ((w.gen.bind b.gen).map GenEnt.void).getD false then Code.genVoid else 0) 0 0 b)))
    ∧ (∀ (o : Open) (w : RouteWork) (r : OutRec) (b : Body), o.work = .route w →
      ∀ l ∈ ((sendReply o r true b).ctx o.ctx).ledger, l.uid = w.uid → l.done = true)
    ∧ (∀ o x l, frozen s.b = false → combineReady s.b c.toNat = some (o, x, l) →
      exec (.combineStart c) s = ran s (fun own b => driveAll own (spliceGo own (startReplicated own o x l b))))
    ∧ (∀ g, frozen s.b = false → s.b.gens.filter (windowOver s.b) = [g] → s.b.gen g.uid = some g →
      ((sendDeadline s.addr.own g s.b).gen g.uid = none →
        exec .homedDeadline s = ran s (fun own b => driveAll own (sknGo own (sendDeadline own g b))))
      ∧ ∀ h, (sendDeadline s.addr.own g s.b).gen g.uid = some h → exec .homedDeadline s
        = ran s (fun own b => driveAll own (sknGo own (retireLate g.uid (homeDeadline own h (sendDeadline own g b))))))
    ∧ (∀ w, s.b.hang.limit ≠ 0 → s.b.hang.halted = false → s.b.blk.shut = false →
      s.b.obs.watch.filter (fun x => !x.hit && s.b.hang.limit.toNat ≤ x.count s.b.now) = [w] →
      exec .watchdogLimit s = ran s (fun _ b => reportHang w { b with obs := { b.obs with
        watch := b.obs.watch.map (fun x => if x = w then { x with hit := true } else x) } }))
    ∧ ∀ (o : Obs) (now : Nat) (i : WaitInst),
      (actCount o i.unit i.inst ≠ (watchOf o i).seen ∨ (i.idle = true ∧ (watchOf o i).idle = false) →
        (rewatch o now i).since = now ∧ (rewatch o now i).count now = 0)
      ∧ (actCount o i.unit i.inst = (watchOf o i).seen → (i.idle = true → (watchOf o i).idle = true) →
        (rewatch o now i).since = (watchOf o i).since ∧ (rewatch o now i).count now = (watchOf o i).count now
        ∧ ∀ later, (rewatch o now i).count later
          = (rewatch o now i).ticks + (if i.waits = 0 then 0 else ((rewatch o now i).from_.map (fun t => later - t)).getD 0))

/-! ### Values, lines and packets -/

/-- The observation unit's account of a step changes nothing but what is staged, the counts of lost records and the
watchdogs. -/
def Obligations.AccountsTouchTraceOnly : Prop :=
  ∀ old new : Body, settle old new = { new with obs := { new.obs with
    stage := (settle old new).obs.stage, lost := (settle old new).obs.lost, lostRun := (settle old new).obs.lostRun,
    watch := (settle old new).obs.watch } }

/-- A write to memory: inside the bytes written each byte reads as written, outside them as before, and a read of
consecutive bytes is the reads of each. -/
def Obligations.MemoryReadsBack : Prop :=
  ∀ (m : List Host.Cell) (a : Nat) (xs : List Byte),
    (∀ i : Nat, (h : i < xs.length) → memByte (memWrite m a xs) (a + i) = xs[i])
    ∧ (∀ k : Nat, k < a ∨ a + xs.length ≤ k → memByte (memWrite m a xs) k = memByte m k)
    ∧ ∀ n : Nat, Memory.wf m = true → memRead m a n = (List.range n).map (fun i => memByte m (a + i))

/-- A line is 256 bytes: 15 hanks of 17 bytes and a seal that its own check accepts (R37 to R39), and a line written reads
back with the hanks written and a good seal. -/
def Obligations.SealedLineReads : Prop :=
  ∀ (hs : List Hank) (m : List Host.Cell) (line : Nat),
    (sealedLine hs).length = 256 ∧ sealOk (sealedLine hs) = true
    ∧ lineHanks (sealedLine hs) = (hs ++ List.replicate 15 0).take 15
    ∧ (Memory.wf m = true → memLine (memWrite m (256 * line) (sealedLine hs)) line = sealedLine hs)

/-- Binary32 (R51, R78, R85): a value encoded again is the value, every NaN becoming the canonical one; addition and
multiplication do not depend on the order of their operands. -/
def Obligations.Binary32Arithmetic : Prop :=
  (∀ x : Nat, x < 2 ^ 32 → toF32 (ofF32 x) = canon32 x)
  ∧ (∀ a b : Nat, fadd a b = fadd b a) ∧ ∀ a b : Nat, fmul a b = fmul b a

/-- Flits and tandem records read back as they were formed (R218, R219, R330): every header field, the four hanks, and a CRC
that its own check accepts. -/
def Obligations.FlitsAndRecordsReadBack : Prop :=
  (∀ (dst src vc pos lseq lack hops : Nat) (hs : List Hank), dst < 2 ^ 17 → src < 2 ^ 17 → vc < 6 → pos < 4 →
    lseq < 1024 → lack < 1024 → hops < 16 → hs.length = 4 →
    let f := mkFlit (flitHeader dst src vc pos lseq lack hops false) hs
    hdrDst (flitHdr f) = dst ∧ hdrSrc (flitHdr f) = src ∧ hdrVc (flitHdr f) = vc ∧ hdrPos (flitHdr f) = pos
      ∧ hdrLseq (flitHdr f) = lseq ∧ hdrLack (flitHdr f) = lack ∧ hdrHops (flitHdr f) = hops
      ∧ flitHanks f = hs ∧ flitCrcOk f = true)
  ∧ ∀ t : Tandem, t.tseq < 2 ^ 32 → t.ctx < 64 → t.code < 256 → t.outcome < 4 → t.digest < 2 ^ 64 → t.items < 2 ^ 32 →
    t.step < 2 ^ 32 → tandemOf (tandemHanks t) = t

/-- Which bytes the storing commands change (R41, R126, R133, R154, R248, R255, R256, R308, R400, R409): the 256 bytes of the
lines that translation gives for the unit of output written, and no others. A unit of one whole line is that line, sealed; a part
of a line keeps the line's other hanks; an accumulation adds the four FP32 words of each hank named to those stored. The rows of
ROUTE_STEP, COMBINE, COPY and COLLECT, the cells of Marlin and the save area are written by such units, one after the other; the
trace and a DUMP write physical lines. -/
def Obligations.StoredLines : Prop :=
  (∀ (c : Nat) (oid : Option Nat) (items : List (Nat × Hank)), storesOnly (writeHanks c oid items) (linesOf c items)
    ∧ ∀ (b b' : Body) (v line : Nat) (slots : List (Nat × Hank)), storeGroups items = [(v, slots)] →
      (Io.on (storeLines c items) b).1 = .ok [line] → Io.on (writeHanks c oid items) b = (.ok (), b') →
      b'.mem = if slots.length = 15 then memWrite b.mem (256 * line) (sealedLine (mergeSlots (List.replicate 15 0) slots))
        else maskMem b.mem line slots)
  ∧ (∀ (p : Piece) (items : List (Nat × Hank)), storesOnly (raccLine p items) (raccLines p items)
    ∧ ∀ (b : Body) (line : Nat), raccLines p items b = [line] →
      (Io.on (raccLine p items) b).2.mem = raccMem b.mem line (items.map (fun q => (q.1 % 15, q.2))))
  ∧ (∀ (m : List Host.Cell) (line k : Nat) (h : Hank), Memory.wf m = true → k < 15 →
    let was := lineHanks (memLine m line)
    lineHanks (memLine (raccMem m line [(k, h)]) line) = was.set k (raccHank (was.getD k 0) h)
    ∧ lineHanks (memLine (maskMem m line [(k, h)]) line) = was.set k h
    ∧ (∀ e, e < 4 → hW (raccHank (was.getD k 0) h) e = fadd (hW (was.getD k 0) e) (hW h e))
    ∧ hTag (raccHank (was.getD k 0) h) = 0x7F)
  ∧ (∀ c oid unit : Nat, storesOnly (writeOut c oid unit 1) (fun b =>
      linesOf c (frontLine (((routeOf b oid).map RouteWork.outQ).getD [])) b))
  ∧ (∀ c uid oid : Nat, storesOnly (writeHome c uid oid 1) (fun b =>
      linesOf c (frontLine (((b.gen uid).map (fun g => g.home.outQ)).getD [])) b))
  ∧ (∀ (c oid t : Nat) (w : List Nat) (terms : List (List Nat)), storesOnly (combineRow c oid t w terms) (fun b =>
      if terms = [] ∧ cmbEmptyKeep w = true then [] else linesOf c (itemsAt (cmbDst w + t * cmbDstRow w)
        (encodeRow ((fmtOfCode (cmbDstFmt w)).getD .fp32) (foldTerms (cmbHidden w) terms)).1) b))
  ∧ (∀ (c oid : Nat) (x : CopyWork) (all : List Int), storesOnly (copyNext c oid x all) (copyLines c x all))
  ∧ (∀ c : Nat, storesOnly (writeSave c 1) (fun b => match (b.ctx c).save with
      | some w => linesOf c (frontLine (itemsAt (saveBase (b.ctx c) + (w.total - w.items.length)) w.items)) b
      | none => []))
  ∧ (∀ oid pos : Nat, storesOnly (writePiece oid pos 1) (fun b => match b.piece oid pos with
      | some p => linesOf p.ctx (frontLine p.toWrite) b
      | none => [])
    ∧ storesOnly (raccPiece oid pos 1) (fun b => match b.piece oid pos with
      | some p => raccLines p (frontLine p.toWrite) b
      | none => []))
  ∧ (∀ (own : Nat) (l : CardList) (i : WalkItem) (b : Body),
    let cell := Io.on (writeHanks l.ctx ((b.openOf l.oid).map Open.oid) [(cellAddr l i, cellHank l i)]) (takeEngine l.oid 2 b).2
    ((takeEngine l.oid 2 b).1 = true → cell.1 = .ok () → (writeCell own l i b).mem = cell.2.mem)
    ∧ ((takeEngine l.oid 2 b).1 = false → (writeCell own l i b).mem = b.mem))
  ∧ (∀ (base : Nat) (lines : List (List Hank)) (b : Body) (a : Nat), a / 256 < base ∨ base + lines.length ≤ a / 256 →
    memByte (dumpLines base lines b).mem a = memByte b.mem a)
  ∧ ∀ s : State, powered s → s.b.obs.stage.length ≤ 15 → ∃ t, exec .traceIdleFlush s = .next t
    ∧ (∀ a : Nat, a / 256 ≠ s.b.obs.resBase.toNat + s.b.obs.wptr.toNat → memByte t.b.mem a = memByte s.b.mem a)
    ∧ (s.b.obs.state ≠ 1 → s.b.obs.state ≠ 2 → s.b.obs.state ≠ 3 → t.b.mem = s.b.mem)
end

