-- ==== Sys2Proof/Laws/Memory.lean ====
section
/-! SUPPORT. The canonical form of memory: what it says of the list, and that every memory operation keeps it. -/

namespace Sys2Proof.Machine

set_option Elab.async false

/-- The canonical form: addresses strictly rising, and no entry that an unlisted address would read as. -/
theorem Memory.wf_iff (m : List Host.Cell) :
    Memory.wf m = true ↔ m.Pairwise (fun c d => c.1 < d.1) ∧ ∀ c ∈ m, c.2 ≠ memDefault c.1 := by
  induction m with
  | nil => simp [Memory.wf]
  | cons c rest ih =>
    cases rest with
    | nil => simp [Memory.wf]
    | cons d more =>
      rw [Memory.wf, Bool.and_eq_true, Bool.and_eq_true, ih]
      simp only [bne_iff_ne, List.head?_cons, Option.all_some, decide_eq_true_eq, List.pairwise_cons, List.mem_cons,
        forall_eq_or_imp]
      constructor
      · rintro ⟨⟨h1, h2⟩, ⟨h3, h4⟩, h5, h6⟩
        exact ⟨⟨⟨h2, fun e he => Nat.lt_trans h2 (h3 e he)⟩, h3, h4⟩, h1, h5, h6⟩
      · rintro ⟨⟨⟨h2, _⟩, h3, h4⟩, h1, h5, h6⟩
        exact ⟨⟨h1, h2⟩, ⟨h3, h4⟩, h5, h6⟩

/-- The cells of a run of bytes lie in its range and differ from the default. -/
theorem memCells_range (xs : List Byte) (a : Nat) :
    ∀ c ∈ memCells a xs, a ≤ c.1 ∧ c.1 < a + xs.length ∧ c.2 ≠ memDefault c.1 := by
  induction xs generalizing a with
  | nil => simp [memCells]
  | cons x xs ih =>
    intro c hc
    have step : ∀ c ∈ memCells (a + 1) xs, a ≤ c.1 ∧ c.1 < a + (x :: xs).length ∧ c.2 ≠ memDefault c.1 := by
      intro c hc
      have h := ih (a + 1) c hc
      simp only [List.length_cons]
      exact ⟨by omega, by omega, h.2.2⟩
    unfold memCells at hc
    split at hc
    · exact step c hc
    · rename_i hx
      rcases List.mem_cons.mp hc with rfl | hc
      · exact ⟨Nat.le_refl _, by simp, hx⟩
      · exact step c hc

/-- The cells of a run of bytes rise strictly. -/
theorem memCells_rising (xs : List Byte) (a : Nat) : (memCells a xs).Pairwise (fun c d => c.1 < d.1) := by
  induction xs generalizing a with
  | nil => simp [memCells]
  | cons x xs ih =>
    unfold memCells
    split
    · exact ih (a + 1)
    · refine List.pairwise_cons.mpr ⟨fun d hd => ?_, ih (a + 1)⟩
      have := (memCells_range xs (a + 1) d hd).1
      simpa using this

/-- A write keeps the canonical form. -/
theorem memWrite_wf {m : List Host.Cell} (a : Nat) (xs : List Byte) (h : Memory.wf m = true) :
    Memory.wf (memWrite m a xs) = true := by
  obtain ⟨hp, hd⟩ := (Memory.wf_iff m).mp h
  refine (Memory.wf_iff _).mpr ⟨?_, ?_⟩
  · unfold memWrite
    refine List.pairwise_append.mpr ⟨List.pairwise_append.mpr ⟨hp.filter _, memCells_rising xs a, ?_⟩, hp.filter _, ?_⟩
    · intro c hc d hd
      have h1 := (List.mem_filter.mp hc).2
      have h2 := (memCells_range xs a d hd).1
      simp only [decide_eq_true_eq] at h1
      omega
    · intro c hc d hd
      have h2 := (List.mem_filter.mp hd).2
      simp only [decide_eq_true_eq] at h2
      rcases List.mem_append.mp hc with hc | hc
      · have h1 := (List.mem_filter.mp hc).2
        simp only [decide_eq_true_eq] at h1
        omega
      · have := (memCells_range xs a c hc).2.1
        omega
  · intro c hc
    unfold memWrite at hc
    rcases List.mem_append.mp hc with hc | hc
    · rcases List.mem_append.mp hc with hc | hc
      · exact hd c (List.mem_filter.mp hc).1
      · exact (memCells_range xs a c hc).2.2
    · exact hd c (List.mem_filter.mp hc).1

/-- A masked write keeps the canonical form. -/
theorem maskMem_wf {m : List Host.Cell} (line : Nat) (items : List (Nat × Hank)) (h : Memory.wf m = true) :
    Memory.wf (maskMem m line items) = true := memWrite_wf _ _ h

/-- An accumulation keeps the canonical form. -/
theorem raccMem_wf {m : List Host.Cell} (line : Nat) (items : List (Nat × Hank)) (h : Memory.wf m = true) :
    Memory.wf (raccMem m line items) = true := memWrite_wf _ _ h

/-- A line that leaves on a trace channel keeps the canonical form. -/
theorem traceLineOut_wf (line : Nat) (bs : List Byte) {b : Body} (h : Memory.wf b.mem = true) :
    Memory.wf (traceLineOut line bs b).mem = true := memWrite_wf _ _ h

/-- So do the lines of a dump. -/
theorem dumpLines_wf (lines : List (List Hank)) (base : Nat) {b : Body} (h : Memory.wf b.mem = true) :
    Memory.wf (dumpLines base lines b).mem = true := by
  induction lines generalizing base b with
  | nil => exact h
  | cons l rest ih => exact ih _ (traceLineOut_wf _ _ h)

/-- A line of the trace keeps the canonical form. -/
theorem writeTraceLine_wf {b : Body} (h : Memory.wf b.mem = true) : Memory.wf (writeTraceLine b).mem = true := by
  unfold writeTraceLine
  dsimp only
  split
  · exact h
  · exact memWrite_wf _ _ h

/-- So does the flush of the trace. -/
theorem flushTrace_wf {b : Body} (h : Memory.wf b.mem = true) : Memory.wf (flushTrace b).mem = true := by
  unfold flushTrace
  generalize b.obs.stage.length = n
  induction n generalizing b with
  | zero => exact h
  | succ n ih =>
    unfold flushTraceN
    split
    · exact h
    · exact ih (writeTraceLine_wf h)

/-- Memory has the canonical form right after reset. -/
theorem reset_mem_wf : Memory.wf State.reset.b.mem = true := rfl

/-! ### Streams -/

/-- A stream keeps a property of the block, whether it ends or a fault stops it. -/
def Keeps {α : Type} (P : Body → Prop) (m : Io α) : Prop := ∀ b, P b → P (Io.on m b).2

theorem keeps_pure {α : Type} {P : Body → Prop} (a : α) : Keeps P (pure a : Io α) := fun _ h => h

theorem keeps_fail {α : Type} {P : Body → Prop} (x : Stop) : Keeps P (Io.fail x : Io α) := fun _ h => h

theorem keeps_get {P : Body → Prop} : Keeps P Io.get := fun _ h => h

theorem keeps_upd {P : Body → Prop} {f : Body → Body} (h : ∀ b, P b → P (f b)) : Keeps P (Io.upd f) := h

theorem keeps_bind {α β : Type} {P : Body → Prop} {m : Io α} {f : α → Io β} (hm : Keeps P m) (hf : ∀ a, Keeps P (f a)) :
    Keeps P (m >>= f) := by
  intro b hb
  have h1 := hm b hb
  show P (Io.on (m >>= f) b).2
  unfold Io.on at *
  simp only [bind, ExceptT.bind, ExceptT.mk, StateT.bind, ExceptT.bindCont] at *
  generalize hr : m b = r at h1
  obtain ⟨x, b'⟩ := r
  cases x with
  | ok a => exact hf a b' h1
  | error e => exact h1

theorem keeps_ite {α : Type} {P : Body → Prop} {c : Prop} [Decidable c] {m n : Io α} (hm : Keeps P m) (hn : Keeps P n) :
    Keeps P (if c then m else n) := by
  split
  · exact hm
  · exact hn

/-- Counting leaves memory alone. -/
theorem count_mem (k n : Nat) (c : Option Nat) (b : Body) : (count k n c b).mem = b.mem := by
  unfold count
  cases c with
  | none => rfl
  | some c => dsimp only; split <;> rfl

/-- The canonical form, as a property of the block. -/
def MemWf (b : Body) : Prop := Memory.wf b.mem = true

theorem keeps_count (k n : Nat) (c : Option Nat) : Keeps MemWf (Io.upd (count k n c)) :=
  keeps_upd (fun b h => by unfold MemWf; rw [count_mem]; exact h)

/-- An access to a port leaves memory as it is; what the line takes follows it. -/
theorem portStatus_keeps (c : Option Nat) (line : Nat) : Keeps MemWf (portStatus c line) := by
  unfold portStatus
  refine keeps_bind keeps_get (fun b => ?_)
  dsimp only
  split
  · exact keeps_pure _
  · refine keeps_bind (keeps_upd (fun _ h => h)) (fun _ => ?_)
    have tail : ∀ (x : Bool) (d : Option (BitVec 2048)),
        Keeps MemWf (if x = true then (do Io.hard Code.memUe 2 line; pure d) else pure d : Io (Option (BitVec 2048))) :=
      fun x d => keeps_ite (keeps_bind (keeps_fail _) (fun _ => keeps_pure _)) (keeps_pure _)
    exact keeps_ite (keeps_bind (keeps_count _ _ _) (fun _ => tail _ _)) (tail _ _)

/-- What an access met is no stop, and the block is the one that the access left. -/
theorem met_body {α : Type} (m : Io α) (b : Body) : (Io.on (Io.met m) b).2 = (Io.on m b).2 := by
  show (match m b with
    | (.ok _, b') => ((.ok none, b') : Except Stop (Option Stop) × Body)
    | (.error x, b') => (.ok (some x), b')).2 = (m b).2
  rcases m b with ⟨_ | _, _⟩ <;> rfl

theorem met_keeps {α : Type} {P : Body → Prop} {m : Io α} (h : Keeps P m) : Keeps P (Io.met m) := by
  intro b hb
  rw [met_body]
  exact h b hb

/-- A request on a port leaves memory as it is. -/
theorem issueRq_keeps (c : Option Nat) (op line mask : Nat) (data : List Byte) : Keeps MemWf (issueRq c op line mask data) := by
  refine keeps_bind keeps_get (fun b => ?_)
  split
  · exact keeps_fail _
  · exact keeps_bind (keeps_upd (fun _ h => h)) (fun _ => keeps_ite (keeps_pure _) (keeps_fail _))

/-- A whole line written through a port keeps the canonical form. -/
theorem writeLine_keeps (c : Option Nat) (line : Nat) (hs : List Hank) : Keeps MemWf (writeLine c line hs) :=
  keeps_bind (issueRq_keeps _ _ _ _ _) (fun _ => keeps_bind (keeps_count _ _ _) (fun _ =>
    keeps_bind (keeps_upd (fun _ h => memWrite_wf _ _ h)) (fun _ => met_keeps (portStatus_keeps _ _))))

/-- A masked line keeps it. -/
theorem maskLine_keeps (c : Option Nat) (line : Nat) (items : List (Nat × Hank)) : Keeps MemWf (maskLine c line items) :=
  keeps_bind (issueRq_keeps _ _ _ _ _) (fun _ => keeps_bind (keeps_count _ _ _) (fun _ =>
    keeps_bind (keeps_upd (fun _ h => maskMem_wf _ _ h)) (fun _ => met_keeps (portStatus_keeps _ _))))

/-- Reading a line keeps it. -/
theorem readOnce_keeps (c : Option Nat) (line : Nat) : Keeps MemWf (readOnce c line) :=
  keeps_bind (issueRq_keeps _ _ _ _ _) (fun _ => keeps_bind (keeps_count _ _ _) (fun _ =>
    keeps_bind (portStatus_keeps _ _) (fun _ => keeps_bind keeps_get (fun _ => keeps_pure _))))

theorem readLine_keeps (c : Option Nat) (line : Nat) : Keeps MemWf (readLine c line) := by
  unfold readLine
  refine keeps_bind (readOnce_keeps _ _) (fun x => keeps_ite (keeps_pure _) (keeps_bind (readOnce_keeps _ _) (fun y => ?_)))
  exact keeps_ite (keeps_bind (keeps_count _ _ _) (fun _ => keeps_pure _)) (keeps_fail _)

theorem keeps_mapM {α β : Type} {P : Body → Prop} (f : α → Io β) (l : List α) (h : ∀ a, Keeps P (f a)) :
    Keeps P (l.mapM f) := by
  induction l with
  | nil => exact keeps_pure _
  | cons a l ih =>
    rw [List.mapM_cons]
    exact keeps_bind (h a) (fun _ => keeps_bind ih (fun _ => keeps_pure _))

/-- A wait on a walk leaves the block that the reading left. -/
theorem walking_keeps {α : Type} {P : Body → Prop} {m : Io α} (h : Keeps P m) : Keeps P (Io.walking m) := by
  intro b hb
  have h1 : P (m b).2 := h b hb
  show P (Io.walking m b).2
  unfold Io.walking
  generalize m b = r at h1
  obtain ⟨x | x, b'⟩ := r
  · cases x <;> exact h1
  · exact h1

/-- A walk of the translation tables keeps it. -/
theorem tableEntry_keeps (c v base i : Nat) : Keeps MemWf (tableEntry c v base i) :=
  keeps_bind keeps_get (fun _ => keeps_ite (keeps_fail _) (keeps_ite (keeps_fail _)
    (keeps_bind (walking_keeps (readLine_keeps _ _)) (fun _ => keeps_pure _))))

theorem finishXlt_keeps (c v : Nat) (a : Acc) (e : XltEntry) : Keeps MemWf (finishXlt c v a e) :=
  keeps_bind keeps_get (fun _ => keeps_ite (keeps_fail _) (keeps_ite (keeps_fail _)
    (keeps_ite (keeps_fail _) (keeps_pure _))))

theorem translate_keeps (c v : Nat) (a : Acc) : Keeps MemWf (translate c v a) := by
  unfold translate
  refine keeps_bind keeps_get (fun b => keeps_ite (keeps_fail _) ?_)
  split
  · exact finishXlt_keeps _ _ _ _
  · refine keeps_bind (tableEntry_keeps _ _ _ _) (fun e => keeps_ite (keeps_fail _) (keeps_ite (keeps_fail _) ?_))
    refine keeps_bind (tableEntry_keeps _ _ _ _) (fun f => keeps_ite (keeps_fail _) (keeps_ite (keeps_fail _) ?_))
    exact keeps_bind (finishXlt_keeps _ _ _ _) (fun _ => keeps_bind (keeps_upd (fun _ h => h)) (fun _ => keeps_pure _))

/-- Hanks read through a context's translation keep it. -/
theorem readHanks_keeps (c : Nat) (vs : List Nat) : Keeps MemWf (readHanks c vs) :=
  keeps_bind (keeps_mapM _ _ (fun _ => keeps_bind (translate_keeps _ _ _) (fun _ =>
    keeps_bind (readLine_keeps _ _) (fun _ => keeps_pure _)))) (fun _ => keeps_pure _)

/-- Adding to a digest leaves memory alone. -/
theorem addItems_mem (oid : Option Nat) (items : List (Nat × Hank)) (b : Body) : (addItems oid items b).mem = b.mem := by
  cases oid <;> rfl

/-- One line of a store keeps it. -/
theorem storeGroup_keeps (c : Nat) (p : (Nat × List (Nat × Hank)) × Nat) : Keeps MemWf (storeGroup c p) :=
  keeps_ite (writeLine_keeps _ _ _) (maskLine_keeps _ _ _)

/-- A store that a line stalls before its first line keeps it. -/
theorem stallFirst_keeps (c : Nat) (gs : List ((Nat × List (Nat × Hank)) × Nat)) : Keeps MemWf (stallFirst c gs) := by
  refine keeps_bind keeps_get (fun b => ?_)
  split
  · exact keeps_pure _
  · exact keeps_bind (storeGroup_keeps _ _) (fun _ => keeps_pure _)

/-- Hanks written through a context's translation keep it. -/
theorem writeHanks_keeps (c : Nat) (oid : Option Nat) (items : List (Nat × Hank)) : Keeps MemWf (writeHanks c oid items) := by
  refine keeps_bind (keeps_mapM _ _ (fun _ => translate_keeps _ _ _)) (fun _ => keeps_bind (stallFirst_keeps _ _) (fun _ =>
    keeps_bind (keeps_mapM _ _ (storeGroup_keeps _)) (fun met => keeps_bind (keeps_upd (fun b h => ?_)) (fun _ => ?_))))
  · unfold MemWf
    rw [addItems_mem]
    exact h
  · cases met.findSome? id with
    | none => exact keeps_pure _
    | some x => exact keeps_fail x

end Sys2Proof.Machine
end

