-- ==== Sys2Proof/Laws/Ops.lean ====
section
/-! SUPPORT. What the shared operations can do: which parts of the body each of them may change. A proof cites these and
does not unfold the operation. -/

namespace Sys2Proof.Machine

set_option Elab.async false

/-! ### Counters, replies and notices -/

/-- Counting touches the counters of the block and of a context. -/
theorem count_frame (k n : Nat) (c : Option Nat) (b : Body) :
    count k n c b = { b with obs := (count k n c b).obs, ctxs := (count k n c b).ctxs } := by
  unfold count
  cases c with
  | none => rfl
  | some c => dsimp only; split <;> rfl

/-- A notice touches the command port and the observation unit. -/
theorem notice_frame (code : Nat) (c : Option Nat) (seq status hanks : Nat) (body : List Nat) (unit : Nat) (b : Body) :
    notice code c seq status hanks body unit b
      = { b with cp := (notice code c seq status hanks body unit b).cp,
                 obs := (notice code c seq status hanks body unit b).obs } := by
  unfold notice
  dsimp only
  split <;> split <;> rfl

/-- A reply record touches the command port, and the DONE of a ledger entry when it enters the store. -/
theorem pushReply_frame (r : OutRec) (b : Body) :
    pushReply r b = { b with cp := (pushReply r b).cp, ctxs := (pushReply r b).ctxs } := by
  unfold pushReply
  split
  · unfold storeReply
    dsimp only
    split <;> rfl
  · rfl

/-- With room in the store and no reply waiting, a reply of no ledger entry joins the store at its end. -/
theorem pushReply_room {r : OutRec} {b : Body} (h1 : b.cp.waitOut = []) (h2 : replyHeld b + r.size ≤ replyRoom)
    (h3 : r.ledger = none) : pushReply r b = { b with cp := { b.cp with out := b.cp.out ++ [r] } } := by
  simp [pushReply, storeReply, h1, h2, h3]

/-- The code of a refused LOAD_LAY or APPLY_SPLICE touches the lay manager's registers. -/
theorem layErr_frame (code status : Nat) (b : Body) :
    layErr code status b = { b with lay := { b.lay with lastErr := (layErr code status b).lay.lastErr } } := by
  unfold layErr
  split <;> rfl

/-- A refusal touches the command port, the observation unit, the counters of its context, and LAY_LAST_ERR. -/
theorem refuse_frame (r : CmdRec) (status : Nat) (b : Body) :
    refuse r status b = { b with cp := (refuse r status b).cp, obs := (refuse r status b).obs,
                                 ctxs := (refuse r status b).ctxs,
                                 lay := { b.lay with lastErr := (refuse r status b).lay.lastErr } } := by
  unfold refuse
  dsimp only
  rw [count_frame, trace, pushReply_frame, layErr_frame]

/-- The COUNT records of a command touch the observation unit. -/
theorem traceCounts_frame (unit : Nat) (c : Option Nat) (start fin : List Nat) (b : Body) :
    traceCounts unit c start fin b = { b with obs := (traceCounts unit c start fin b).obs } := by
  unfold traceCounts
  refine List.foldlRecOn (List.range 18) _ (motive := fun (x : Body) => x = { b with obs := x.obs }) rfl ?_
  intro x hx k _
  dsimp only
  split
  · exact hx
  · unfold trace
    rw [hx]

/-! ### The switch -/

/-- Two bodies that differ in the fabric, the observation unit, the contexts' counters and the account of energy only. -/
def SwitchFrame (b b' : Body) : Prop :=
  b' = { b with fab := b'.fab, obs := b'.obs, ctxs := b'.ctxs, pwr := { b.pwr with
    energy := b'.pwr.energy, secEnergy := b'.pwr.secEnergy, bucket := b'.pwr.bucket, accAt := b'.pwr.accAt,
    secAt := b'.pwr.secAt, endEnergy := b'.pwr.endEnergy, winAt := b'.pwr.winAt, winSpent := b'.pwr.winSpent } }

theorem SwitchFrame.refl (b : Body) : SwitchFrame b b := rfl

theorem SwitchFrame.trans {a b c : Body} (h1 : SwitchFrame a b) (h2 : SwitchFrame b c) : SwitchFrame a c := by
  unfold SwitchFrame at *
  rw [h2, h1]

theorem SwitchFrame.of_fold {α : Type} (f : Body → α → Body) (h : ∀ b x, SwitchFrame b (f b x)) (l : List α) (b : Body) :
    SwitchFrame b (l.foldl f b) := by
  induction l generalizing b with
  | nil => exact .refl b
  | cons x l ih => exact (h b x).trans (ih (f b x))

/-- Static energy up to now is accounted for, and nothing else changes. -/
theorem accrue_frame (b : Body) :
    accrue b = { b with pwr := { b.pwr with
      energy := (accrue b).pwr.energy, secEnergy := (accrue b).pwr.secEnergy, bucket := (accrue b).pwr.bucket,
      accAt := (accrue b).pwr.accAt, secAt := (accrue b).pwr.secAt, endEnergy := (accrue b).pwr.endEnergy,
      winAt := (accrue b).pwr.winAt, winSpent := (accrue b).pwr.winSpent } } := by
  unfold accrue Pwr.accrue
  dsimp only
  split <;> rfl

/-- Energy that is charged touches the account of energy. -/
theorem charge_frame (cls unit n : Nat) (b : Body) : SwitchFrame b (charge cls unit n b) := by
  unfold SwitchFrame charge
  rw [accrue_frame]
  rfl

/-- A completed handshake touches its watchdog's count and the account of energy. -/
theorem act_frame (cls unit inst : Nat) (b : Body) : SwitchFrame b (act cls unit inst b) := by
  exact SwitchFrame.trans (b := { b with obs := _ }) rfl (charge_frame _ _ _ _)

theorem count_switch (k n : Nat) (c : Option Nat) (b : Body) : SwitchFrame b (count k n c b) := by
  unfold SwitchFrame
  rw [count_frame]

/-- Sending flits on a port touches the fabric and the counters of what it sends. -/
theorem pumpPort_frame (n fuel : Nat) (b : Body) : SwitchFrame b (pumpPort n fuel b) := by
  induction fuel generalizing b with
  | zero => exact .refl b
  | succ fuel ih =>
    unfold pumpPort
    dsimp only
    split
    · exact .refl b
    · split
      · exact .refl b
      · refine SwitchFrame.trans ?_ ((act_frame _ _ _ _).trans (ih _))
        split
        · exact SwitchFrame.trans (b := b.modPort n _) rfl (count_switch _ _ _ _)
        · rfl

/-- A control flit touches the fabric and the account of energy. -/
theorem sendCtrl_frame (n : Nat) (c : CtrlFlit) (b : Body) : SwitchFrame b (sendCtrl n c b) := by
  unfold sendCtrl
  exact SwitchFrame.trans (b := b.modPort n _) rfl (charge_frame _ _ _ _)

theorem pump_frame (n : Nat) (b : Body) : SwitchFrame b (pump n b) :=
  SwitchFrame.trans (b := clearOut n b) rfl (pumpPort_frame _ _ _)

/-- A packet before the switch touches the fabric and the counters of what leaves. -/
theorem sendPacket_frame (own : Nat) (p : Packet) (b : Body) : SwitchFrame b (sendPacket own p b) := by
  unfold sendPacket
  generalize (if p.origin then { p with src := own } else p) = q
  dsimp only
  split
  · rfl
  · split
    · rfl
    · split
      · exact SwitchFrame.trans (b := b.modPort _ _) rfl (pump_frame _ _)
      · rfl

theorem retryUnrouted_frame (own : Nat) (b : Body) : SwitchFrame b (retryUnrouted own b) :=
  SwitchFrame.trans (b := { b with fab := { b.fab with unrouted := [] } }) rfl
    (SwitchFrame.of_fold _ (fun b p => sendPacket_frame own p b) _ _)

/-- Credit that goes back touches the fabric and the account of energy. -/
theorem drainFlits_frame (n vc k : Nat) (b : Body) : SwitchFrame b (drainFlits n vc k b) := by
  unfold drainFlits
  exact SwitchFrame.trans (b := b.modPort n _) rfl (sendCtrl_frame _ _ _)

/-- A packet that its consumer takes touches no more. -/
theorem consumePacket_frame (p : Packet) (b : Body) : SwitchFrame b (consumePacket p b) := by
  unfold consumePacket
  generalize hb : { b with fab := { b.fab with rx := b.fab.rx.erase p } } = b'
  have h : SwitchFrame b b' := by rw [← hb]; rfl
  split
  · exact h.trans (drainFlits_frame _ _ _ _)
  · exact h

theorem thaw_frame (b : Body) : SwitchFrame b (thaw b) := by
  refine SwitchFrame.of_fold _ (fun b n => SwitchFrame.trans ?_ (pump_frame _ _)) _ _
  refine SwitchFrame.of_fold _ (fun b v => ?_) _ _
  split
  · rfl
  · exact drainFlits_frame _ _ _ _

/-! ### Coil buffers and power -/

/-- A free touches the coil manager. -/
theorem coilFree_frame (buf : CoilBuf) (b : Body) : (coilFree buf b).1 = { b with coil := (coilFree buf b).1.coil } := by
  unfold coilFree
  split <;> rfl

/-- N_DRAW touches the power registers, the command port and the observation unit. -/
theorem raiseDraw_frame (cause w2 w3 : Nat) (b : Body) :
    raiseDraw cause w2 w3 b = { b with pwr := { b.pwr with raised := (raiseDraw cause w2 w3 b).pwr.raised },
                                       cp := (raiseDraw cause w2 w3 b).cp, obs := (raiseDraw cause w2 w3 b).obs } := by
  unfold raiseDraw
  dsimp only
  split
  · rfl
  · rw [notice_frame]

/-- A change of the causes of a hold keeps every power register that the change keeps, but for the ticks held, what has been
raised, and the energy of the flits that leave when a hold ends. -/
theorem changeHold_pwr (f : Pwr → Pwr) (b : Body) :
    (changeHold f b).pwr = { f b.pwr with
      heldSince := (changeHold f b).pwr.heldSince, held := (changeHold f b).pwr.held,
      raised := (changeHold f b).pwr.raised, energy := (changeHold f b).pwr.energy,
      secEnergy := (changeHold f b).pwr.secEnergy, bucket := (changeHold f b).pwr.bucket,
      accAt := (changeHold f b).pwr.accAt, secAt := (changeHold f b).pwr.secAt,
      endEnergy := (changeHold f b).pwr.endEnergy, winAt := (changeHold f b).pwr.winAt,
      winSpent := (changeHold f b).pwr.winSpent } := by
  unfold changeHold
  dsimp only
  split
  · rfl
  · split
    · rw [raiseDraw_frame]
    · rw [thaw_frame]

/-! ### Reset -/

/-- A reset leaves the commands that wait, the memory behind the ports, and the tally records with a commit cut short. -/
theorem resetState_keeps (s : State) :
    (resetState s).pending = s.pending ∧ (resetState s).b.mem = s.b.mem ∧ (resetState s).addr = {}
      ∧ (resetState s).tal.busy = none ∧ ∀ k, (resetState s).tal.recs k = (talCut s.tal).recs k := by
  refine ⟨rfl, rfl, rfl, rfl, fun k => ?_⟩
  unfold Tally.recs resetState
  rfl

end Sys2Proof.Machine
end

