-- ==== Sys2Proof/WellFormed.lean ====
section
/-! DEFINITION. When a command is well formed: its operands lie in the ranges that the spec gives what they stand for.
Every meaning is total, so an ill-formed command is not refused by `exec`; the statements that need the range say so. -/

namespace Sys2Proof

/-- A link port number: LP0 to LP35 (Table 1.4). -/
def portOk (p : BitVec 6) : Bool := p.toNat < 36

/-- A register offset: a multiple of 4 (R347, R359). -/
def offsetOk (o : BitVec 22) : Bool := o.toNat % 4 == 0

/-- A queue: a context, or 64 for the global queue (R350). -/
def queueOk (q : BitVec 7) : Bool := q.toNat ≤ 64

/-- Physical instances of an aging-monitor class, spares included; for classes 0 and 1 of one array (R453, Table 15.7). -/
def wearCount (cls : Nat) : Nat := [132, 132, 68, 9, 34, 102, 36].getD cls 0

/-- An aging monitor exists (R453): four garnet arrays have monitors of classes 0 and 1, the other classes have one
array. -/
def monitorOk (cls : BitVec 4) (array : BitVec 2) (index : BitVec 8) : Bool :=
  index.toNat < wearCount cls.toNat && (cls.toNat ≤ 1 || array == 0)

/-- The operands of a command are in range. -/
def Instr.wf : Instr → Bool
  | .porstNReset | .dxEnRiseStart | .dxEnFall | .dxEnRiseDuringAssay _ | .bightToken _ => true
  | .cpRecordIntake ts => !ts.isEmpty
  | .outwardRecord => true
  | .mgpAccess _ o _ => offsetOk o
  | .loadLay | .applySplice | .routeStep _ | .routeStepDone _ | .combine _ | .combineStart _ | .dispatch | .copy _
  | .collect _ | .pieceAdmit _ | .collectDone _ | .collectDeadline _ | .muster _ | .musterArriveLocal _
  | .musterReleaseTick _ | .musterDeadline _ | .cancelBatch | .saveContext _ | .resume => true
  | .regRead q => queueOk q
  | .regWrite q => queueOk q
  | .registerWrite o _ => offsetOk o
  | .dump | .shutdown | .calSlotDataWrite _ _ | .calSlotCommit _ _ | .xltInvalGo _ | .ctxCreate | .ctxDestroy
  | .thmGroupOpen _ _ | .thmGroupClose _ _ | .abort _ _ | .dropRest | .talSelWrite _ | .talStageDataWrite _ | .talGo
  | .tallyCommitDone | .obsMarkWrite _ | .traceEnable _ | .traceDisable _ | .trigger | .arm | .traceIdleFlush
  | .mrlPcEnable _ | .pcSample | .paceClr | .asyGo _ | .asy1500Shift _ => true
  | .linkFlitReceive p _ => portOk p
  | .nakReceive p _ _ _ => portOk p
  | .creditReceive p _ _ _ => portOk p
  | .linkRetryTimeout p => portOk p
  | .tokenPacketReceive | .endPacketReceive | .homeHalfSort | .answerPacketReceive | .skeinReadDone
  | .collectPartialReceive | .admitReceive | .resultReceive | .collectVoidReceive | .musterArriveReceive
  | .musterReleaseReceive | .musterVoidReceive | .tandemRecordReceive | .tandemWindowExpiry => true
  | .stcSyncExchange p => portOk p
  | .stcSyncReceive p _ _ => portOk p
  | .stcrefCycle | .wpCardAck | .wpCompletion _ | .tileHeaderArrive _ => true
  | .tileReceive hs => hs.length < 2 ^ 14
  | .memoryResponse _ _ st _ => st != 3
  | .coilGrant | .saveStart _ | .saveDone _ | .restoreDone _ | .autoRestore _ | .unitYield | .homedDeadline
  | .watchdogLimit | .paceWindowEnd _ | .tempReport _ _ | .railReading _ _ | .ceilChange _ _ | .throttleWindow
  | .throttleHoldStart | .drawPublish | .secondEnd => true
  | .wearMeasure c a i _ => monitorOk c a i
  | .assaySliceEnd _ | .sliceBudgetExpiry _ | .assayEnd | .porstNRelease => true
  | .linkTrained p => portOk p
  | .lossOfPower => true

end Sys2Proof
end

