-- ==== Sys2Proof/Laws/PerInstr.lean ====
section
/-! SUPPORT. A family of statements about every command as syntax: what its being well formed says of its operands. -/

namespace Sys2Proof.Laws

set_option Elab.async false

/-- The link port that a command names. -/
def portOf : Instr → Option (BitVec 6)
  | .linkFlitReceive port _ => some port
  | .nakReceive port _ _ _ => some port
  | .creditReceive port _ _ _ => some port
  | .linkRetryTimeout port => some port
  | .stcSyncExchange port => some port
  | .stcSyncReceive port _ _ => some port
  | .linkTrained port => some port
  | _ => none

/-- The register offset that a command names. -/
def offsetOf : Instr → Option (BitVec 22)
  | .mgpAccess _ offset _ => some offset
  | .registerWrite offset _ => some offset
  | _ => none

/-- The queue that a command names. -/
def queueOf : Instr → Option (BitVec 7)
  | .regRead queue => some queue
  | .regWrite queue => some queue
  | _ => none

/-- A well-formed command names a port from LP0 to LP35, a register offset that is a multiple of 4, and a context's queue or
the global one (Table 1.4, R347, R350, R359). -/
def Form.Statement (i : Instr) : Prop :=
  i.wf = true → (∀ p, portOf i = some p → p.toNat < 36) ∧ (∀ o, offsetOf i = some o → o.toNat % 4 = 0)
    ∧ (∀ q, queueOf i = some q → q.toNat ≤ 64)

theorem Form.porstNReset : Form.Statement .porstNReset := by
  simp [Form.Statement, portOf, offsetOf, queueOf]
theorem Form.dxEnRiseStart : Form.Statement .dxEnRiseStart := by
  simp [Form.Statement, portOf, offsetOf, queueOf]
theorem Form.dxEnFall : Form.Statement .dxEnFall := by
  simp [Form.Statement, portOf, offsetOf, queueOf]
theorem Form.dxEnRiseDuringAssay (fails : List Failure) : Form.Statement (.dxEnRiseDuringAssay fails) := by
  simp [Form.Statement, portOf, offsetOf, queueOf]
theorem Form.bightToken (token : BitVec 24) : Form.Statement (.bightToken token) := by
  simp [Form.Statement, portOf, offsetOf, queueOf]
theorem Form.cpRecordIntake (transfers : List Transfer) : Form.Statement (.cpRecordIntake transfers) := by
  simp [Form.Statement, portOf, offsetOf, queueOf]
theorem Form.outwardRecord : Form.Statement .outwardRecord := by
  simp [Form.Statement, portOf, offsetOf, queueOf]
theorem Form.mgpAccess (write : Bool) (offset : BitVec 22) (data : W32) :
    Form.Statement (.mgpAccess write offset data) := by
  simp [Form.Statement, Instr.wf, portOf, offsetOf, queueOf, offsetOk]
theorem Form.loadLay : Form.Statement .loadLay := by
  simp [Form.Statement, portOf, offsetOf, queueOf]
theorem Form.applySplice : Form.Statement .applySplice := by
  simp [Form.Statement, portOf, offsetOf, queueOf]
theorem Form.routeStep (ctx : BitVec 6) : Form.Statement (.routeStep ctx) := by
  simp [Form.Statement, portOf, offsetOf, queueOf]
theorem Form.routeStepDone (ctx : BitVec 6) : Form.Statement (.routeStepDone ctx) := by
  simp [Form.Statement, portOf, offsetOf, queueOf]
theorem Form.combine (ctx : BitVec 6) : Form.Statement (.combine ctx) := by
  simp [Form.Statement, portOf, offsetOf, queueOf]
theorem Form.combineStart (ctx : BitVec 6) : Form.Statement (.combineStart ctx) := by
  simp [Form.Statement, portOf, offsetOf, queueOf]
theorem Form.dispatch : Form.Statement .dispatch := by
  simp [Form.Statement, portOf, offsetOf, queueOf]
theorem Form.copy (ctx : BitVec 6) : Form.Statement (.copy ctx) := by
  simp [Form.Statement, portOf, offsetOf, queueOf]
theorem Form.collect (ctx : BitVec 6) : Form.Statement (.collect ctx) := by
  simp [Form.Statement, portOf, offsetOf, queueOf]
theorem Form.pieceAdmit (group : BitVec 4) : Form.Statement (.pieceAdmit group) := by
  simp [Form.Statement, portOf, offsetOf, queueOf]
theorem Form.collectDone (ctx : BitVec 6) : Form.Statement (.collectDone ctx) := by
  simp [Form.Statement, portOf, offsetOf, queueOf]
theorem Form.collectDeadline (group : BitVec 4) : Form.Statement (.collectDeadline group) := by
  simp [Form.Statement, portOf, offsetOf, queueOf]
theorem Form.muster (ctx : BitVec 6) : Form.Statement (.muster ctx) := by
  simp [Form.Statement, portOf, offsetOf, queueOf]
theorem Form.musterArriveLocal (group : BitVec 4) : Form.Statement (.musterArriveLocal group) := by
  simp [Form.Statement, portOf, offsetOf, queueOf]
theorem Form.musterReleaseTick (group : BitVec 4) : Form.Statement (.musterReleaseTick group) := by
  simp [Form.Statement, portOf, offsetOf, queueOf]
theorem Form.musterDeadline (group : BitVec 4) : Form.Statement (.musterDeadline group) := by
  simp [Form.Statement, portOf, offsetOf, queueOf]
theorem Form.cancelBatch : Form.Statement .cancelBatch := by
  simp [Form.Statement, portOf, offsetOf, queueOf]
theorem Form.saveContext (ctx : BitVec 6) : Form.Statement (.saveContext ctx) := by
  simp [Form.Statement, portOf, offsetOf, queueOf]
theorem Form.resume : Form.Statement .resume := by
  simp [Form.Statement, portOf, offsetOf, queueOf]
theorem Form.regRead (queue : BitVec 7) : Form.Statement (.regRead queue) := by
  simp [Form.Statement, Instr.wf, portOf, offsetOf, queueOf, queueOk]
theorem Form.regWrite (queue : BitVec 7) : Form.Statement (.regWrite queue) := by
  simp [Form.Statement, Instr.wf, portOf, offsetOf, queueOf, queueOk]
theorem Form.registerWrite (offset : BitVec 22) (data : W32) : Form.Statement (.registerWrite offset data) := by
  simp [Form.Statement, Instr.wf, portOf, offsetOf, queueOf, offsetOk]
theorem Form.dump : Form.Statement .dump := by
  simp [Form.Statement, portOf, offsetOf, queueOf]
theorem Form.shutdown : Form.Statement .shutdown := by
  simp [Form.Statement, portOf, offsetOf, queueOf]
theorem Form.calSlotDataWrite (slot : BitVec 1) (data : W32) : Form.Statement (.calSlotDataWrite slot data) := by
  simp [Form.Statement, portOf, offsetOf, queueOf]
theorem Form.calSlotCommit (slot : BitVec 1) (data : W32) : Form.Statement (.calSlotCommit slot data) := by
  simp [Form.Statement, portOf, offsetOf, queueOf]
theorem Form.xltInvalGo (data : W32) : Form.Statement (.xltInvalGo data) := by
  simp [Form.Statement, portOf, offsetOf, queueOf]
theorem Form.ctxCreate : Form.Statement .ctxCreate := by
  simp [Form.Statement, portOf, offsetOf, queueOf]
theorem Form.ctxDestroy : Form.Statement .ctxDestroy := by
  simp [Form.Statement, portOf, offsetOf, queueOf]
theorem Form.thmGroupOpen (group : BitVec 4) (data : W32) : Form.Statement (.thmGroupOpen group data) := by
  simp [Form.Statement, portOf, offsetOf, queueOf]
theorem Form.thmGroupClose (group : BitVec 4) (data : W32) : Form.Statement (.thmGroupClose group data) := by
  simp [Form.Statement, portOf, offsetOf, queueOf]
theorem Form.abort (group : BitVec 4) (data : W32) : Form.Statement (.abort group data) := by
  simp [Form.Statement, portOf, offsetOf, queueOf]
theorem Form.dropRest : Form.Statement .dropRest := by
  simp [Form.Statement, portOf, offsetOf, queueOf]
theorem Form.talSelWrite (data : W32) : Form.Statement (.talSelWrite data) := by
  simp [Form.Statement, portOf, offsetOf, queueOf]
theorem Form.talStageDataWrite (data : W32) : Form.Statement (.talStageDataWrite data) := by
  simp [Form.Statement, portOf, offsetOf, queueOf]
theorem Form.talGo : Form.Statement .talGo := by
  simp [Form.Statement, portOf, offsetOf, queueOf]
theorem Form.tallyCommitDone : Form.Statement .tallyCommitDone := by
  simp [Form.Statement, portOf, offsetOf, queueOf]
theorem Form.obsMarkWrite (data : W32) : Form.Statement (.obsMarkWrite data) := by
  simp [Form.Statement, portOf, offsetOf, queueOf]
theorem Form.traceEnable (data : W32) : Form.Statement (.traceEnable data) := by
  simp [Form.Statement, portOf, offsetOf, queueOf]
theorem Form.traceDisable (data : W32) : Form.Statement (.traceDisable data) := by
  simp [Form.Statement, portOf, offsetOf, queueOf]
theorem Form.trigger : Form.Statement .trigger := by
  simp [Form.Statement, portOf, offsetOf, queueOf]
theorem Form.arm : Form.Statement .arm := by
  simp [Form.Statement, portOf, offsetOf, queueOf]
theorem Form.traceIdleFlush : Form.Statement .traceIdleFlush := by
  simp [Form.Statement, portOf, offsetOf, queueOf]
theorem Form.mrlPcEnable (data : W32) : Form.Statement (.mrlPcEnable data) := by
  simp [Form.Statement, portOf, offsetOf, queueOf]
theorem Form.pcSample : Form.Statement .pcSample := by
  simp [Form.Statement, portOf, offsetOf, queueOf]
theorem Form.paceClr : Form.Statement .paceClr := by
  simp [Form.Statement, portOf, offsetOf, queueOf]
theorem Form.asyGo (data : W32) : Form.Statement (.asyGo data) := by
  simp [Form.Statement, portOf, offsetOf, queueOf]
theorem Form.asy1500Shift (data : W32) : Form.Statement (.asy1500Shift data) := by
  simp [Form.Statement, portOf, offsetOf, queueOf]
theorem Form.linkFlitReceive (port : BitVec 6) (flit : BitVec 640) : Form.Statement (.linkFlitReceive port flit) := by
  simp [Form.Statement, Instr.wf, portOf, offsetOf, queueOf, portOk]
theorem Form.nakReceive (port : BitVec 6) (crcGood : Bool) (lack : BitVec 10) (expected : BitVec 10) :
    Form.Statement (.nakReceive port crcGood lack expected) := by
  simp [Form.Statement, Instr.wf, portOf, offsetOf, queueOf, portOk]
theorem Form.creditReceive (port : BitVec 6) (crcGood : Bool) (lack : BitVec 10) (drained : BitVec 96) :
    Form.Statement (.creditReceive port crcGood lack drained) := by
  simp [Form.Statement, Instr.wf, portOf, offsetOf, queueOf, portOk]
theorem Form.linkRetryTimeout (port : BitVec 6) : Form.Statement (.linkRetryTimeout port) := by
  simp [Form.Statement, Instr.wf, portOf, offsetOf, queueOf, portOk]
theorem Form.tokenPacketReceive : Form.Statement .tokenPacketReceive := by
  simp [Form.Statement, portOf, offsetOf, queueOf]
theorem Form.endPacketReceive : Form.Statement .endPacketReceive := by
  simp [Form.Statement, portOf, offsetOf, queueOf]
theorem Form.homeHalfSort : Form.Statement .homeHalfSort := by
  simp [Form.Statement, portOf, offsetOf, queueOf]
theorem Form.answerPacketReceive : Form.Statement .answerPacketReceive := by
  simp [Form.Statement, portOf, offsetOf, queueOf]
theorem Form.skeinReadDone : Form.Statement .skeinReadDone := by
  simp [Form.Statement, portOf, offsetOf, queueOf]
theorem Form.collectPartialReceive : Form.Statement .collectPartialReceive := by
  simp [Form.Statement, portOf, offsetOf, queueOf]
theorem Form.admitReceive : Form.Statement .admitReceive := by
  simp [Form.Statement, portOf, offsetOf, queueOf]
theorem Form.resultReceive : Form.Statement .resultReceive := by
  simp [Form.Statement, portOf, offsetOf, queueOf]
theorem Form.collectVoidReceive : Form.Statement .collectVoidReceive := by
  simp [Form.Statement, portOf, offsetOf, queueOf]
theorem Form.musterArriveReceive : Form.Statement .musterArriveReceive := by
  simp [Form.Statement, portOf, offsetOf, queueOf]
theorem Form.musterReleaseReceive : Form.Statement .musterReleaseReceive := by
  simp [Form.Statement, portOf, offsetOf, queueOf]
theorem Form.musterVoidReceive : Form.Statement .musterVoidReceive := by
  simp [Form.Statement, portOf, offsetOf, queueOf]
theorem Form.tandemRecordReceive : Form.Statement .tandemRecordReceive := by
  simp [Form.Statement, portOf, offsetOf, queueOf]
theorem Form.tandemWindowExpiry : Form.Statement .tandemWindowExpiry := by
  simp [Form.Statement, portOf, offsetOf, queueOf]
theorem Form.stcSyncExchange (port : BitVec 6) : Form.Statement (.stcSyncExchange port) := by
  simp [Form.Statement, Instr.wf, portOf, offsetOf, queueOf, portOk]
theorem Form.stcSyncReceive (port : BitVec 6) (crcGood : Bool) (error : SyncTimes) :
    Form.Statement (.stcSyncReceive port crcGood error) := by
  simp [Form.Statement, Instr.wf, portOf, offsetOf, queueOf, portOk]
theorem Form.stcrefCycle : Form.Statement .stcrefCycle := by
  simp [Form.Statement, portOf, offsetOf, queueOf]
theorem Form.wpCardAck : Form.Statement .wpCardAck := by
  simp [Form.Statement, portOf, offsetOf, queueOf]
theorem Form.wpCompletion (hank : Hank) : Form.Statement (.wpCompletion hank) := by
  simp [Form.Statement, portOf, offsetOf, queueOf]
theorem Form.tileHeaderArrive (hank : Hank) : Form.Statement (.tileHeaderArrive hank) := by
  simp [Form.Statement, portOf, offsetOf, queueOf]
theorem Form.tileReceive (hanks : List Hank) : Form.Statement (.tileReceive hanks) := by
  simp [Form.Statement, portOf, offsetOf, queueOf]
theorem Form.memoryResponse (line : BitVec 33) (id : BitVec 8) (status : BitVec 2) (data : BitVec 2048) :
    Form.Statement (.memoryResponse line id status data) := by
  simp [Form.Statement, portOf, offsetOf, queueOf]
theorem Form.coilGrant : Form.Statement .coilGrant := by
  simp [Form.Statement, portOf, offsetOf, queueOf]
theorem Form.saveStart (ctx : BitVec 6) : Form.Statement (.saveStart ctx) := by
  simp [Form.Statement, portOf, offsetOf, queueOf]
theorem Form.saveDone (ctx : BitVec 6) : Form.Statement (.saveDone ctx) := by
  simp [Form.Statement, portOf, offsetOf, queueOf]
theorem Form.restoreDone (ctx : BitVec 6) : Form.Statement (.restoreDone ctx) := by
  simp [Form.Statement, portOf, offsetOf, queueOf]
theorem Form.autoRestore (ctx : BitVec 6) : Form.Statement (.autoRestore ctx) := by
  simp [Form.Statement, portOf, offsetOf, queueOf]
theorem Form.unitYield : Form.Statement .unitYield := by
  simp [Form.Statement, portOf, offsetOf, queueOf]
theorem Form.homedDeadline : Form.Statement .homedDeadline := by
  simp [Form.Statement, portOf, offsetOf, queueOf]
theorem Form.watchdogLimit : Form.Statement .watchdogLimit := by
  simp [Form.Statement, portOf, offsetOf, queueOf]
theorem Form.paceWindowEnd (count : BitVec 32) : Form.Statement (.paceWindowEnd count) := by
  simp [Form.Statement, portOf, offsetOf, queueOf]
theorem Form.tempReport (tj : BitVec 8) (sensor : BitVec 4) : Form.Statement (.tempReport tj sensor) := by
  simp [Form.Statement, portOf, offsetOf, queueOf]
theorem Form.railReading (vzc : BitVec 10) (vzs : BitVec 10) : Form.Statement (.railReading vzc vzs) := by
  simp [Form.Statement, portOf, offsetOf, queueOf]
theorem Form.ceilChange (ceil : BitVec 12) (valid : Bool) : Form.Statement (.ceilChange ceil valid) := by
  simp [Form.Statement, portOf, offsetOf, queueOf]
theorem Form.throttleWindow : Form.Statement .throttleWindow := by
  simp [Form.Statement, portOf, offsetOf, queueOf]
theorem Form.throttleHoldStart : Form.Statement .throttleHoldStart := by
  simp [Form.Statement, portOf, offsetOf, queueOf]
theorem Form.drawPublish : Form.Statement .drawPublish := by
  simp [Form.Statement, portOf, offsetOf, queueOf]
theorem Form.secondEnd : Form.Statement .secondEnd := by
  simp [Form.Statement, portOf, offsetOf, queueOf]
theorem Form.wearMeasure (cls : BitVec 4) (array : BitVec 2) (index : BitVec 8) (wear : W16) :
    Form.Statement (.wearMeasure cls array index wear) := by
  simp [Form.Statement, portOf, offsetOf, queueOf]
theorem Form.assaySliceEnd (fails : List Failure) : Form.Statement (.assaySliceEnd fails) := by
  simp [Form.Statement, portOf, offsetOf, queueOf]
theorem Form.sliceBudgetExpiry (fails : List Failure) : Form.Statement (.sliceBudgetExpiry fails) := by
  simp [Form.Statement, portOf, offsetOf, queueOf]
theorem Form.assayEnd : Form.Statement .assayEnd := by
  simp [Form.Statement, portOf, offsetOf, queueOf]
theorem Form.porstNRelease : Form.Statement .porstNRelease := by
  simp [Form.Statement, portOf, offsetOf, queueOf]
theorem Form.linkTrained (port : BitVec 6) : Form.Statement (.linkTrained port) := by
  simp [Form.Statement, Instr.wf, portOf, offsetOf, queueOf, portOk]
theorem Form.lossOfPower : Form.Statement .lossOfPower := by
  simp [Form.Statement, portOf, offsetOf, queueOf]

end Sys2Proof.Laws
end

