-- ==== Sys2Proof/Laws/State.lean ====
section
/-! SUPPORT. What each named update of the body leaves alone and what it sets, field by field, so that no proof unfolds a
record update. -/

namespace Sys2Proof.Machine

set_option Elab.async false

/-! ### modCtx -/

@[simp] theorem Body.modCtx_mem (b : Body) (c : Nat) (f : Ctx → Ctx) : (b.modCtx c f).mem = b.mem := rfl
@[simp] theorem Body.modCtx_blk (b : Body) (c : Nat) (f : Ctx → Ctx) : (b.modCtx c f).blk = b.blk := rfl
@[simp] theorem Body.modCtx_cp (b : Body) (c : Nat) (f : Ctx → Ctx) : (b.modCtx c f).cp = b.cp := rfl
@[simp] theorem Body.modCtx_ctxs (b : Body) (c : Nat) (f : Ctx → Ctx) :
    (b.modCtx c f).ctxs = tmod b.ctxs c f := rfl
@[simp] theorem Body.modCtx_opens (b : Body) (c : Nat) (f : Ctx → Ctx) : (b.modCtx c f).opens = b.opens := rfl
@[simp] theorem Body.modCtx_nextOid (b : Body) (c : Nat) (f : Ctx → Ctx) : (b.modCtx c f).nextOid = b.nextOid := rfl
@[simp] theorem Body.modCtx_nextUid (b : Body) (c : Nat) (f : Ctx → Ctx) : (b.modCtx c f).nextUid = b.nextUid := rfl
@[simp] theorem Body.modCtx_freeCtr (b : Body) (c : Nat) (f : Ctx → Ctx) : (b.modCtx c f).freeCtr = b.freeCtr := rfl
@[simp] theorem Body.modCtx_xlt (b : Body) (c : Nat) (f : Ctx → Ctx) : (b.modCtx c f).xlt = b.xlt := rfl
@[simp] theorem Body.modCtx_coil (b : Body) (c : Nat) (f : Ctx → Ctx) : (b.modCtx c f).coil = b.coil := rfl
@[simp] theorem Body.modCtx_parts (b : Body) (c : Nat) (f : Ctx → Ctx) : (b.modCtx c f).parts = b.parts := rfl
@[simp] theorem Body.modCtx_cr (b : Body) (c : Nat) (f : Ctx → Ctx) : (b.modCtx c f).cr = b.cr := rfl
@[simp] theorem Body.modCtx_slots (b : Body) (c : Nat) (f : Ctx → Ctx) : (b.modCtx c f).slots = b.slots := rfl
@[simp] theorem Body.modCtx_units (b : Body) (c : Nat) (f : Ctx → Ctx) : (b.modCtx c f).units = b.units := rfl
@[simp] theorem Body.modCtx_mrl (b : Body) (c : Nat) (f : Ctx → Ctx) : (b.modCtx c f).mrl = b.mrl := rfl
@[simp] theorem Body.modCtx_stepSel (b : Body) (c : Nat) (f : Ctx → Ctx) : (b.modCtx c f).stepSel = b.stepSel := rfl
@[simp] theorem Body.modCtx_ledSel (b : Body) (c : Nat) (f : Ctx → Ctx) : (b.modCtx c f).ledSel = b.ledSel := rfl
@[simp] theorem Body.modCtx_ledEnt (b : Body) (c : Nat) (f : Ctx → Ctx) : (b.modCtx c f).ledEnt = b.ledEnt := rfl
@[simp] theorem Body.modCtx_gens (b : Body) (c : Nat) (f : Ctx → Ctx) : (b.modCtx c f).gens = b.gens := rfl
@[simp] theorem Body.modCtx_genSel (b : Body) (c : Nat) (f : Ctx → Ctx) : (b.modCtx c f).genSel = b.genSel := rfl
@[simp] theorem Body.modCtx_skn (b : Body) (c : Nat) (f : Ctx → Ctx) : (b.modCtx c f).skn = b.skn := rfl
@[simp] theorem Body.modCtx_fab (b : Body) (c : Nat) (f : Ctx → Ctx) : (b.modCtx c f).fab = b.fab := rfl
@[simp] theorem Body.modCtx_thm (b : Body) (c : Nat) (f : Ctx → Ctx) : (b.modCtx c f).thm = b.thm := rfl
@[simp] theorem Body.modCtx_stc (b : Body) (c : Nat) (f : Ctx → Ctx) : (b.modCtx c f).stc = b.stc := rfl
@[simp] theorem Body.modCtx_lay (b : Body) (c : Nat) (f : Ctx → Ctx) : (b.modCtx c f).lay = b.lay := rfl
@[simp] theorem Body.modCtx_obs (b : Body) (c : Nat) (f : Ctx → Ctx) : (b.modCtx c f).obs = b.obs := rfl
@[simp] theorem Body.modCtx_hang (b : Body) (c : Nat) (f : Ctx → Ctx) : (b.modCtx c f).hang = b.hang := rfl
@[simp] theorem Body.modCtx_pwr (b : Body) (c : Nat) (f : Ctx → Ctx) : (b.modCtx c f).pwr = b.pwr := rfl

/-! ### modOpen -/

@[simp] theorem Body.modOpen_mem (b : Body) (oid : Nat) (f : Open → Open) : (b.modOpen oid f).mem = b.mem := rfl
@[simp] theorem Body.modOpen_blk (b : Body) (oid : Nat) (f : Open → Open) : (b.modOpen oid f).blk = b.blk := rfl
@[simp] theorem Body.modOpen_cp (b : Body) (oid : Nat) (f : Open → Open) : (b.modOpen oid f).cp = b.cp := rfl
@[simp] theorem Body.modOpen_ctxs (b : Body) (oid : Nat) (f : Open → Open) : (b.modOpen oid f).ctxs = b.ctxs := rfl
@[simp] theorem Body.modOpen_opens (b : Body) (oid : Nat) (f : Open → Open) :
    (b.modOpen oid f).opens = b.opens.map (fun o => if o.oid == oid then f o else o) := rfl
@[simp] theorem Body.modOpen_nextOid (b : Body) (oid : Nat) (f : Open → Open) : (b.modOpen oid f).nextOid = b.nextOid := rfl
@[simp] theorem Body.modOpen_nextUid (b : Body) (oid : Nat) (f : Open → Open) : (b.modOpen oid f).nextUid = b.nextUid := rfl
@[simp] theorem Body.modOpen_freeCtr (b : Body) (oid : Nat) (f : Open → Open) : (b.modOpen oid f).freeCtr = b.freeCtr := rfl
@[simp] theorem Body.modOpen_xlt (b : Body) (oid : Nat) (f : Open → Open) : (b.modOpen oid f).xlt = b.xlt := rfl
@[simp] theorem Body.modOpen_coil (b : Body) (oid : Nat) (f : Open → Open) : (b.modOpen oid f).coil = b.coil := rfl
@[simp] theorem Body.modOpen_parts (b : Body) (oid : Nat) (f : Open → Open) : (b.modOpen oid f).parts = b.parts := rfl
@[simp] theorem Body.modOpen_cr (b : Body) (oid : Nat) (f : Open → Open) : (b.modOpen oid f).cr = b.cr := rfl
@[simp] theorem Body.modOpen_slots (b : Body) (oid : Nat) (f : Open → Open) : (b.modOpen oid f).slots = b.slots := rfl
@[simp] theorem Body.modOpen_units (b : Body) (oid : Nat) (f : Open → Open) : (b.modOpen oid f).units = b.units := rfl
@[simp] theorem Body.modOpen_mrl (b : Body) (oid : Nat) (f : Open → Open) : (b.modOpen oid f).mrl = b.mrl := rfl
@[simp] theorem Body.modOpen_stepSel (b : Body) (oid : Nat) (f : Open → Open) : (b.modOpen oid f).stepSel = b.stepSel := rfl
@[simp] theorem Body.modOpen_ledSel (b : Body) (oid : Nat) (f : Open → Open) : (b.modOpen oid f).ledSel = b.ledSel := rfl
@[simp] theorem Body.modOpen_ledEnt (b : Body) (oid : Nat) (f : Open → Open) : (b.modOpen oid f).ledEnt = b.ledEnt := rfl
@[simp] theorem Body.modOpen_gens (b : Body) (oid : Nat) (f : Open → Open) : (b.modOpen oid f).gens = b.gens := rfl
@[simp] theorem Body.modOpen_genSel (b : Body) (oid : Nat) (f : Open → Open) : (b.modOpen oid f).genSel = b.genSel := rfl
@[simp] theorem Body.modOpen_skn (b : Body) (oid : Nat) (f : Open → Open) : (b.modOpen oid f).skn = b.skn := rfl
@[simp] theorem Body.modOpen_fab (b : Body) (oid : Nat) (f : Open → Open) : (b.modOpen oid f).fab = b.fab := rfl
@[simp] theorem Body.modOpen_thm (b : Body) (oid : Nat) (f : Open → Open) : (b.modOpen oid f).thm = b.thm := rfl
@[simp] theorem Body.modOpen_stc (b : Body) (oid : Nat) (f : Open → Open) : (b.modOpen oid f).stc = b.stc := rfl
@[simp] theorem Body.modOpen_lay (b : Body) (oid : Nat) (f : Open → Open) : (b.modOpen oid f).lay = b.lay := rfl
@[simp] theorem Body.modOpen_obs (b : Body) (oid : Nat) (f : Open → Open) : (b.modOpen oid f).obs = b.obs := rfl
@[simp] theorem Body.modOpen_hang (b : Body) (oid : Nat) (f : Open → Open) : (b.modOpen oid f).hang = b.hang := rfl
@[simp] theorem Body.modOpen_pwr (b : Body) (oid : Nat) (f : Open → Open) : (b.modOpen oid f).pwr = b.pwr := rfl

/-! ### modGen -/

@[simp] theorem Body.modGen_mem (b : Body) (uid : Nat) (f : GenEnt → GenEnt) : (b.modGen uid f).mem = b.mem := rfl
@[simp] theorem Body.modGen_blk (b : Body) (uid : Nat) (f : GenEnt → GenEnt) : (b.modGen uid f).blk = b.blk := rfl
@[simp] theorem Body.modGen_cp (b : Body) (uid : Nat) (f : GenEnt → GenEnt) : (b.modGen uid f).cp = b.cp := rfl
@[simp] theorem Body.modGen_ctxs (b : Body) (uid : Nat) (f : GenEnt → GenEnt) : (b.modGen uid f).ctxs = b.ctxs := rfl
@[simp] theorem Body.modGen_opens (b : Body) (uid : Nat) (f : GenEnt → GenEnt) : (b.modGen uid f).opens = b.opens := rfl
@[simp] theorem Body.modGen_nextOid (b : Body) (uid : Nat) (f : GenEnt → GenEnt) : (b.modGen uid f).nextOid = b.nextOid := rfl
@[simp] theorem Body.modGen_nextUid (b : Body) (uid : Nat) (f : GenEnt → GenEnt) : (b.modGen uid f).nextUid = b.nextUid := rfl
@[simp] theorem Body.modGen_freeCtr (b : Body) (uid : Nat) (f : GenEnt → GenEnt) : (b.modGen uid f).freeCtr = b.freeCtr := rfl
@[simp] theorem Body.modGen_xlt (b : Body) (uid : Nat) (f : GenEnt → GenEnt) : (b.modGen uid f).xlt = b.xlt := rfl
@[simp] theorem Body.modGen_coil (b : Body) (uid : Nat) (f : GenEnt → GenEnt) : (b.modGen uid f).coil = b.coil := rfl
@[simp] theorem Body.modGen_parts (b : Body) (uid : Nat) (f : GenEnt → GenEnt) : (b.modGen uid f).parts = b.parts := rfl
@[simp] theorem Body.modGen_cr (b : Body) (uid : Nat) (f : GenEnt → GenEnt) : (b.modGen uid f).cr = b.cr := rfl
@[simp] theorem Body.modGen_slots (b : Body) (uid : Nat) (f : GenEnt → GenEnt) : (b.modGen uid f).slots = b.slots := rfl
@[simp] theorem Body.modGen_units (b : Body) (uid : Nat) (f : GenEnt → GenEnt) : (b.modGen uid f).units = b.units := rfl
@[simp] theorem Body.modGen_mrl (b : Body) (uid : Nat) (f : GenEnt → GenEnt) : (b.modGen uid f).mrl = b.mrl := rfl
@[simp] theorem Body.modGen_stepSel (b : Body) (uid : Nat) (f : GenEnt → GenEnt) : (b.modGen uid f).stepSel = b.stepSel := rfl
@[simp] theorem Body.modGen_ledSel (b : Body) (uid : Nat) (f : GenEnt → GenEnt) : (b.modGen uid f).ledSel = b.ledSel := rfl
@[simp] theorem Body.modGen_ledEnt (b : Body) (uid : Nat) (f : GenEnt → GenEnt) : (b.modGen uid f).ledEnt = b.ledEnt := rfl
@[simp] theorem Body.modGen_gens (b : Body) (uid : Nat) (f : GenEnt → GenEnt) :
    (b.modGen uid f).gens = b.gens.map (fun g => if g.uid == uid then f g else g) := rfl
@[simp] theorem Body.modGen_genSel (b : Body) (uid : Nat) (f : GenEnt → GenEnt) : (b.modGen uid f).genSel = b.genSel := rfl
@[simp] theorem Body.modGen_skn (b : Body) (uid : Nat) (f : GenEnt → GenEnt) : (b.modGen uid f).skn = b.skn := rfl
@[simp] theorem Body.modGen_fab (b : Body) (uid : Nat) (f : GenEnt → GenEnt) : (b.modGen uid f).fab = b.fab := rfl
@[simp] theorem Body.modGen_thm (b : Body) (uid : Nat) (f : GenEnt → GenEnt) : (b.modGen uid f).thm = b.thm := rfl
@[simp] theorem Body.modGen_stc (b : Body) (uid : Nat) (f : GenEnt → GenEnt) : (b.modGen uid f).stc = b.stc := rfl
@[simp] theorem Body.modGen_lay (b : Body) (uid : Nat) (f : GenEnt → GenEnt) : (b.modGen uid f).lay = b.lay := rfl
@[simp] theorem Body.modGen_obs (b : Body) (uid : Nat) (f : GenEnt → GenEnt) : (b.modGen uid f).obs = b.obs := rfl
@[simp] theorem Body.modGen_hang (b : Body) (uid : Nat) (f : GenEnt → GenEnt) : (b.modGen uid f).hang = b.hang := rfl
@[simp] theorem Body.modGen_pwr (b : Body) (uid : Nat) (f : GenEnt → GenEnt) : (b.modGen uid f).pwr = b.pwr := rfl

/-! ### modHome -/

@[simp] theorem Body.modHome_mem (b : Body) (uid : Nat) (f : HomeRole → HomeRole) : (b.modHome uid f).mem = b.mem := rfl
@[simp] theorem Body.modHome_blk (b : Body) (uid : Nat) (f : HomeRole → HomeRole) : (b.modHome uid f).blk = b.blk := rfl
@[simp] theorem Body.modHome_cp (b : Body) (uid : Nat) (f : HomeRole → HomeRole) : (b.modHome uid f).cp = b.cp := rfl
@[simp] theorem Body.modHome_ctxs (b : Body) (uid : Nat) (f : HomeRole → HomeRole) : (b.modHome uid f).ctxs = b.ctxs := rfl
@[simp] theorem Body.modHome_opens (b : Body) (uid : Nat) (f : HomeRole → HomeRole) : (b.modHome uid f).opens = b.opens := rfl
@[simp] theorem Body.modHome_nextOid (b : Body) (uid : Nat) (f : HomeRole → HomeRole) : (b.modHome uid f).nextOid = b.nextOid := rfl
@[simp] theorem Body.modHome_nextUid (b : Body) (uid : Nat) (f : HomeRole → HomeRole) : (b.modHome uid f).nextUid = b.nextUid := rfl
@[simp] theorem Body.modHome_freeCtr (b : Body) (uid : Nat) (f : HomeRole → HomeRole) : (b.modHome uid f).freeCtr = b.freeCtr := rfl
@[simp] theorem Body.modHome_xlt (b : Body) (uid : Nat) (f : HomeRole → HomeRole) : (b.modHome uid f).xlt = b.xlt := rfl
@[simp] theorem Body.modHome_coil (b : Body) (uid : Nat) (f : HomeRole → HomeRole) : (b.modHome uid f).coil = b.coil := rfl
@[simp] theorem Body.modHome_parts (b : Body) (uid : Nat) (f : HomeRole → HomeRole) : (b.modHome uid f).parts = b.parts := rfl
@[simp] theorem Body.modHome_cr (b : Body) (uid : Nat) (f : HomeRole → HomeRole) : (b.modHome uid f).cr = b.cr := rfl
@[simp] theorem Body.modHome_slots (b : Body) (uid : Nat) (f : HomeRole → HomeRole) : (b.modHome uid f).slots = b.slots := rfl
@[simp] theorem Body.modHome_units (b : Body) (uid : Nat) (f : HomeRole → HomeRole) : (b.modHome uid f).units = b.units := rfl
@[simp] theorem Body.modHome_mrl (b : Body) (uid : Nat) (f : HomeRole → HomeRole) : (b.modHome uid f).mrl = b.mrl := rfl
@[simp] theorem Body.modHome_stepSel (b : Body) (uid : Nat) (f : HomeRole → HomeRole) : (b.modHome uid f).stepSel = b.stepSel := rfl
@[simp] theorem Body.modHome_ledSel (b : Body) (uid : Nat) (f : HomeRole → HomeRole) : (b.modHome uid f).ledSel = b.ledSel := rfl
@[simp] theorem Body.modHome_ledEnt (b : Body) (uid : Nat) (f : HomeRole → HomeRole) : (b.modHome uid f).ledEnt = b.ledEnt := rfl
@[simp] theorem Body.modHome_genSel (b : Body) (uid : Nat) (f : HomeRole → HomeRole) : (b.modHome uid f).genSel = b.genSel := rfl
@[simp] theorem Body.modHome_skn (b : Body) (uid : Nat) (f : HomeRole → HomeRole) : (b.modHome uid f).skn = b.skn := rfl
@[simp] theorem Body.modHome_fab (b : Body) (uid : Nat) (f : HomeRole → HomeRole) : (b.modHome uid f).fab = b.fab := rfl
@[simp] theorem Body.modHome_thm (b : Body) (uid : Nat) (f : HomeRole → HomeRole) : (b.modHome uid f).thm = b.thm := rfl
@[simp] theorem Body.modHome_stc (b : Body) (uid : Nat) (f : HomeRole → HomeRole) : (b.modHome uid f).stc = b.stc := rfl
@[simp] theorem Body.modHome_lay (b : Body) (uid : Nat) (f : HomeRole → HomeRole) : (b.modHome uid f).lay = b.lay := rfl
@[simp] theorem Body.modHome_obs (b : Body) (uid : Nat) (f : HomeRole → HomeRole) : (b.modHome uid f).obs = b.obs := rfl
@[simp] theorem Body.modHome_hang (b : Body) (uid : Nat) (f : HomeRole → HomeRole) : (b.modHome uid f).hang = b.hang := rfl
@[simp] theorem Body.modHome_pwr (b : Body) (uid : Nat) (f : HomeRole → HomeRole) : (b.modHome uid f).pwr = b.pwr := rfl

/-! ### modGroup -/

@[simp] theorem Body.modGroup_mem (b : Body) (n : Nat) (f : Group → Group) : (b.modGroup n f).mem = b.mem := rfl
@[simp] theorem Body.modGroup_blk (b : Body) (n : Nat) (f : Group → Group) : (b.modGroup n f).blk = b.blk := rfl
@[simp] theorem Body.modGroup_cp (b : Body) (n : Nat) (f : Group → Group) : (b.modGroup n f).cp = b.cp := rfl
@[simp] theorem Body.modGroup_ctxs (b : Body) (n : Nat) (f : Group → Group) : (b.modGroup n f).ctxs = b.ctxs := rfl
@[simp] theorem Body.modGroup_opens (b : Body) (n : Nat) (f : Group → Group) : (b.modGroup n f).opens = b.opens := rfl
@[simp] theorem Body.modGroup_nextOid (b : Body) (n : Nat) (f : Group → Group) : (b.modGroup n f).nextOid = b.nextOid := rfl
@[simp] theorem Body.modGroup_nextUid (b : Body) (n : Nat) (f : Group → Group) : (b.modGroup n f).nextUid = b.nextUid := rfl
@[simp] theorem Body.modGroup_freeCtr (b : Body) (n : Nat) (f : Group → Group) : (b.modGroup n f).freeCtr = b.freeCtr := rfl
@[simp] theorem Body.modGroup_xlt (b : Body) (n : Nat) (f : Group → Group) : (b.modGroup n f).xlt = b.xlt := rfl
@[simp] theorem Body.modGroup_coil (b : Body) (n : Nat) (f : Group → Group) : (b.modGroup n f).coil = b.coil := rfl
@[simp] theorem Body.modGroup_parts (b : Body) (n : Nat) (f : Group → Group) : (b.modGroup n f).parts = b.parts := rfl
@[simp] theorem Body.modGroup_cr (b : Body) (n : Nat) (f : Group → Group) : (b.modGroup n f).cr = b.cr := rfl
@[simp] theorem Body.modGroup_slots (b : Body) (n : Nat) (f : Group → Group) : (b.modGroup n f).slots = b.slots := rfl
@[simp] theorem Body.modGroup_units (b : Body) (n : Nat) (f : Group → Group) : (b.modGroup n f).units = b.units := rfl
@[simp] theorem Body.modGroup_mrl (b : Body) (n : Nat) (f : Group → Group) : (b.modGroup n f).mrl = b.mrl := rfl
@[simp] theorem Body.modGroup_stepSel (b : Body) (n : Nat) (f : Group → Group) : (b.modGroup n f).stepSel = b.stepSel := rfl
@[simp] theorem Body.modGroup_ledSel (b : Body) (n : Nat) (f : Group → Group) : (b.modGroup n f).ledSel = b.ledSel := rfl
@[simp] theorem Body.modGroup_ledEnt (b : Body) (n : Nat) (f : Group → Group) : (b.modGroup n f).ledEnt = b.ledEnt := rfl
@[simp] theorem Body.modGroup_gens (b : Body) (n : Nat) (f : Group → Group) : (b.modGroup n f).gens = b.gens := rfl
@[simp] theorem Body.modGroup_genSel (b : Body) (n : Nat) (f : Group → Group) : (b.modGroup n f).genSel = b.genSel := rfl
@[simp] theorem Body.modGroup_skn (b : Body) (n : Nat) (f : Group → Group) : (b.modGroup n f).skn = b.skn := rfl
@[simp] theorem Body.modGroup_fab (b : Body) (n : Nat) (f : Group → Group) : (b.modGroup n f).fab = b.fab := rfl
@[simp] theorem Body.modGroup_thm (b : Body) (n : Nat) (f : Group → Group) :
    (b.modGroup n f).thm = { b.thm with groups := tmod b.thm.groups n f } := rfl
@[simp] theorem Body.modGroup_stc (b : Body) (n : Nat) (f : Group → Group) : (b.modGroup n f).stc = b.stc := rfl
@[simp] theorem Body.modGroup_lay (b : Body) (n : Nat) (f : Group → Group) : (b.modGroup n f).lay = b.lay := rfl
@[simp] theorem Body.modGroup_obs (b : Body) (n : Nat) (f : Group → Group) : (b.modGroup n f).obs = b.obs := rfl
@[simp] theorem Body.modGroup_hang (b : Body) (n : Nat) (f : Group → Group) : (b.modGroup n f).hang = b.hang := rfl
@[simp] theorem Body.modGroup_pwr (b : Body) (n : Nat) (f : Group → Group) : (b.modGroup n f).pwr = b.pwr := rfl

/-! ### modPiece -/

@[simp] theorem Body.modPiece_mem (b : Body) (oid pos : Nat) (f : Piece → Piece) : (b.modPiece oid pos f).mem = b.mem := rfl
@[simp] theorem Body.modPiece_blk (b : Body) (oid pos : Nat) (f : Piece → Piece) : (b.modPiece oid pos f).blk = b.blk := rfl
@[simp] theorem Body.modPiece_cp (b : Body) (oid pos : Nat) (f : Piece → Piece) : (b.modPiece oid pos f).cp = b.cp := rfl
@[simp] theorem Body.modPiece_ctxs (b : Body) (oid pos : Nat) (f : Piece → Piece) : (b.modPiece oid pos f).ctxs = b.ctxs := rfl
@[simp] theorem Body.modPiece_opens (b : Body) (oid pos : Nat) (f : Piece → Piece) : (b.modPiece oid pos f).opens = b.opens := rfl
@[simp] theorem Body.modPiece_nextOid (b : Body) (oid pos : Nat) (f : Piece → Piece) : (b.modPiece oid pos f).nextOid = b.nextOid := rfl
@[simp] theorem Body.modPiece_nextUid (b : Body) (oid pos : Nat) (f : Piece → Piece) : (b.modPiece oid pos f).nextUid = b.nextUid := rfl
@[simp] theorem Body.modPiece_freeCtr (b : Body) (oid pos : Nat) (f : Piece → Piece) : (b.modPiece oid pos f).freeCtr = b.freeCtr := rfl
@[simp] theorem Body.modPiece_xlt (b : Body) (oid pos : Nat) (f : Piece → Piece) : (b.modPiece oid pos f).xlt = b.xlt := rfl
@[simp] theorem Body.modPiece_coil (b : Body) (oid pos : Nat) (f : Piece → Piece) : (b.modPiece oid pos f).coil = b.coil := rfl
@[simp] theorem Body.modPiece_parts (b : Body) (oid pos : Nat) (f : Piece → Piece) : (b.modPiece oid pos f).parts = b.parts := rfl
@[simp] theorem Body.modPiece_cr (b : Body) (oid pos : Nat) (f : Piece → Piece) : (b.modPiece oid pos f).cr = b.cr := rfl
@[simp] theorem Body.modPiece_slots (b : Body) (oid pos : Nat) (f : Piece → Piece) : (b.modPiece oid pos f).slots = b.slots := rfl
@[simp] theorem Body.modPiece_units (b : Body) (oid pos : Nat) (f : Piece → Piece) : (b.modPiece oid pos f).units = b.units := rfl
@[simp] theorem Body.modPiece_mrl (b : Body) (oid pos : Nat) (f : Piece → Piece) : (b.modPiece oid pos f).mrl = b.mrl := rfl
@[simp] theorem Body.modPiece_stepSel (b : Body) (oid pos : Nat) (f : Piece → Piece) : (b.modPiece oid pos f).stepSel = b.stepSel := rfl
@[simp] theorem Body.modPiece_ledSel (b : Body) (oid pos : Nat) (f : Piece → Piece) : (b.modPiece oid pos f).ledSel = b.ledSel := rfl
@[simp] theorem Body.modPiece_ledEnt (b : Body) (oid pos : Nat) (f : Piece → Piece) : (b.modPiece oid pos f).ledEnt = b.ledEnt := rfl
@[simp] theorem Body.modPiece_gens (b : Body) (oid pos : Nat) (f : Piece → Piece) : (b.modPiece oid pos f).gens = b.gens := rfl
@[simp] theorem Body.modPiece_genSel (b : Body) (oid pos : Nat) (f : Piece → Piece) : (b.modPiece oid pos f).genSel = b.genSel := rfl
@[simp] theorem Body.modPiece_skn (b : Body) (oid pos : Nat) (f : Piece → Piece) : (b.modPiece oid pos f).skn = b.skn := rfl
@[simp] theorem Body.modPiece_fab (b : Body) (oid pos : Nat) (f : Piece → Piece) : (b.modPiece oid pos f).fab = b.fab := rfl
@[simp] theorem Body.modPiece_stc (b : Body) (oid pos : Nat) (f : Piece → Piece) : (b.modPiece oid pos f).stc = b.stc := rfl
@[simp] theorem Body.modPiece_lay (b : Body) (oid pos : Nat) (f : Piece → Piece) : (b.modPiece oid pos f).lay = b.lay := rfl
@[simp] theorem Body.modPiece_obs (b : Body) (oid pos : Nat) (f : Piece → Piece) : (b.modPiece oid pos f).obs = b.obs := rfl
@[simp] theorem Body.modPiece_hang (b : Body) (oid pos : Nat) (f : Piece → Piece) : (b.modPiece oid pos f).hang = b.hang := rfl
@[simp] theorem Body.modPiece_pwr (b : Body) (oid pos : Nat) (f : Piece → Piece) : (b.modPiece oid pos f).pwr = b.pwr := rfl

/-! ### modMuster -/

@[simp] theorem Body.modMuster_mem (b : Body) (oid : Nat) (f : MusterWork → MusterWork) : (b.modMuster oid f).mem = b.mem := rfl
@[simp] theorem Body.modMuster_blk (b : Body) (oid : Nat) (f : MusterWork → MusterWork) : (b.modMuster oid f).blk = b.blk := rfl
@[simp] theorem Body.modMuster_cp (b : Body) (oid : Nat) (f : MusterWork → MusterWork) : (b.modMuster oid f).cp = b.cp := rfl
@[simp] theorem Body.modMuster_ctxs (b : Body) (oid : Nat) (f : MusterWork → MusterWork) : (b.modMuster oid f).ctxs = b.ctxs := rfl
@[simp] theorem Body.modMuster_opens (b : Body) (oid : Nat) (f : MusterWork → MusterWork) : (b.modMuster oid f).opens = b.opens := rfl
@[simp] theorem Body.modMuster_nextOid (b : Body) (oid : Nat) (f : MusterWork → MusterWork) : (b.modMuster oid f).nextOid = b.nextOid := rfl
@[simp] theorem Body.modMuster_nextUid (b : Body) (oid : Nat) (f : MusterWork → MusterWork) : (b.modMuster oid f).nextUid = b.nextUid := rfl
@[simp] theorem Body.modMuster_freeCtr (b : Body) (oid : Nat) (f : MusterWork → MusterWork) : (b.modMuster oid f).freeCtr = b.freeCtr := rfl
@[simp] theorem Body.modMuster_xlt (b : Body) (oid : Nat) (f : MusterWork → MusterWork) : (b.modMuster oid f).xlt = b.xlt := rfl
@[simp] theorem Body.modMuster_coil (b : Body) (oid : Nat) (f : MusterWork → MusterWork) : (b.modMuster oid f).coil = b.coil := rfl
@[simp] theorem Body.modMuster_parts (b : Body) (oid : Nat) (f : MusterWork → MusterWork) : (b.modMuster oid f).parts = b.parts := rfl
@[simp] theorem Body.modMuster_cr (b : Body) (oid : Nat) (f : MusterWork → MusterWork) : (b.modMuster oid f).cr = b.cr := rfl
@[simp] theorem Body.modMuster_slots (b : Body) (oid : Nat) (f : MusterWork → MusterWork) : (b.modMuster oid f).slots = b.slots := rfl
@[simp] theorem Body.modMuster_units (b : Body) (oid : Nat) (f : MusterWork → MusterWork) : (b.modMuster oid f).units = b.units := rfl
@[simp] theorem Body.modMuster_mrl (b : Body) (oid : Nat) (f : MusterWork → MusterWork) : (b.modMuster oid f).mrl = b.mrl := rfl
@[simp] theorem Body.modMuster_stepSel (b : Body) (oid : Nat) (f : MusterWork → MusterWork) : (b.modMuster oid f).stepSel = b.stepSel := rfl
@[simp] theorem Body.modMuster_ledSel (b : Body) (oid : Nat) (f : MusterWork → MusterWork) : (b.modMuster oid f).ledSel = b.ledSel := rfl
@[simp] theorem Body.modMuster_ledEnt (b : Body) (oid : Nat) (f : MusterWork → MusterWork) : (b.modMuster oid f).ledEnt = b.ledEnt := rfl
@[simp] theorem Body.modMuster_gens (b : Body) (oid : Nat) (f : MusterWork → MusterWork) : (b.modMuster oid f).gens = b.gens := rfl
@[simp] theorem Body.modMuster_genSel (b : Body) (oid : Nat) (f : MusterWork → MusterWork) : (b.modMuster oid f).genSel = b.genSel := rfl
@[simp] theorem Body.modMuster_skn (b : Body) (oid : Nat) (f : MusterWork → MusterWork) : (b.modMuster oid f).skn = b.skn := rfl
@[simp] theorem Body.modMuster_fab (b : Body) (oid : Nat) (f : MusterWork → MusterWork) : (b.modMuster oid f).fab = b.fab := rfl
@[simp] theorem Body.modMuster_stc (b : Body) (oid : Nat) (f : MusterWork → MusterWork) : (b.modMuster oid f).stc = b.stc := rfl
@[simp] theorem Body.modMuster_lay (b : Body) (oid : Nat) (f : MusterWork → MusterWork) : (b.modMuster oid f).lay = b.lay := rfl
@[simp] theorem Body.modMuster_obs (b : Body) (oid : Nat) (f : MusterWork → MusterWork) : (b.modMuster oid f).obs = b.obs := rfl
@[simp] theorem Body.modMuster_hang (b : Body) (oid : Nat) (f : MusterWork → MusterWork) : (b.modMuster oid f).hang = b.hang := rfl
@[simp] theorem Body.modMuster_pwr (b : Body) (oid : Nat) (f : MusterWork → MusterWork) : (b.modMuster oid f).pwr = b.pwr := rfl

/-! ### modPort -/

@[simp] theorem Body.modPort_mem (b : Body) (n : Nat) (f : Port → Port) : (b.modPort n f).mem = b.mem := rfl
@[simp] theorem Body.modPort_blk (b : Body) (n : Nat) (f : Port → Port) : (b.modPort n f).blk = b.blk := rfl
@[simp] theorem Body.modPort_cp (b : Body) (n : Nat) (f : Port → Port) : (b.modPort n f).cp = b.cp := rfl
@[simp] theorem Body.modPort_ctxs (b : Body) (n : Nat) (f : Port → Port) : (b.modPort n f).ctxs = b.ctxs := rfl
@[simp] theorem Body.modPort_opens (b : Body) (n : Nat) (f : Port → Port) : (b.modPort n f).opens = b.opens := rfl
@[simp] theorem Body.modPort_nextOid (b : Body) (n : Nat) (f : Port → Port) : (b.modPort n f).nextOid = b.nextOid := rfl
@[simp] theorem Body.modPort_nextUid (b : Body) (n : Nat) (f : Port → Port) : (b.modPort n f).nextUid = b.nextUid := rfl
@[simp] theorem Body.modPort_freeCtr (b : Body) (n : Nat) (f : Port → Port) : (b.modPort n f).freeCtr = b.freeCtr := rfl
@[simp] theorem Body.modPort_xlt (b : Body) (n : Nat) (f : Port → Port) : (b.modPort n f).xlt = b.xlt := rfl
@[simp] theorem Body.modPort_coil (b : Body) (n : Nat) (f : Port → Port) : (b.modPort n f).coil = b.coil := rfl
@[simp] theorem Body.modPort_parts (b : Body) (n : Nat) (f : Port → Port) : (b.modPort n f).parts = b.parts := rfl
@[simp] theorem Body.modPort_cr (b : Body) (n : Nat) (f : Port → Port) : (b.modPort n f).cr = b.cr := rfl
@[simp] theorem Body.modPort_slots (b : Body) (n : Nat) (f : Port → Port) : (b.modPort n f).slots = b.slots := rfl
@[simp] theorem Body.modPort_units (b : Body) (n : Nat) (f : Port → Port) : (b.modPort n f).units = b.units := rfl
@[simp] theorem Body.modPort_mrl (b : Body) (n : Nat) (f : Port → Port) : (b.modPort n f).mrl = b.mrl := rfl
@[simp] theorem Body.modPort_stepSel (b : Body) (n : Nat) (f : Port → Port) : (b.modPort n f).stepSel = b.stepSel := rfl
@[simp] theorem Body.modPort_ledSel (b : Body) (n : Nat) (f : Port → Port) : (b.modPort n f).ledSel = b.ledSel := rfl
@[simp] theorem Body.modPort_ledEnt (b : Body) (n : Nat) (f : Port → Port) : (b.modPort n f).ledEnt = b.ledEnt := rfl
@[simp] theorem Body.modPort_gens (b : Body) (n : Nat) (f : Port → Port) : (b.modPort n f).gens = b.gens := rfl
@[simp] theorem Body.modPort_genSel (b : Body) (n : Nat) (f : Port → Port) : (b.modPort n f).genSel = b.genSel := rfl
@[simp] theorem Body.modPort_skn (b : Body) (n : Nat) (f : Port → Port) : (b.modPort n f).skn = b.skn := rfl
@[simp] theorem Body.modPort_fab (b : Body) (n : Nat) (f : Port → Port) :
    (b.modPort n f).fab = { b.fab with ports := tmod b.fab.ports n f } := rfl
@[simp] theorem Body.modPort_thm (b : Body) (n : Nat) (f : Port → Port) : (b.modPort n f).thm = b.thm := rfl
@[simp] theorem Body.modPort_stc (b : Body) (n : Nat) (f : Port → Port) : (b.modPort n f).stc = b.stc := rfl
@[simp] theorem Body.modPort_lay (b : Body) (n : Nat) (f : Port → Port) : (b.modPort n f).lay = b.lay := rfl
@[simp] theorem Body.modPort_obs (b : Body) (n : Nat) (f : Port → Port) : (b.modPort n f).obs = b.obs := rfl
@[simp] theorem Body.modPort_hang (b : Body) (n : Nat) (f : Port → Port) : (b.modPort n f).hang = b.hang := rfl
@[simp] theorem Body.modPort_pwr (b : Body) (n : Nat) (f : Port → Port) : (b.modPort n f).pwr = b.pwr := rfl

/-! ### modSlot -/

@[simp] theorem Body.modSlot_mem (b : Body) (n : Nat) (f : Slot → Slot) : (b.modSlot n f).mem = b.mem := rfl
@[simp] theorem Body.modSlot_blk (b : Body) (n : Nat) (f : Slot → Slot) : (b.modSlot n f).blk = b.blk := rfl
@[simp] theorem Body.modSlot_cp (b : Body) (n : Nat) (f : Slot → Slot) : (b.modSlot n f).cp = b.cp := rfl
@[simp] theorem Body.modSlot_ctxs (b : Body) (n : Nat) (f : Slot → Slot) : (b.modSlot n f).ctxs = b.ctxs := rfl
@[simp] theorem Body.modSlot_opens (b : Body) (n : Nat) (f : Slot → Slot) : (b.modSlot n f).opens = b.opens := rfl
@[simp] theorem Body.modSlot_nextOid (b : Body) (n : Nat) (f : Slot → Slot) : (b.modSlot n f).nextOid = b.nextOid := rfl
@[simp] theorem Body.modSlot_nextUid (b : Body) (n : Nat) (f : Slot → Slot) : (b.modSlot n f).nextUid = b.nextUid := rfl
@[simp] theorem Body.modSlot_freeCtr (b : Body) (n : Nat) (f : Slot → Slot) : (b.modSlot n f).freeCtr = b.freeCtr := rfl
@[simp] theorem Body.modSlot_xlt (b : Body) (n : Nat) (f : Slot → Slot) : (b.modSlot n f).xlt = b.xlt := rfl
@[simp] theorem Body.modSlot_coil (b : Body) (n : Nat) (f : Slot → Slot) : (b.modSlot n f).coil = b.coil := rfl
@[simp] theorem Body.modSlot_parts (b : Body) (n : Nat) (f : Slot → Slot) : (b.modSlot n f).parts = b.parts := rfl
@[simp] theorem Body.modSlot_cr (b : Body) (n : Nat) (f : Slot → Slot) : (b.modSlot n f).cr = b.cr := rfl
@[simp] theorem Body.modSlot_slots (b : Body) (n : Nat) (f : Slot → Slot) :
    (b.modSlot n f).slots = tmod b.slots n f := rfl
@[simp] theorem Body.modSlot_units (b : Body) (n : Nat) (f : Slot → Slot) : (b.modSlot n f).units = b.units := rfl
@[simp] theorem Body.modSlot_mrl (b : Body) (n : Nat) (f : Slot → Slot) : (b.modSlot n f).mrl = b.mrl := rfl
@[simp] theorem Body.modSlot_stepSel (b : Body) (n : Nat) (f : Slot → Slot) : (b.modSlot n f).stepSel = b.stepSel := rfl
@[simp] theorem Body.modSlot_ledSel (b : Body) (n : Nat) (f : Slot → Slot) : (b.modSlot n f).ledSel = b.ledSel := rfl
@[simp] theorem Body.modSlot_ledEnt (b : Body) (n : Nat) (f : Slot → Slot) : (b.modSlot n f).ledEnt = b.ledEnt := rfl
@[simp] theorem Body.modSlot_gens (b : Body) (n : Nat) (f : Slot → Slot) : (b.modSlot n f).gens = b.gens := rfl
@[simp] theorem Body.modSlot_genSel (b : Body) (n : Nat) (f : Slot → Slot) : (b.modSlot n f).genSel = b.genSel := rfl
@[simp] theorem Body.modSlot_skn (b : Body) (n : Nat) (f : Slot → Slot) : (b.modSlot n f).skn = b.skn := rfl
@[simp] theorem Body.modSlot_fab (b : Body) (n : Nat) (f : Slot → Slot) : (b.modSlot n f).fab = b.fab := rfl
@[simp] theorem Body.modSlot_thm (b : Body) (n : Nat) (f : Slot → Slot) : (b.modSlot n f).thm = b.thm := rfl
@[simp] theorem Body.modSlot_stc (b : Body) (n : Nat) (f : Slot → Slot) : (b.modSlot n f).stc = b.stc := rfl
@[simp] theorem Body.modSlot_lay (b : Body) (n : Nat) (f : Slot → Slot) : (b.modSlot n f).lay = b.lay := rfl
@[simp] theorem Body.modSlot_obs (b : Body) (n : Nat) (f : Slot → Slot) : (b.modSlot n f).obs = b.obs := rfl
@[simp] theorem Body.modSlot_hang (b : Body) (n : Nat) (f : Slot → Slot) : (b.modSlot n f).hang = b.hang := rfl
@[simp] theorem Body.modSlot_pwr (b : Body) (n : Nat) (f : Slot → Slot) : (b.modSlot n f).pwr = b.pwr := rfl

/-! ### accrue -/

@[simp] theorem accrue_mem (b : Body) : (accrue b).mem = b.mem := rfl
@[simp] theorem accrue_blk (b : Body) : (accrue b).blk = b.blk := rfl
@[simp] theorem accrue_cp (b : Body) : (accrue b).cp = b.cp := rfl
@[simp] theorem accrue_ctxs (b : Body) : (accrue b).ctxs = b.ctxs := rfl
@[simp] theorem accrue_opens (b : Body) : (accrue b).opens = b.opens := rfl
@[simp] theorem accrue_nextOid (b : Body) : (accrue b).nextOid = b.nextOid := rfl
@[simp] theorem accrue_nextUid (b : Body) : (accrue b).nextUid = b.nextUid := rfl
@[simp] theorem accrue_freeCtr (b : Body) : (accrue b).freeCtr = b.freeCtr := rfl
@[simp] theorem accrue_xlt (b : Body) : (accrue b).xlt = b.xlt := rfl
@[simp] theorem accrue_coil (b : Body) : (accrue b).coil = b.coil := rfl
@[simp] theorem accrue_parts (b : Body) : (accrue b).parts = b.parts := rfl
@[simp] theorem accrue_cr (b : Body) : (accrue b).cr = b.cr := rfl
@[simp] theorem accrue_slots (b : Body) : (accrue b).slots = b.slots := rfl
@[simp] theorem accrue_units (b : Body) : (accrue b).units = b.units := rfl
@[simp] theorem accrue_mrl (b : Body) : (accrue b).mrl = b.mrl := rfl
@[simp] theorem accrue_stepSel (b : Body) : (accrue b).stepSel = b.stepSel := rfl
@[simp] theorem accrue_ledSel (b : Body) : (accrue b).ledSel = b.ledSel := rfl
@[simp] theorem accrue_ledEnt (b : Body) : (accrue b).ledEnt = b.ledEnt := rfl
@[simp] theorem accrue_gens (b : Body) : (accrue b).gens = b.gens := rfl
@[simp] theorem accrue_genSel (b : Body) : (accrue b).genSel = b.genSel := rfl
@[simp] theorem accrue_skn (b : Body) : (accrue b).skn = b.skn := rfl
@[simp] theorem accrue_fab (b : Body) : (accrue b).fab = b.fab := rfl
@[simp] theorem accrue_thm (b : Body) : (accrue b).thm = b.thm := rfl
@[simp] theorem accrue_stc (b : Body) : (accrue b).stc = b.stc := rfl
@[simp] theorem accrue_lay (b : Body) : (accrue b).lay = b.lay := rfl
@[simp] theorem accrue_obs (b : Body) : (accrue b).obs = b.obs := rfl
@[simp] theorem accrue_hang (b : Body) : (accrue b).hang = b.hang := rfl
@[simp] theorem accrue_pwr (b : Body) :
    (accrue b).pwr = b.pwr.accrue b.now := rfl

/-! ### charge -/

@[simp] theorem charge_mem (b : Body) (cls unit n : Nat) : (charge cls unit n b).mem = b.mem := rfl
@[simp] theorem charge_blk (b : Body) (cls unit n : Nat) : (charge cls unit n b).blk = b.blk := rfl
@[simp] theorem charge_cp (b : Body) (cls unit n : Nat) : (charge cls unit n b).cp = b.cp := rfl
@[simp] theorem charge_ctxs (b : Body) (cls unit n : Nat) : (charge cls unit n b).ctxs = b.ctxs := rfl
@[simp] theorem charge_opens (b : Body) (cls unit n : Nat) : (charge cls unit n b).opens = b.opens := rfl
@[simp] theorem charge_nextOid (b : Body) (cls unit n : Nat) : (charge cls unit n b).nextOid = b.nextOid := rfl
@[simp] theorem charge_nextUid (b : Body) (cls unit n : Nat) : (charge cls unit n b).nextUid = b.nextUid := rfl
@[simp] theorem charge_freeCtr (b : Body) (cls unit n : Nat) : (charge cls unit n b).freeCtr = b.freeCtr := rfl
@[simp] theorem charge_xlt (b : Body) (cls unit n : Nat) : (charge cls unit n b).xlt = b.xlt := rfl
@[simp] theorem charge_coil (b : Body) (cls unit n : Nat) : (charge cls unit n b).coil = b.coil := rfl
@[simp] theorem charge_parts (b : Body) (cls unit n : Nat) : (charge cls unit n b).parts = b.parts := rfl
@[simp] theorem charge_cr (b : Body) (cls unit n : Nat) : (charge cls unit n b).cr = b.cr := rfl
@[simp] theorem charge_slots (b : Body) (cls unit n : Nat) : (charge cls unit n b).slots = b.slots := rfl
@[simp] theorem charge_units (b : Body) (cls unit n : Nat) : (charge cls unit n b).units = b.units := rfl
@[simp] theorem charge_mrl (b : Body) (cls unit n : Nat) : (charge cls unit n b).mrl = b.mrl := rfl
@[simp] theorem charge_stepSel (b : Body) (cls unit n : Nat) : (charge cls unit n b).stepSel = b.stepSel := rfl
@[simp] theorem charge_ledSel (b : Body) (cls unit n : Nat) : (charge cls unit n b).ledSel = b.ledSel := rfl
@[simp] theorem charge_ledEnt (b : Body) (cls unit n : Nat) : (charge cls unit n b).ledEnt = b.ledEnt := rfl
@[simp] theorem charge_gens (b : Body) (cls unit n : Nat) : (charge cls unit n b).gens = b.gens := rfl
@[simp] theorem charge_genSel (b : Body) (cls unit n : Nat) : (charge cls unit n b).genSel = b.genSel := rfl
@[simp] theorem charge_skn (b : Body) (cls unit n : Nat) : (charge cls unit n b).skn = b.skn := rfl
@[simp] theorem charge_fab (b : Body) (cls unit n : Nat) : (charge cls unit n b).fab = b.fab := rfl
@[simp] theorem charge_thm (b : Body) (cls unit n : Nat) : (charge cls unit n b).thm = b.thm := rfl
@[simp] theorem charge_stc (b : Body) (cls unit n : Nat) : (charge cls unit n b).stc = b.stc := rfl
@[simp] theorem charge_lay (b : Body) (cls unit n : Nat) : (charge cls unit n b).lay = b.lay := rfl
@[simp] theorem charge_obs (b : Body) (cls unit n : Nat) : (charge cls unit n b).obs = b.obs := rfl
@[simp] theorem charge_hang (b : Body) (cls unit n : Nat) : (charge cls unit n b).hang = b.hang := rfl

/-! ### acts -/

@[simp] theorem acts_mem (b : Body) (cls unit inst n : Nat) : (acts cls unit inst n b).mem = b.mem := rfl
@[simp] theorem acts_blk (b : Body) (cls unit inst n : Nat) : (acts cls unit inst n b).blk = b.blk := rfl
@[simp] theorem acts_cp (b : Body) (cls unit inst n : Nat) : (acts cls unit inst n b).cp = b.cp := rfl
@[simp] theorem acts_ctxs (b : Body) (cls unit inst n : Nat) : (acts cls unit inst n b).ctxs = b.ctxs := rfl
@[simp] theorem acts_opens (b : Body) (cls unit inst n : Nat) : (acts cls unit inst n b).opens = b.opens := rfl
@[simp] theorem acts_nextOid (b : Body) (cls unit inst n : Nat) : (acts cls unit inst n b).nextOid = b.nextOid := rfl
@[simp] theorem acts_nextUid (b : Body) (cls unit inst n : Nat) : (acts cls unit inst n b).nextUid = b.nextUid := rfl
@[simp] theorem acts_freeCtr (b : Body) (cls unit inst n : Nat) : (acts cls unit inst n b).freeCtr = b.freeCtr := rfl
@[simp] theorem acts_xlt (b : Body) (cls unit inst n : Nat) : (acts cls unit inst n b).xlt = b.xlt := rfl
@[simp] theorem acts_coil (b : Body) (cls unit inst n : Nat) : (acts cls unit inst n b).coil = b.coil := rfl
@[simp] theorem acts_parts (b : Body) (cls unit inst n : Nat) : (acts cls unit inst n b).parts = b.parts := rfl
@[simp] theorem acts_cr (b : Body) (cls unit inst n : Nat) : (acts cls unit inst n b).cr = b.cr := rfl
@[simp] theorem acts_slots (b : Body) (cls unit inst n : Nat) : (acts cls unit inst n b).slots = b.slots := rfl
@[simp] theorem acts_units (b : Body) (cls unit inst n : Nat) : (acts cls unit inst n b).units = b.units := rfl
@[simp] theorem acts_mrl (b : Body) (cls unit inst n : Nat) : (acts cls unit inst n b).mrl = b.mrl := rfl
@[simp] theorem acts_stepSel (b : Body) (cls unit inst n : Nat) : (acts cls unit inst n b).stepSel = b.stepSel := rfl
@[simp] theorem acts_ledSel (b : Body) (cls unit inst n : Nat) : (acts cls unit inst n b).ledSel = b.ledSel := rfl
@[simp] theorem acts_ledEnt (b : Body) (cls unit inst n : Nat) : (acts cls unit inst n b).ledEnt = b.ledEnt := rfl
@[simp] theorem acts_gens (b : Body) (cls unit inst n : Nat) : (acts cls unit inst n b).gens = b.gens := rfl
@[simp] theorem acts_genSel (b : Body) (cls unit inst n : Nat) : (acts cls unit inst n b).genSel = b.genSel := rfl
@[simp] theorem acts_skn (b : Body) (cls unit inst n : Nat) : (acts cls unit inst n b).skn = b.skn := rfl
@[simp] theorem acts_fab (b : Body) (cls unit inst n : Nat) : (acts cls unit inst n b).fab = b.fab := rfl
@[simp] theorem acts_thm (b : Body) (cls unit inst n : Nat) : (acts cls unit inst n b).thm = b.thm := rfl
@[simp] theorem acts_stc (b : Body) (cls unit inst n : Nat) : (acts cls unit inst n b).stc = b.stc := rfl
@[simp] theorem acts_lay (b : Body) (cls unit inst n : Nat) : (acts cls unit inst n b).lay = b.lay := rfl
@[simp] theorem acts_hang (b : Body) (cls unit inst n : Nat) : (acts cls unit inst n b).hang = b.hang := rfl

/-! ### act -/

@[simp] theorem act_mem (b : Body) (cls unit inst : Nat) : (act cls unit inst b).mem = b.mem := rfl
@[simp] theorem act_blk (b : Body) (cls unit inst : Nat) : (act cls unit inst b).blk = b.blk := rfl
@[simp] theorem act_cp (b : Body) (cls unit inst : Nat) : (act cls unit inst b).cp = b.cp := rfl
@[simp] theorem act_ctxs (b : Body) (cls unit inst : Nat) : (act cls unit inst b).ctxs = b.ctxs := rfl
@[simp] theorem act_opens (b : Body) (cls unit inst : Nat) : (act cls unit inst b).opens = b.opens := rfl
@[simp] theorem act_nextOid (b : Body) (cls unit inst : Nat) : (act cls unit inst b).nextOid = b.nextOid := rfl
@[simp] theorem act_nextUid (b : Body) (cls unit inst : Nat) : (act cls unit inst b).nextUid = b.nextUid := rfl
@[simp] theorem act_freeCtr (b : Body) (cls unit inst : Nat) : (act cls unit inst b).freeCtr = b.freeCtr := rfl
@[simp] theorem act_xlt (b : Body) (cls unit inst : Nat) : (act cls unit inst b).xlt = b.xlt := rfl
@[simp] theorem act_coil (b : Body) (cls unit inst : Nat) : (act cls unit inst b).coil = b.coil := rfl
@[simp] theorem act_parts (b : Body) (cls unit inst : Nat) : (act cls unit inst b).parts = b.parts := rfl
@[simp] theorem act_cr (b : Body) (cls unit inst : Nat) : (act cls unit inst b).cr = b.cr := rfl
@[simp] theorem act_slots (b : Body) (cls unit inst : Nat) : (act cls unit inst b).slots = b.slots := rfl
@[simp] theorem act_units (b : Body) (cls unit inst : Nat) : (act cls unit inst b).units = b.units := rfl
@[simp] theorem act_mrl (b : Body) (cls unit inst : Nat) : (act cls unit inst b).mrl = b.mrl := rfl
@[simp] theorem act_stepSel (b : Body) (cls unit inst : Nat) : (act cls unit inst b).stepSel = b.stepSel := rfl
@[simp] theorem act_ledSel (b : Body) (cls unit inst : Nat) : (act cls unit inst b).ledSel = b.ledSel := rfl
@[simp] theorem act_ledEnt (b : Body) (cls unit inst : Nat) : (act cls unit inst b).ledEnt = b.ledEnt := rfl
@[simp] theorem act_gens (b : Body) (cls unit inst : Nat) : (act cls unit inst b).gens = b.gens := rfl
@[simp] theorem act_genSel (b : Body) (cls unit inst : Nat) : (act cls unit inst b).genSel = b.genSel := rfl
@[simp] theorem act_skn (b : Body) (cls unit inst : Nat) : (act cls unit inst b).skn = b.skn := rfl
@[simp] theorem act_fab (b : Body) (cls unit inst : Nat) : (act cls unit inst b).fab = b.fab := rfl
@[simp] theorem act_thm (b : Body) (cls unit inst : Nat) : (act cls unit inst b).thm = b.thm := rfl
@[simp] theorem act_stc (b : Body) (cls unit inst : Nat) : (act cls unit inst b).stc = b.stc := rfl
@[simp] theorem act_lay (b : Body) (cls unit inst : Nat) : (act cls unit inst b).lay = b.lay := rfl
@[simp] theorem act_hang (b : Body) (cls unit inst : Nat) : (act cls unit inst b).hang = b.hang := rfl

/-! ### presentRq -/

@[simp] theorem presentRq_mem (b : Body) (op line id mask : Nat) (data : List Byte) : (presentRq op line id mask data b).mem = b.mem := rfl
@[simp] theorem presentRq_blk (b : Body) (op line id mask : Nat) (data : List Byte) : (presentRq op line id mask data b).blk = b.blk := rfl
@[simp] theorem presentRq_cp (b : Body) (op line id mask : Nat) (data : List Byte) : (presentRq op line id mask data b).cp = b.cp := rfl
@[simp] theorem presentRq_ctxs (b : Body) (op line id mask : Nat) (data : List Byte) : (presentRq op line id mask data b).ctxs = b.ctxs := rfl
@[simp] theorem presentRq_opens (b : Body) (op line id mask : Nat) (data : List Byte) : (presentRq op line id mask data b).opens = b.opens := rfl
@[simp] theorem presentRq_nextOid (b : Body) (op line id mask : Nat) (data : List Byte) : (presentRq op line id mask data b).nextOid = b.nextOid := rfl
@[simp] theorem presentRq_nextUid (b : Body) (op line id mask : Nat) (data : List Byte) : (presentRq op line id mask data b).nextUid = b.nextUid := rfl
@[simp] theorem presentRq_freeCtr (b : Body) (op line id mask : Nat) (data : List Byte) : (presentRq op line id mask data b).freeCtr = b.freeCtr := rfl
@[simp] theorem presentRq_coil (b : Body) (op line id mask : Nat) (data : List Byte) : (presentRq op line id mask data b).coil = b.coil := rfl
@[simp] theorem presentRq_parts (b : Body) (op line id mask : Nat) (data : List Byte) : (presentRq op line id mask data b).parts = b.parts := rfl
@[simp] theorem presentRq_cr (b : Body) (op line id mask : Nat) (data : List Byte) : (presentRq op line id mask data b).cr = b.cr := rfl
@[simp] theorem presentRq_slots (b : Body) (op line id mask : Nat) (data : List Byte) : (presentRq op line id mask data b).slots = b.slots := rfl
@[simp] theorem presentRq_units (b : Body) (op line id mask : Nat) (data : List Byte) : (presentRq op line id mask data b).units = b.units := rfl
@[simp] theorem presentRq_mrl (b : Body) (op line id mask : Nat) (data : List Byte) : (presentRq op line id mask data b).mrl = b.mrl := rfl
@[simp] theorem presentRq_stepSel (b : Body) (op line id mask : Nat) (data : List Byte) : (presentRq op line id mask data b).stepSel = b.stepSel := rfl
@[simp] theorem presentRq_ledSel (b : Body) (op line id mask : Nat) (data : List Byte) : (presentRq op line id mask data b).ledSel = b.ledSel := rfl
@[simp] theorem presentRq_ledEnt (b : Body) (op line id mask : Nat) (data : List Byte) : (presentRq op line id mask data b).ledEnt = b.ledEnt := rfl
@[simp] theorem presentRq_gens (b : Body) (op line id mask : Nat) (data : List Byte) : (presentRq op line id mask data b).gens = b.gens := rfl
@[simp] theorem presentRq_genSel (b : Body) (op line id mask : Nat) (data : List Byte) : (presentRq op line id mask data b).genSel = b.genSel := rfl
@[simp] theorem presentRq_skn (b : Body) (op line id mask : Nat) (data : List Byte) : (presentRq op line id mask data b).skn = b.skn := rfl
@[simp] theorem presentRq_fab (b : Body) (op line id mask : Nat) (data : List Byte) : (presentRq op line id mask data b).fab = b.fab := rfl
@[simp] theorem presentRq_thm (b : Body) (op line id mask : Nat) (data : List Byte) : (presentRq op line id mask data b).thm = b.thm := rfl
@[simp] theorem presentRq_stc (b : Body) (op line id mask : Nat) (data : List Byte) : (presentRq op line id mask data b).stc = b.stc := rfl
@[simp] theorem presentRq_lay (b : Body) (op line id mask : Nat) (data : List Byte) : (presentRq op line id mask data b).lay = b.lay := rfl
@[simp] theorem presentRq_obs (b : Body) (op line id mask : Nat) (data : List Byte) : (presentRq op line id mask data b).obs = b.obs := rfl
@[simp] theorem presentRq_hang (b : Body) (op line id mask : Nat) (data : List Byte) : (presentRq op line id mask data b).hang = b.hang := rfl
@[simp] theorem presentRq_pwr (b : Body) (op line id mask : Nat) (data : List Byte) : (presentRq op line id mask data b).pwr = b.pwr := rfl

/-! ### trace -/

@[simp] theorem trace_mem (b : Body) (unit : Nat) (c : Option Nat) (kind w2 w3 : Nat) : (trace unit c kind w2 w3 b).mem = b.mem := rfl
@[simp] theorem trace_blk (b : Body) (unit : Nat) (c : Option Nat) (kind w2 w3 : Nat) : (trace unit c kind w2 w3 b).blk = b.blk := rfl
@[simp] theorem trace_cp (b : Body) (unit : Nat) (c : Option Nat) (kind w2 w3 : Nat) : (trace unit c kind w2 w3 b).cp = b.cp := rfl
@[simp] theorem trace_ctxs (b : Body) (unit : Nat) (c : Option Nat) (kind w2 w3 : Nat) : (trace unit c kind w2 w3 b).ctxs = b.ctxs := rfl
@[simp] theorem trace_opens (b : Body) (unit : Nat) (c : Option Nat) (kind w2 w3 : Nat) : (trace unit c kind w2 w3 b).opens = b.opens := rfl
@[simp] theorem trace_nextOid (b : Body) (unit : Nat) (c : Option Nat) (kind w2 w3 : Nat) : (trace unit c kind w2 w3 b).nextOid = b.nextOid := rfl
@[simp] theorem trace_nextUid (b : Body) (unit : Nat) (c : Option Nat) (kind w2 w3 : Nat) : (trace unit c kind w2 w3 b).nextUid = b.nextUid := rfl
@[simp] theorem trace_freeCtr (b : Body) (unit : Nat) (c : Option Nat) (kind w2 w3 : Nat) : (trace unit c kind w2 w3 b).freeCtr = b.freeCtr := rfl
@[simp] theorem trace_xlt (b : Body) (unit : Nat) (c : Option Nat) (kind w2 w3 : Nat) : (trace unit c kind w2 w3 b).xlt = b.xlt := rfl
@[simp] theorem trace_coil (b : Body) (unit : Nat) (c : Option Nat) (kind w2 w3 : Nat) : (trace unit c kind w2 w3 b).coil = b.coil := rfl
@[simp] theorem trace_parts (b : Body) (unit : Nat) (c : Option Nat) (kind w2 w3 : Nat) : (trace unit c kind w2 w3 b).parts = b.parts := rfl
@[simp] theorem trace_cr (b : Body) (unit : Nat) (c : Option Nat) (kind w2 w3 : Nat) : (trace unit c kind w2 w3 b).cr = b.cr := rfl
@[simp] theorem trace_slots (b : Body) (unit : Nat) (c : Option Nat) (kind w2 w3 : Nat) : (trace unit c kind w2 w3 b).slots = b.slots := rfl
@[simp] theorem trace_units (b : Body) (unit : Nat) (c : Option Nat) (kind w2 w3 : Nat) : (trace unit c kind w2 w3 b).units = b.units := rfl
@[simp] theorem trace_mrl (b : Body) (unit : Nat) (c : Option Nat) (kind w2 w3 : Nat) : (trace unit c kind w2 w3 b).mrl = b.mrl := rfl
@[simp] theorem trace_stepSel (b : Body) (unit : Nat) (c : Option Nat) (kind w2 w3 : Nat) : (trace unit c kind w2 w3 b).stepSel = b.stepSel := rfl
@[simp] theorem trace_ledSel (b : Body) (unit : Nat) (c : Option Nat) (kind w2 w3 : Nat) : (trace unit c kind w2 w3 b).ledSel = b.ledSel := rfl
@[simp] theorem trace_ledEnt (b : Body) (unit : Nat) (c : Option Nat) (kind w2 w3 : Nat) : (trace unit c kind w2 w3 b).ledEnt = b.ledEnt := rfl
@[simp] theorem trace_gens (b : Body) (unit : Nat) (c : Option Nat) (kind w2 w3 : Nat) : (trace unit c kind w2 w3 b).gens = b.gens := rfl
@[simp] theorem trace_genSel (b : Body) (unit : Nat) (c : Option Nat) (kind w2 w3 : Nat) : (trace unit c kind w2 w3 b).genSel = b.genSel := rfl
@[simp] theorem trace_skn (b : Body) (unit : Nat) (c : Option Nat) (kind w2 w3 : Nat) : (trace unit c kind w2 w3 b).skn = b.skn := rfl
@[simp] theorem trace_fab (b : Body) (unit : Nat) (c : Option Nat) (kind w2 w3 : Nat) : (trace unit c kind w2 w3 b).fab = b.fab := rfl
@[simp] theorem trace_thm (b : Body) (unit : Nat) (c : Option Nat) (kind w2 w3 : Nat) : (trace unit c kind w2 w3 b).thm = b.thm := rfl
@[simp] theorem trace_stc (b : Body) (unit : Nat) (c : Option Nat) (kind w2 w3 : Nat) : (trace unit c kind w2 w3 b).stc = b.stc := rfl
@[simp] theorem trace_lay (b : Body) (unit : Nat) (c : Option Nat) (kind w2 w3 : Nat) : (trace unit c kind w2 w3 b).lay = b.lay := rfl
@[simp] theorem trace_obs (b : Body) (unit : Nat) (c : Option Nat) (kind w2 w3 : Nat) :
    (trace unit c kind w2 w3 b).obs = obsTrace b.now unit c kind w2 w3 b.obs := rfl
@[simp] theorem trace_hang (b : Body) (unit : Nat) (c : Option Nat) (kind w2 w3 : Nat) : (trace unit c kind w2 w3 b).hang = b.hang := rfl
@[simp] theorem trace_pwr (b : Body) (unit : Nat) (c : Option Nat) (kind w2 w3 : Nat) : (trace unit c kind w2 w3 b).pwr = b.pwr := rfl

/-! ### coilTake -/

@[simp] theorem coilTake_mem (b : Body) (buf : CoilBuf) : (coilTake buf b).mem = b.mem := rfl
@[simp] theorem coilTake_blk (b : Body) (buf : CoilBuf) : (coilTake buf b).blk = b.blk := rfl
@[simp] theorem coilTake_cp (b : Body) (buf : CoilBuf) : (coilTake buf b).cp = b.cp := rfl
@[simp] theorem coilTake_ctxs (b : Body) (buf : CoilBuf) : (coilTake buf b).ctxs = b.ctxs := rfl
@[simp] theorem coilTake_opens (b : Body) (buf : CoilBuf) : (coilTake buf b).opens = b.opens := rfl
@[simp] theorem coilTake_nextOid (b : Body) (buf : CoilBuf) : (coilTake buf b).nextOid = b.nextOid := rfl
@[simp] theorem coilTake_nextUid (b : Body) (buf : CoilBuf) : (coilTake buf b).nextUid = b.nextUid := rfl
@[simp] theorem coilTake_freeCtr (b : Body) (buf : CoilBuf) : (coilTake buf b).freeCtr = b.freeCtr := rfl
@[simp] theorem coilTake_xlt (b : Body) (buf : CoilBuf) : (coilTake buf b).xlt = b.xlt := rfl
@[simp] theorem coilTake_parts (b : Body) (buf : CoilBuf) : (coilTake buf b).parts = b.parts := rfl
@[simp] theorem coilTake_cr (b : Body) (buf : CoilBuf) : (coilTake buf b).cr = b.cr := rfl
@[simp] theorem coilTake_slots (b : Body) (buf : CoilBuf) : (coilTake buf b).slots = b.slots := rfl
@[simp] theorem coilTake_mrl (b : Body) (buf : CoilBuf) : (coilTake buf b).mrl = b.mrl := rfl
@[simp] theorem coilTake_stepSel (b : Body) (buf : CoilBuf) : (coilTake buf b).stepSel = b.stepSel := rfl
@[simp] theorem coilTake_ledSel (b : Body) (buf : CoilBuf) : (coilTake buf b).ledSel = b.ledSel := rfl
@[simp] theorem coilTake_ledEnt (b : Body) (buf : CoilBuf) : (coilTake buf b).ledEnt = b.ledEnt := rfl
@[simp] theorem coilTake_gens (b : Body) (buf : CoilBuf) : (coilTake buf b).gens = b.gens := rfl
@[simp] theorem coilTake_genSel (b : Body) (buf : CoilBuf) : (coilTake buf b).genSel = b.genSel := rfl
@[simp] theorem coilTake_skn (b : Body) (buf : CoilBuf) : (coilTake buf b).skn = b.skn := rfl
@[simp] theorem coilTake_fab (b : Body) (buf : CoilBuf) : (coilTake buf b).fab = b.fab := rfl
@[simp] theorem coilTake_thm (b : Body) (buf : CoilBuf) : (coilTake buf b).thm = b.thm := rfl
@[simp] theorem coilTake_stc (b : Body) (buf : CoilBuf) : (coilTake buf b).stc = b.stc := rfl
@[simp] theorem coilTake_lay (b : Body) (buf : CoilBuf) : (coilTake buf b).lay = b.lay := rfl
@[simp] theorem coilTake_hang (b : Body) (buf : CoilBuf) : (coilTake buf b).hang = b.hang := rfl

/-! ### coilWait -/

@[simp] theorem coilWait_mem (b : Body) (r : CoilReq) : (coilWait r b).mem = b.mem := rfl
@[simp] theorem coilWait_blk (b : Body) (r : CoilReq) : (coilWait r b).blk = b.blk := rfl
@[simp] theorem coilWait_cp (b : Body) (r : CoilReq) : (coilWait r b).cp = b.cp := rfl
@[simp] theorem coilWait_ctxs (b : Body) (r : CoilReq) : (coilWait r b).ctxs = b.ctxs := rfl
@[simp] theorem coilWait_opens (b : Body) (r : CoilReq) : (coilWait r b).opens = b.opens := rfl
@[simp] theorem coilWait_nextOid (b : Body) (r : CoilReq) : (coilWait r b).nextOid = b.nextOid := rfl
@[simp] theorem coilWait_nextUid (b : Body) (r : CoilReq) : (coilWait r b).nextUid = b.nextUid := rfl
@[simp] theorem coilWait_freeCtr (b : Body) (r : CoilReq) : (coilWait r b).freeCtr = b.freeCtr := rfl
@[simp] theorem coilWait_xlt (b : Body) (r : CoilReq) : (coilWait r b).xlt = b.xlt := rfl
@[simp] theorem coilWait_coil (b : Body) (r : CoilReq) :
    (coilWait r b).coil = { b.coil with wait := b.coil.wait ++ [{ r with limit := some (limitOf b r) }] } := rfl
@[simp] theorem coilWait_parts (b : Body) (r : CoilReq) : (coilWait r b).parts = b.parts := rfl
@[simp] theorem coilWait_cr (b : Body) (r : CoilReq) : (coilWait r b).cr = b.cr := rfl
@[simp] theorem coilWait_slots (b : Body) (r : CoilReq) : (coilWait r b).slots = b.slots := rfl
@[simp] theorem coilWait_units (b : Body) (r : CoilReq) : (coilWait r b).units = b.units := rfl
@[simp] theorem coilWait_mrl (b : Body) (r : CoilReq) : (coilWait r b).mrl = b.mrl := rfl
@[simp] theorem coilWait_stepSel (b : Body) (r : CoilReq) : (coilWait r b).stepSel = b.stepSel := rfl
@[simp] theorem coilWait_ledSel (b : Body) (r : CoilReq) : (coilWait r b).ledSel = b.ledSel := rfl
@[simp] theorem coilWait_ledEnt (b : Body) (r : CoilReq) : (coilWait r b).ledEnt = b.ledEnt := rfl
@[simp] theorem coilWait_gens (b : Body) (r : CoilReq) : (coilWait r b).gens = b.gens := rfl
@[simp] theorem coilWait_genSel (b : Body) (r : CoilReq) : (coilWait r b).genSel = b.genSel := rfl
@[simp] theorem coilWait_skn (b : Body) (r : CoilReq) : (coilWait r b).skn = b.skn := rfl
@[simp] theorem coilWait_fab (b : Body) (r : CoilReq) : (coilWait r b).fab = b.fab := rfl
@[simp] theorem coilWait_thm (b : Body) (r : CoilReq) : (coilWait r b).thm = b.thm := rfl
@[simp] theorem coilWait_stc (b : Body) (r : CoilReq) : (coilWait r b).stc = b.stc := rfl
@[simp] theorem coilWait_lay (b : Body) (r : CoilReq) : (coilWait r b).lay = b.lay := rfl
@[simp] theorem coilWait_obs (b : Body) (r : CoilReq) : (coilWait r b).obs = b.obs := rfl
@[simp] theorem coilWait_hang (b : Body) (r : CoilReq) : (coilWait r b).hang = b.hang := rfl
@[simp] theorem coilWait_pwr (b : Body) (r : CoilReq) : (coilWait r b).pwr = b.pwr := rfl

/-! ### coilDrop -/

@[simp] theorem coilDrop_mem (b : Body) (l : List CoilBuf) : (coilDrop l b).mem = b.mem := rfl
@[simp] theorem coilDrop_blk (b : Body) (l : List CoilBuf) : (coilDrop l b).blk = b.blk := rfl
@[simp] theorem coilDrop_cp (b : Body) (l : List CoilBuf) : (coilDrop l b).cp = b.cp := rfl
@[simp] theorem coilDrop_ctxs (b : Body) (l : List CoilBuf) : (coilDrop l b).ctxs = b.ctxs := rfl
@[simp] theorem coilDrop_opens (b : Body) (l : List CoilBuf) : (coilDrop l b).opens = b.opens := rfl
@[simp] theorem coilDrop_nextOid (b : Body) (l : List CoilBuf) : (coilDrop l b).nextOid = b.nextOid := rfl
@[simp] theorem coilDrop_nextUid (b : Body) (l : List CoilBuf) : (coilDrop l b).nextUid = b.nextUid := rfl
@[simp] theorem coilDrop_freeCtr (b : Body) (l : List CoilBuf) : (coilDrop l b).freeCtr = b.freeCtr := rfl
@[simp] theorem coilDrop_xlt (b : Body) (l : List CoilBuf) : (coilDrop l b).xlt = b.xlt := rfl
@[simp] theorem coilDrop_coil (b : Body) (l : List CoilBuf) :
    (coilDrop l b).coil = { b.coil with bufs := b.coil.bufs.filter (fun x => !l.contains x) } := rfl
@[simp] theorem coilDrop_parts (b : Body) (l : List CoilBuf) : (coilDrop l b).parts = b.parts := rfl
@[simp] theorem coilDrop_cr (b : Body) (l : List CoilBuf) : (coilDrop l b).cr = b.cr := rfl
@[simp] theorem coilDrop_slots (b : Body) (l : List CoilBuf) : (coilDrop l b).slots = b.slots := rfl
@[simp] theorem coilDrop_units (b : Body) (l : List CoilBuf) : (coilDrop l b).units = b.units := rfl
@[simp] theorem coilDrop_mrl (b : Body) (l : List CoilBuf) : (coilDrop l b).mrl = b.mrl := rfl
@[simp] theorem coilDrop_stepSel (b : Body) (l : List CoilBuf) : (coilDrop l b).stepSel = b.stepSel := rfl
@[simp] theorem coilDrop_ledSel (b : Body) (l : List CoilBuf) : (coilDrop l b).ledSel = b.ledSel := rfl
@[simp] theorem coilDrop_ledEnt (b : Body) (l : List CoilBuf) : (coilDrop l b).ledEnt = b.ledEnt := rfl
@[simp] theorem coilDrop_gens (b : Body) (l : List CoilBuf) : (coilDrop l b).gens = b.gens := rfl
@[simp] theorem coilDrop_genSel (b : Body) (l : List CoilBuf) : (coilDrop l b).genSel = b.genSel := rfl
@[simp] theorem coilDrop_skn (b : Body) (l : List CoilBuf) : (coilDrop l b).skn = b.skn := rfl
@[simp] theorem coilDrop_fab (b : Body) (l : List CoilBuf) : (coilDrop l b).fab = b.fab := rfl
@[simp] theorem coilDrop_thm (b : Body) (l : List CoilBuf) : (coilDrop l b).thm = b.thm := rfl
@[simp] theorem coilDrop_stc (b : Body) (l : List CoilBuf) : (coilDrop l b).stc = b.stc := rfl
@[simp] theorem coilDrop_lay (b : Body) (l : List CoilBuf) : (coilDrop l b).lay = b.lay := rfl
@[simp] theorem coilDrop_obs (b : Body) (l : List CoilBuf) : (coilDrop l b).obs = b.obs := rfl
@[simp] theorem coilDrop_hang (b : Body) (l : List CoilBuf) : (coilDrop l b).hang = b.hang := rfl
@[simp] theorem coilDrop_pwr (b : Body) (l : List CoilBuf) : (coilDrop l b).pwr = b.pwr := rfl

/-! ### coilUnwait -/

@[simp] theorem coilUnwait_mem (b : Body) (r : CoilReq) : (coilUnwait r b).mem = b.mem := rfl
@[simp] theorem coilUnwait_blk (b : Body) (r : CoilReq) : (coilUnwait r b).blk = b.blk := rfl
@[simp] theorem coilUnwait_cp (b : Body) (r : CoilReq) : (coilUnwait r b).cp = b.cp := rfl
@[simp] theorem coilUnwait_ctxs (b : Body) (r : CoilReq) : (coilUnwait r b).ctxs = b.ctxs := rfl
@[simp] theorem coilUnwait_opens (b : Body) (r : CoilReq) : (coilUnwait r b).opens = b.opens := rfl
@[simp] theorem coilUnwait_nextOid (b : Body) (r : CoilReq) : (coilUnwait r b).nextOid = b.nextOid := rfl
@[simp] theorem coilUnwait_nextUid (b : Body) (r : CoilReq) : (coilUnwait r b).nextUid = b.nextUid := rfl
@[simp] theorem coilUnwait_freeCtr (b : Body) (r : CoilReq) : (coilUnwait r b).freeCtr = b.freeCtr := rfl
@[simp] theorem coilUnwait_xlt (b : Body) (r : CoilReq) : (coilUnwait r b).xlt = b.xlt := rfl
@[simp] theorem coilUnwait_coil (b : Body) (r : CoilReq) :
    (coilUnwait r b).coil = { b.coil with wait := b.coil.wait.filter (fun x => !sameReq x r) } := rfl
@[simp] theorem coilUnwait_parts (b : Body) (r : CoilReq) : (coilUnwait r b).parts = b.parts := rfl
@[simp] theorem coilUnwait_cr (b : Body) (r : CoilReq) : (coilUnwait r b).cr = b.cr := rfl
@[simp] theorem coilUnwait_slots (b : Body) (r : CoilReq) : (coilUnwait r b).slots = b.slots := rfl
@[simp] theorem coilUnwait_units (b : Body) (r : CoilReq) : (coilUnwait r b).units = b.units := rfl
@[simp] theorem coilUnwait_mrl (b : Body) (r : CoilReq) : (coilUnwait r b).mrl = b.mrl := rfl
@[simp] theorem coilUnwait_stepSel (b : Body) (r : CoilReq) : (coilUnwait r b).stepSel = b.stepSel := rfl
@[simp] theorem coilUnwait_ledSel (b : Body) (r : CoilReq) : (coilUnwait r b).ledSel = b.ledSel := rfl
@[simp] theorem coilUnwait_ledEnt (b : Body) (r : CoilReq) : (coilUnwait r b).ledEnt = b.ledEnt := rfl
@[simp] theorem coilUnwait_gens (b : Body) (r : CoilReq) : (coilUnwait r b).gens = b.gens := rfl
@[simp] theorem coilUnwait_genSel (b : Body) (r : CoilReq) : (coilUnwait r b).genSel = b.genSel := rfl
@[simp] theorem coilUnwait_skn (b : Body) (r : CoilReq) : (coilUnwait r b).skn = b.skn := rfl
@[simp] theorem coilUnwait_fab (b : Body) (r : CoilReq) : (coilUnwait r b).fab = b.fab := rfl
@[simp] theorem coilUnwait_thm (b : Body) (r : CoilReq) : (coilUnwait r b).thm = b.thm := rfl
@[simp] theorem coilUnwait_stc (b : Body) (r : CoilReq) : (coilUnwait r b).stc = b.stc := rfl
@[simp] theorem coilUnwait_lay (b : Body) (r : CoilReq) : (coilUnwait r b).lay = b.lay := rfl
@[simp] theorem coilUnwait_obs (b : Body) (r : CoilReq) : (coilUnwait r b).obs = b.obs := rfl
@[simp] theorem coilUnwait_hang (b : Body) (r : CoilReq) : (coilUnwait r b).hang = b.hang := rfl
@[simp] theorem coilUnwait_pwr (b : Body) (r : CoilReq) : (coilUnwait r b).pwr = b.pwr := rfl

/-! ### coilFreeCtx -/

@[simp] theorem coilFreeCtx_mem (b : Body) (c : Nat) : (coilFreeCtx c b).mem = b.mem := rfl
@[simp] theorem coilFreeCtx_blk (b : Body) (c : Nat) : (coilFreeCtx c b).blk = b.blk := rfl
@[simp] theorem coilFreeCtx_cp (b : Body) (c : Nat) : (coilFreeCtx c b).cp = b.cp := rfl
@[simp] theorem coilFreeCtx_ctxs (b : Body) (c : Nat) : (coilFreeCtx c b).ctxs = b.ctxs := rfl
@[simp] theorem coilFreeCtx_opens (b : Body) (c : Nat) : (coilFreeCtx c b).opens = b.opens := rfl
@[simp] theorem coilFreeCtx_nextOid (b : Body) (c : Nat) : (coilFreeCtx c b).nextOid = b.nextOid := rfl
@[simp] theorem coilFreeCtx_nextUid (b : Body) (c : Nat) : (coilFreeCtx c b).nextUid = b.nextUid := rfl
@[simp] theorem coilFreeCtx_freeCtr (b : Body) (c : Nat) : (coilFreeCtx c b).freeCtr = b.freeCtr := rfl
@[simp] theorem coilFreeCtx_xlt (b : Body) (c : Nat) : (coilFreeCtx c b).xlt = b.xlt := rfl
@[simp] theorem coilFreeCtx_parts (b : Body) (c : Nat) : (coilFreeCtx c b).parts = b.parts := rfl
@[simp] theorem coilFreeCtx_cr (b : Body) (c : Nat) : (coilFreeCtx c b).cr = b.cr := rfl
@[simp] theorem coilFreeCtx_slots (b : Body) (c : Nat) : (coilFreeCtx c b).slots = b.slots := rfl
@[simp] theorem coilFreeCtx_units (b : Body) (c : Nat) : (coilFreeCtx c b).units = b.units := rfl
@[simp] theorem coilFreeCtx_mrl (b : Body) (c : Nat) : (coilFreeCtx c b).mrl = b.mrl := rfl
@[simp] theorem coilFreeCtx_stepSel (b : Body) (c : Nat) : (coilFreeCtx c b).stepSel = b.stepSel := rfl
@[simp] theorem coilFreeCtx_ledSel (b : Body) (c : Nat) : (coilFreeCtx c b).ledSel = b.ledSel := rfl
@[simp] theorem coilFreeCtx_ledEnt (b : Body) (c : Nat) : (coilFreeCtx c b).ledEnt = b.ledEnt := rfl
@[simp] theorem coilFreeCtx_gens (b : Body) (c : Nat) : (coilFreeCtx c b).gens = b.gens := rfl
@[simp] theorem coilFreeCtx_genSel (b : Body) (c : Nat) : (coilFreeCtx c b).genSel = b.genSel := rfl
@[simp] theorem coilFreeCtx_skn (b : Body) (c : Nat) : (coilFreeCtx c b).skn = b.skn := rfl
@[simp] theorem coilFreeCtx_fab (b : Body) (c : Nat) : (coilFreeCtx c b).fab = b.fab := rfl
@[simp] theorem coilFreeCtx_thm (b : Body) (c : Nat) : (coilFreeCtx c b).thm = b.thm := rfl
@[simp] theorem coilFreeCtx_stc (b : Body) (c : Nat) : (coilFreeCtx c b).stc = b.stc := rfl
@[simp] theorem coilFreeCtx_lay (b : Body) (c : Nat) : (coilFreeCtx c b).lay = b.lay := rfl
@[simp] theorem coilFreeCtx_obs (b : Body) (c : Nat) : (coilFreeCtx c b).obs = b.obs := rfl
@[simp] theorem coilFreeCtx_hang (b : Body) (c : Nat) : (coilFreeCtx c b).hang = b.hang := rfl
@[simp] theorem coilFreeCtx_pwr (b : Body) (c : Nat) : (coilFreeCtx c b).pwr = b.pwr := rfl

/-! ### sendCtrl -/

@[simp] theorem sendCtrl_mem (b : Body) (n : Nat) (c : CtrlFlit) : (sendCtrl n c b).mem = b.mem := rfl
@[simp] theorem sendCtrl_blk (b : Body) (n : Nat) (c : CtrlFlit) : (sendCtrl n c b).blk = b.blk := rfl
@[simp] theorem sendCtrl_cp (b : Body) (n : Nat) (c : CtrlFlit) : (sendCtrl n c b).cp = b.cp := rfl
@[simp] theorem sendCtrl_ctxs (b : Body) (n : Nat) (c : CtrlFlit) : (sendCtrl n c b).ctxs = b.ctxs := rfl
@[simp] theorem sendCtrl_opens (b : Body) (n : Nat) (c : CtrlFlit) : (sendCtrl n c b).opens = b.opens := rfl
@[simp] theorem sendCtrl_nextOid (b : Body) (n : Nat) (c : CtrlFlit) : (sendCtrl n c b).nextOid = b.nextOid := rfl
@[simp] theorem sendCtrl_nextUid (b : Body) (n : Nat) (c : CtrlFlit) : (sendCtrl n c b).nextUid = b.nextUid := rfl
@[simp] theorem sendCtrl_freeCtr (b : Body) (n : Nat) (c : CtrlFlit) : (sendCtrl n c b).freeCtr = b.freeCtr := rfl
@[simp] theorem sendCtrl_xlt (b : Body) (n : Nat) (c : CtrlFlit) : (sendCtrl n c b).xlt = b.xlt := rfl
@[simp] theorem sendCtrl_coil (b : Body) (n : Nat) (c : CtrlFlit) : (sendCtrl n c b).coil = b.coil := rfl
@[simp] theorem sendCtrl_parts (b : Body) (n : Nat) (c : CtrlFlit) : (sendCtrl n c b).parts = b.parts := rfl
@[simp] theorem sendCtrl_cr (b : Body) (n : Nat) (c : CtrlFlit) : (sendCtrl n c b).cr = b.cr := rfl
@[simp] theorem sendCtrl_slots (b : Body) (n : Nat) (c : CtrlFlit) : (sendCtrl n c b).slots = b.slots := rfl
@[simp] theorem sendCtrl_units (b : Body) (n : Nat) (c : CtrlFlit) : (sendCtrl n c b).units = b.units := rfl
@[simp] theorem sendCtrl_mrl (b : Body) (n : Nat) (c : CtrlFlit) : (sendCtrl n c b).mrl = b.mrl := rfl
@[simp] theorem sendCtrl_stepSel (b : Body) (n : Nat) (c : CtrlFlit) : (sendCtrl n c b).stepSel = b.stepSel := rfl
@[simp] theorem sendCtrl_ledSel (b : Body) (n : Nat) (c : CtrlFlit) : (sendCtrl n c b).ledSel = b.ledSel := rfl
@[simp] theorem sendCtrl_ledEnt (b : Body) (n : Nat) (c : CtrlFlit) : (sendCtrl n c b).ledEnt = b.ledEnt := rfl
@[simp] theorem sendCtrl_gens (b : Body) (n : Nat) (c : CtrlFlit) : (sendCtrl n c b).gens = b.gens := rfl
@[simp] theorem sendCtrl_genSel (b : Body) (n : Nat) (c : CtrlFlit) : (sendCtrl n c b).genSel = b.genSel := rfl
@[simp] theorem sendCtrl_skn (b : Body) (n : Nat) (c : CtrlFlit) : (sendCtrl n c b).skn = b.skn := rfl
@[simp] theorem sendCtrl_thm (b : Body) (n : Nat) (c : CtrlFlit) : (sendCtrl n c b).thm = b.thm := rfl
@[simp] theorem sendCtrl_stc (b : Body) (n : Nat) (c : CtrlFlit) : (sendCtrl n c b).stc = b.stc := rfl
@[simp] theorem sendCtrl_lay (b : Body) (n : Nat) (c : CtrlFlit) : (sendCtrl n c b).lay = b.lay := rfl
@[simp] theorem sendCtrl_obs (b : Body) (n : Nat) (c : CtrlFlit) : (sendCtrl n c b).obs = b.obs := rfl
@[simp] theorem sendCtrl_hang (b : Body) (n : Nat) (c : CtrlFlit) : (sendCtrl n c b).hang = b.hang := rfl

/-! ### traceLineOut -/

@[simp] theorem traceLineOut_blk (b : Body) (line : Nat) (bs : List Byte) : (traceLineOut line bs b).blk = b.blk := rfl
@[simp] theorem traceLineOut_cp (b : Body) (line : Nat) (bs : List Byte) : (traceLineOut line bs b).cp = b.cp := rfl
@[simp] theorem traceLineOut_ctxs (b : Body) (line : Nat) (bs : List Byte) : (traceLineOut line bs b).ctxs = b.ctxs := rfl
@[simp] theorem traceLineOut_opens (b : Body) (line : Nat) (bs : List Byte) : (traceLineOut line bs b).opens = b.opens := rfl
@[simp] theorem traceLineOut_nextOid (b : Body) (line : Nat) (bs : List Byte) : (traceLineOut line bs b).nextOid = b.nextOid := rfl
@[simp] theorem traceLineOut_nextUid (b : Body) (line : Nat) (bs : List Byte) : (traceLineOut line bs b).nextUid = b.nextUid := rfl
@[simp] theorem traceLineOut_freeCtr (b : Body) (line : Nat) (bs : List Byte) : (traceLineOut line bs b).freeCtr = b.freeCtr := rfl
@[simp] theorem traceLineOut_coil (b : Body) (line : Nat) (bs : List Byte) : (traceLineOut line bs b).coil = b.coil := rfl
@[simp] theorem traceLineOut_parts (b : Body) (line : Nat) (bs : List Byte) : (traceLineOut line bs b).parts = b.parts := rfl
@[simp] theorem traceLineOut_cr (b : Body) (line : Nat) (bs : List Byte) : (traceLineOut line bs b).cr = b.cr := rfl
@[simp] theorem traceLineOut_slots (b : Body) (line : Nat) (bs : List Byte) : (traceLineOut line bs b).slots = b.slots := rfl
@[simp] theorem traceLineOut_units (b : Body) (line : Nat) (bs : List Byte) : (traceLineOut line bs b).units = b.units := rfl
@[simp] theorem traceLineOut_mrl (b : Body) (line : Nat) (bs : List Byte) : (traceLineOut line bs b).mrl = b.mrl := rfl
@[simp] theorem traceLineOut_stepSel (b : Body) (line : Nat) (bs : List Byte) : (traceLineOut line bs b).stepSel = b.stepSel := rfl
@[simp] theorem traceLineOut_ledSel (b : Body) (line : Nat) (bs : List Byte) : (traceLineOut line bs b).ledSel = b.ledSel := rfl
@[simp] theorem traceLineOut_ledEnt (b : Body) (line : Nat) (bs : List Byte) : (traceLineOut line bs b).ledEnt = b.ledEnt := rfl
@[simp] theorem traceLineOut_gens (b : Body) (line : Nat) (bs : List Byte) : (traceLineOut line bs b).gens = b.gens := rfl
@[simp] theorem traceLineOut_genSel (b : Body) (line : Nat) (bs : List Byte) : (traceLineOut line bs b).genSel = b.genSel := rfl
@[simp] theorem traceLineOut_skn (b : Body) (line : Nat) (bs : List Byte) : (traceLineOut line bs b).skn = b.skn := rfl
@[simp] theorem traceLineOut_fab (b : Body) (line : Nat) (bs : List Byte) : (traceLineOut line bs b).fab = b.fab := rfl
@[simp] theorem traceLineOut_thm (b : Body) (line : Nat) (bs : List Byte) : (traceLineOut line bs b).thm = b.thm := rfl
@[simp] theorem traceLineOut_stc (b : Body) (line : Nat) (bs : List Byte) : (traceLineOut line bs b).stc = b.stc := rfl
@[simp] theorem traceLineOut_lay (b : Body) (line : Nat) (bs : List Byte) : (traceLineOut line bs b).lay = b.lay := rfl
@[simp] theorem traceLineOut_obs (b : Body) (line : Nat) (bs : List Byte) : (traceLineOut line bs b).obs = b.obs := rfl
@[simp] theorem traceLineOut_hang (b : Body) (line : Nat) (bs : List Byte) : (traceLineOut line bs b).hang = b.hang := rfl

/-! ### freeMarlin -/

@[simp] theorem freeMarlin_mem (b : Body) : (freeMarlin b).mem = b.mem := rfl
@[simp] theorem freeMarlin_blk (b : Body) : (freeMarlin b).blk = b.blk := rfl
@[simp] theorem freeMarlin_cp (b : Body) : (freeMarlin b).cp = b.cp := rfl
@[simp] theorem freeMarlin_ctxs (b : Body) : (freeMarlin b).ctxs = b.ctxs := rfl
@[simp] theorem freeMarlin_opens (b : Body) : (freeMarlin b).opens = b.opens := rfl
@[simp] theorem freeMarlin_nextOid (b : Body) : (freeMarlin b).nextOid = b.nextOid := rfl
@[simp] theorem freeMarlin_nextUid (b : Body) : (freeMarlin b).nextUid = b.nextUid := rfl
@[simp] theorem freeMarlin_freeCtr (b : Body) : (freeMarlin b).freeCtr = b.freeCtr := rfl
@[simp] theorem freeMarlin_xlt (b : Body) : (freeMarlin b).xlt = b.xlt := rfl
@[simp] theorem freeMarlin_parts (b : Body) : (freeMarlin b).parts = b.parts := rfl
@[simp] theorem freeMarlin_cr (b : Body) : (freeMarlin b).cr = b.cr := rfl
@[simp] theorem freeMarlin_slots (b : Body) : (freeMarlin b).slots = b.slots := rfl
@[simp] theorem freeMarlin_units (b : Body) : (freeMarlin b).units = b.units := rfl
@[simp] theorem freeMarlin_stepSel (b : Body) : (freeMarlin b).stepSel = b.stepSel := rfl
@[simp] theorem freeMarlin_ledSel (b : Body) : (freeMarlin b).ledSel = b.ledSel := rfl
@[simp] theorem freeMarlin_ledEnt (b : Body) : (freeMarlin b).ledEnt = b.ledEnt := rfl
@[simp] theorem freeMarlin_gens (b : Body) : (freeMarlin b).gens = b.gens := rfl
@[simp] theorem freeMarlin_genSel (b : Body) : (freeMarlin b).genSel = b.genSel := rfl
@[simp] theorem freeMarlin_skn (b : Body) : (freeMarlin b).skn = b.skn := rfl
@[simp] theorem freeMarlin_fab (b : Body) : (freeMarlin b).fab = b.fab := rfl
@[simp] theorem freeMarlin_thm (b : Body) : (freeMarlin b).thm = b.thm := rfl
@[simp] theorem freeMarlin_stc (b : Body) : (freeMarlin b).stc = b.stc := rfl
@[simp] theorem freeMarlin_lay (b : Body) : (freeMarlin b).lay = b.lay := rfl
@[simp] theorem freeMarlin_obs (b : Body) : (freeMarlin b).obs = b.obs := rfl
@[simp] theorem freeMarlin_hang (b : Body) : (freeMarlin b).hang = b.hang := rfl
@[simp] theorem freeMarlin_pwr (b : Body) : (freeMarlin b).pwr = b.pwr := rfl

/-! ### settle -/

@[simp] theorem settle_mem (old new : Body) : (settle old new).mem = new.mem := rfl
@[simp] theorem settle_blk (old new : Body) : (settle old new).blk = new.blk := rfl
@[simp] theorem settle_cp (old new : Body) : (settle old new).cp = new.cp := rfl
@[simp] theorem settle_ctxs (old new : Body) : (settle old new).ctxs = new.ctxs := rfl
@[simp] theorem settle_opens (old new : Body) : (settle old new).opens = new.opens := rfl
@[simp] theorem settle_nextOid (old new : Body) : (settle old new).nextOid = new.nextOid := rfl
@[simp] theorem settle_nextUid (old new : Body) : (settle old new).nextUid = new.nextUid := rfl
@[simp] theorem settle_freeCtr (old new : Body) : (settle old new).freeCtr = new.freeCtr := rfl
@[simp] theorem settle_xlt (old new : Body) : (settle old new).xlt = new.xlt := rfl
@[simp] theorem settle_coil (old new : Body) : (settle old new).coil = new.coil := rfl
@[simp] theorem settle_parts (old new : Body) : (settle old new).parts = new.parts := rfl
@[simp] theorem settle_cr (old new : Body) : (settle old new).cr = new.cr := rfl
@[simp] theorem settle_slots (old new : Body) : (settle old new).slots = new.slots := rfl
@[simp] theorem settle_units (old new : Body) : (settle old new).units = new.units := rfl
@[simp] theorem settle_mrl (old new : Body) : (settle old new).mrl = new.mrl := rfl
@[simp] theorem settle_stepSel (old new : Body) : (settle old new).stepSel = new.stepSel := rfl
@[simp] theorem settle_ledSel (old new : Body) : (settle old new).ledSel = new.ledSel := rfl
@[simp] theorem settle_ledEnt (old new : Body) : (settle old new).ledEnt = new.ledEnt := rfl
@[simp] theorem settle_gens (old new : Body) : (settle old new).gens = new.gens := rfl
@[simp] theorem settle_genSel (old new : Body) : (settle old new).genSel = new.genSel := rfl
@[simp] theorem settle_skn (old new : Body) : (settle old new).skn = new.skn := rfl
@[simp] theorem settle_fab (old new : Body) : (settle old new).fab = new.fab := rfl
@[simp] theorem settle_thm (old new : Body) : (settle old new).thm = new.thm := rfl
@[simp] theorem settle_stc (old new : Body) : (settle old new).stc = new.stc := rfl
@[simp] theorem settle_lay (old new : Body) : (settle old new).lay = new.lay := rfl
@[simp] theorem settle_hang (old new : Body) : (settle old new).hang = new.hang := rfl
@[simp] theorem settle_pwr (old new : Body) : (settle old new).pwr = new.pwr := rfl

end Sys2Proof.Machine
end

