-- ==== Sys2Proof/Laws/Step.lean ====
section
/-! SUPPORT. What the wrappers of the meanings do: the block in reset, the body and the whole state, a register held by an
assay slice, a head record, a packet. -/

namespace Sys2Proof.Machine

set_option Elab.async false

/-- A step with commands waiting runs the first of them. -/
theorem step_cons {s : State} {c : Instr} {rest : List Instr} (h : s.pending = c :: rest) :
    step s = exec c { s with pending := rest } := by
  unfold step
  rw [h]

/-- A step on an empty queue is one tick. -/
theorem step_nil {s : State} (h : s.pending = []) : step s = .next (idle s) := by
  unfold step
  rw [h]

/-- In reset a meaning on the body does nothing. -/
theorem onBody_porst {s : State} (f : Nat → Body → Body) (h : s.b.blk.porst = true) : s.onBody f = .next s := by
  simp [State.onBody, h]

theorem onAll_porst {s : State} (f : State → State) (h : s.b.blk.porst = true) : s.onAll f = .next s := by
  simp [State.onAll, h]

/-- Out of reset a meaning on the body has its effect, and the observation unit takes note. -/
theorem onBody_run {s : State} {f : Nat → Body → Body} (h : powered s) : s.onBody f = ran s f := by
  unfold powered at h
  simp [State.onBody, ran, h]

theorem onAll_run {s : State} {f : State → State} (h : powered s) : s.onAll f = ranAll s f := by
  unfold powered at h
  simp [State.onAll, ranAll, h]

/-- A meaning on the body leaves the queue, the fabric address and the tally store. -/
theorem onBody_keeps {s t : State} {f : Nat → Body → Body} (h : s.onBody f = .next t) :
    t.pending = s.pending ∧ t.addr = s.addr ∧ t.tal = s.tal := by
  unfold State.onBody at h
  split at h <;> cases h <;> exact ⟨rfl, rfl, rfl⟩

/-- What a meaning on the body leaves of the body: what its effect leaves, and nothing in reset. -/
theorem onBody_body {s t : State} {f : Nat → Body → Body} (P : Body → Prop) (h : s.onBody f = .next t) (h0 : P s.b)
    (h1 : P (settle s.b (f s.addr.own s.b))) : P t.b := by
  unfold State.onBody at h
  split at h <;> cases h <;> assumption

/-- A register row runs where no slice holds its unit. -/
theorem regRow_run {s : State} {off : Nat} {f : Body → Body} (h : RegFree s off) : regRow off f s = ran s (fun _ b => f b) := by
  unfold regRow
  rw [onBody_run h.power]
  unfold ran
  simp only [h.held, Bool.false_eq_true, if_false]

/-- Without an assay no slice holds a register. -/
theorem held_idle {b : Body} (off : Nat) (h : b.blk.assay = none) : held b off = false := by
  unfold held
  rw [h]

theorem ite_false_of {c : Prop} [Decidable c] {x y : Bool} (hx : x = false) (hy : y = false) :
    (if c then x else y) = false := by
  split <;> assumption

/-- No slice holds a register of the observation unit, the power management or the assay. -/
theorem sliceHolds_high (n off : Nat) (h : 0x1C0000 ≤ off) : sliceHolds n off = false := by
  unfold sliceHolds
  dsimp only
  iterate 14 refine ite_false_of (by simp; try omega) ?_
  simp
  omega

theorem held_high {b : Body} {off : Nat} (h : 0x1C0000 ≤ off) : held b off = false := by
  unfold held
  split
  · split
    · rw [sliceHolds_high _ _ h, Bool.and_false]
    · rfl
  · rfl

/-- A head record that runs meets its command's operation. -/
theorem withHead_run {s : State} {q code : Nat} {r : CmdRec} (f : CmdRec → Body → Body) (h : HeadRuns s q code r) :
    withHead s.addr.own q code f s.b = f r s.b := by
  unfold withHead
  simp [h.head, h.kind, h.wait, h.hold, h.check]

/-- A record that joins no queue meets its command's operation. -/
theorem withExpress_run {s : State} {code : Nat} {r : CmdRec} (f : CmdRec → Body → Body) (h : ExpressRuns s code r) :
    withExpress s.addr.own code f s.b = f r s.b := by
  unfold withExpress
  simp [h.first, h.hold, h.check]

/-- A packet that stands first goes to its consumer. -/
theorem withPacket_run {s : State} {f : Packet → Bool} {p : Packet} (use : Packet → Body → Body) (h : PacketWaits s f p) :
    withPacket f use s.b = use p (consumePacket p s.b) := by
  unfold withPacket
  simp [h.free, h.front]

/-- A block that is stopped moves no packet. -/
theorem withPacket_frozen {b : Body} (f : Packet → Bool) (use : Packet → Body → Body) (h : frozen b = true) :
    withPacket f use b = b := by
  simp [withPacket, h]

end Sys2Proof.Machine
end

