-- ==== Sys2Proof/Tests/Slice0.lean ====
section
/-! SUPPORT. Tests: what `Instr.wf` refuses, worked values of the spec, and for each statement with hypotheses a concrete
state and operands that meet them. -/

namespace Sys2Proof.Tests

set_option Elab.async false

open Sys2Proof Sys2Proof.Machine

/-! ### Well-formedness refuses -/

theorem test_wf_port : (Instr.linkTrained 35).wf = true ∧ (Instr.linkTrained 36).wf = false := by decide
theorem test_wf_offset : (Instr.registerWrite 4 0).wf = true ∧ (Instr.registerWrite 6 0).wf = false := by decide
theorem test_wf_queue : (Instr.regRead 64).wf = true ∧ (Instr.regRead 65).wf = false := by decide
theorem test_wf_intake : (Instr.cpRecordIntake [default]).wf = true ∧ (Instr.cpRecordIntake []).wf = false := by decide
theorem test_wf_tile : (Instr.tileReceive []).wf = true ∧ (Instr.tileReceive (List.replicate (2 ^ 14) 0)).wf = false := by
  constructor
  · decide
  · rw [Instr.wf, List.length_replicate]; decide
theorem test_wf_response :
    (Instr.memoryResponse 0 0 2 0).wf = true ∧ (Instr.memoryResponse 0 0 3 0).wf = false := by decide
theorem test_wf_monitor :
    (Instr.wearMeasure 3 0 8 0).wf = true ∧ (Instr.wearMeasure 3 0 9 0).wf = false
      ∧ (Instr.wearMeasure 2 1 0 0).wf = false ∧ (Instr.wearMeasure 0 3 131 0).wf = true
      ∧ (Instr.wearMeasure 7 0 0 0).wf = false := by decide

/-! ### The helpers of the tests -/

/-- The block out of reset with a body. -/
def up (b : Body) : State := { b := b }

/-- A command record: code, context, GLOBAL, body words, ADDR, w3 [31:12]. -/
def record (code ctx : Nat) (g : Bool) (body : List Nat) (addr : Nat := 0) (arg : Nat := 0) : CmdRec :=
  { w0 := code + 2 ^ 8 * ctx + 2 ^ 15 * b2n g + 2 ^ 16 * cdiv body.length 4, w1 := 7, w2 := addr, w3 := 2 ^ 12 * arg,
    body := body, priv := true }

/-- A body that serves: a lay in force with every line of a page present, DX_READY 1. -/
def serving : Body :=
  { blk := { dxReady := true, dxEn := true, started := true, grade := List.replicate 4 0xFFFFFFFF },
    lay := { loaded := true, pending := false, secs := [{ type := 1, els := [15, 0, 0, 0xFFFFFFFF, 0, 0x08000000] }] } }

/-- That body with context 0 in RUN. -/
def running : Body := { serving with ctxs := tset (List.replicate 64 {}) 0 { st := .run } }

/-- That body with page 0 of context 0 mapped to the first page of its partition, and one line of memory. -/
def mapped (line : List Hank) : Body :=
  { serving with
    ctxs := tset (List.replicate 64 {}) 0 { st := .run, rootValid := true },
    parts := tset (List.replicate 4 {}) 0 { ppnCount := 1, port := 0x100 },
    xlt := { cache := [{ ctx := 0, vpn := 0, ppn := 0, rd := true, wr := true, acc := true }] },
    mem := memWrite [] 0 (sealedLine line) }

/-- A body with a record at the head of its queue, or kept for its immediate acceptance. -/
def queued (r : CmdRec) (b : Body) : Body := { b with cp := { b.cp with queue := [r] } }
def express (r : CmdRec) (b : Body) : Body := { b with cp := { b.cp with express := [r] } }

/-- A packet of a virtual channel with a header hank. -/
def packet (vc : Nat) (ws : List Nat) (more : List Hank := []) : Packet := { vc := vc, hanks := i32Hank ws :: more }

/-- A body with that packet before its consumer. -/
def waiting (p : Packet) (b : Body) : Body := { b with fab := { b.fab with rx := [p] } }

/-! ### Every step, the reset, the bight chain and the start -/

/-- A state with commands that wait. -/
def waits (cs : List Instr) (b : Body) : State := { up b with pending := cs }

theorem test_witness_stepRunsFront : (waits [.trigger, .arm] {}).pending = .trigger :: [.arm] := rfl
theorem test_witness_idleTick_root :
    (up { stc := { root := true } }).pending = [] ∧ powered (up { stc := { root := true } })
      ∧ (up { stc := { root := true } }).b.obs.stage.length < 15 := ⟨rfl, rfl, by decide⟩
theorem test_witness_idleTick_other :
    (up { stc := { phase := 1022 } }).pending = [] ∧ powered (up { stc := { phase := 1022 } })
      ∧ (up { stc := { phase := 1022 } }).b.stc.hold = 0 ∧ (up { stc := { phase := 1022 } }).b.stc.phase < 1023 :=
  ⟨rfl, rfl, rfl, by decide⟩
theorem test_witness_queueUntouched : ∃ t, exec .trigger (waits [.arm] {}) = .next t ∧ t.pending = [.arm] := ⟨_, rfl, rfl⟩
theorem test_witness_resetHoldsEverything :
    (up { blk := { porst := true } }).b.blk.porst = true ∧ movesInReset .trigger = false := ⟨rfl, rfl⟩

/-- A chip at rack 17, position 300. -/
def placed : FabAddr := { addr := 0x232C, locked := true, bco := some 0 }

theorem test_witness_lockedAddressStays :
    storeInv { pending := [.trigger], addr := placed } = true ∧ (∃ t, step { pending := [.trigger], addr := placed } = .next t)
      ∧ (∀ c, ([Instr.trigger] : List Instr).head? = some c → dropsAddress c = false) ∧ placed.locked = true :=
  ⟨by decide, ⟨_, rfl⟩, by simp [dropsAddress], rfl⟩
theorem test_witness_recordsOnlyAppend : ∃ t, step (waits [.lossOfPower] {}) = .next t := ⟨_, rfl⟩
/-- A tally store with a life-cycle commit in progress. -/
def committing : Tally := { busy := some (3, [1]) }
theorem test_witness_storeInvStep :
    storeInv { pending := [.tallyCommitDone], tal := committing } = true
      ∧ ∃ t, step { pending := [.tallyCommitDone], tal := committing } = .next t := ⟨by decide, ⟨_, rfl⟩⟩
theorem test_witness_lifeAndGradeForward :
    ∃ t, step { pending := [.tallyCommitDone], tal := committing } = .next t ∧ t.tal.life = 1 := ⟨_, rfl, by decide +kernel⟩
theorem test_witness_addressFrame : touchesAddress .trigger = false ∧ ∃ t, exec .trigger {} = .next t := ⟨rfl, ⟨_, rfl⟩⟩
theorem test_witness_tallyFrame : touchesTally .trigger = false ∧ ∃ t, exec .trigger {} = .next t := ⟨rfl, ⟨_, rfl⟩⟩
theorem test_witness_stoppedUnitsStand :
    powered (up { hang := { halted := true } }) ∧ frozen { hang := { halted := true } } = true ∧ unitStep .wpCardAck = true :=
  ⟨rfl, rfl, rfl⟩
theorem test_witness_memoryFrame : storesNothing .outwardRecord = true ∧ ∃ t, exec .outwardRecord {} = .next t :=
  ⟨rfl, ⟨_, rfl⟩⟩
theorem test_witness_stoppedUnitsStand_bridges :
    frozen { pwr := { binding := true } } = true ∧ (up { pwr := { binding := true } }).b.thm.tpHold = false := ⟨rfl, rfl⟩
theorem test_witness_resetRows : (up { blk := { porst := true } }).b.blk.porst = true ∧ (up {}).b.blk.porst = false := ⟨rfl, rfl⟩
theorem test_witness_cutCommitStaysConsumed :
    ({ tal := committing } : State).tal.busy = some (3, [1]) ∧ 3 < 4 := ⟨rfl, by decide⟩

/-- A token for rack 17 and a position, with good parity (R362). -/
def token (p : Nat) : BitVec 24 := withParity (fld 9 0 p + fld 17 10 17)

/-- The worked position of the spec: rack 17, chip 300 has the address 0x232C and passes on COUNT 301 (R363). -/
theorem test_bight_worked :
    (bightOp (token 300) {}).addr = 0x232C ∧ (bightOp (token 300) {}).bco = some (token 301) := by decide +kernel
theorem test_witness_bightTokens :
    (up {}).addr.bco = none ∧ tokenGood (token 0).toNat = true ∧ tokenGood (token 511).toNat = true
      ∧ tokenGood (token 512).toNat = false ∧ tokenGood (token 300 + 1).toNat = false ∧ placed.bco.isSome = true := by
  decide +kernel
theorem test_witness_startRuns :
    powered (up {}) ∧ (up {}).b.blk.dxEn = false ∧ (up {}).b.blk.assay = none ∧ (up {}).b.blk.assayNext = false
      ∧ (up {}).b.blk.shutting = false ∧ (up {}).b.blk.afterCommit = none ∧ (up {}).tal.busy = none
      ∧ portEnabled {} 35 = false ∧ (up {}).b.blk.started = false ∧ (up serving).b.blk.started = true :=
  ⟨rfl, rfl, rfl, rfl, rfl, rfl, rfl, rfl, rfl, rfl⟩
theorem test_witness_startRuns_waits :
    (up { blk := { shutting := true } }).b.blk.shutting = true ∧ committing.busy ≠ none
      ∧ (up { blk := { afterCommit := some [] } }).b.blk.afterCommit ≠ none := ⟨rfl, by decide, by decide⟩
theorem test_witness_enableFalls_shut :
    powered (up { blk := { dxEn := true, dxReady := true, shut := true } })
      ∧ (up { blk := { dxEn := true, dxReady := true, shut := true } }).b.blk.shut = true := ⟨rfl, rfl⟩
theorem test_witness_enableFalls_notReady :
    powered (up { blk := { dxEn := true } }) ∧ (up { blk := { dxEn := true } }).b.blk.dxReady = false
      ∧ ({ shutting := true } : Block).shutting = true := ⟨rfl, rfl, rfl⟩
theorem test_witness_enableFalls_serves :
    powered (up serving) ∧ (up serving).b.blk.dxEn = true ∧ (up serving).b.blk.dxReady = true
      ∧ (up serving).b.blk.shut = false ∧ (up serving).b.blk.shutting = false := ⟨rfl, rfl, rfl, rfl, rfl⟩

/-- An assay with a slice in progress since tick 0. -/
def testing : Body := { blk := { assay := some { cur := some 3 } } }

theorem test_witness_riseDuringAssay :
    powered (up testing) ∧ (up testing).b.blk.dxEn = false ∧ (up testing).b.blk.assay = some { cur := some 3 }
      ∧ ({ cur := some 3 } : Assay).cur = some 3 ∧ ({} : Assay).cur = none
      ∧ ({ blk := { assay := some { start := 1 } } } : Body).now < ({ start := 1 } : Assay).start :=
  ⟨rfl, rfl, rfl, rfl, rfl, by decide⟩

/-! ### The command port and the registers -/

/-- A transfer that holds a whole record of no body hank: SEQ and the header's first word. -/
def oneTransfer (w0 : Nat) (priv : Bool) : Transfer :=
  { data := BitVec.ofNat 256 (256 * w0), first := true, last := true, priv := priv }

theorem test_witness_intakeTakesRecords :
    powered (up serving) ∧ (up serving).b.blk.dxReady = true ∧ (up serving).b.cp.partial_ = none
      ∧ transferCount (oneTransfer 0x8030 true).data = 1
      ∧ intakeCheck (recordOf [(oneTransfer 0x8030 true).data] true) serving = .ok ()
      ∧ intakeCheck (recordOf [(oneTransfer 0x21 true).data] true) serving = .ok ()
      ∧ intakeCheck (recordOf [(oneTransfer 0x8039 false).data] false) serving = .error Code.cmdPriv
      ∧ intakeCheck (recordOf [(oneTransfer 0xFF true).data] true) serving = .error Code.cmdUnknown :=
  ⟨rfl, rfl, rfl, by decide +kernel, by rfl, by rfl, by rfl, by rfl⟩
/-- The first of a record's two transfers has been taken; and framing has been broken. -/
def twoTransfers : BitVec 256 := BitVec.ofNat 256 (256 * 0x10030)
def halfTaken : Body := { serving with cp := { partial_ := some ([twoTransfers], true) } }
def discarding : Body := { serving with cp := { discard := true } }
theorem test_witness_intakeTakesRecords_framing :
    transferCount twoTransfers = 2 ∧ halfTaken.cp.partial_ = some ([twoTransfers], true)
      ∧ ([twoTransfers] : List (BitVec 256)).length + 1 = transferCount (([twoTransfers] : List (BitVec 256)).headD 0)
      ∧ ([twoTransfers, 0] : List (BitVec 256)).length + 1 ≠ transferCount (([twoTransfers, 0] : List (BitVec 256)).headD 0)
      ∧ discarding.cp.partial_ = none ∧ discarding.cp.discard = true ∧ serving.cp.discard = false
      ∧ ({} : Body).blk.dxReady = false := by decide +kernel
theorem test_witness_outwardRecordLeaves :
    powered (up { cp := { out := [{}] } }) ∧ (up { cp := { out := [{}] } }).b.cp.out = {} :: []
      ∧ (up { cp := { out := [{}] } }).b.cp.waitOut = [] := ⟨rfl, rfl, rfl⟩
theorem test_witness_headsRefusedOrWait_reply : ({} : Body).cp.waitOut = [] ∧ replyHeld {} + 1 ≤ replyRoom := ⟨rfl, by decide⟩
/-- The tag of a hank leads it in its transfer, and its first word follows. -/
theorem test_witness_outwardRecordLeaves_bytes : 0 < (i32Hanks [1, 2, 3]).length
    ∧ bits (((sentRec [1, 2, 3]).transfers.getD 0 {}).data).toNat 7 0 = 0x7F
    ∧ bits (((sentRec [1, 2, 3]).transfers.getD 0 {}).data).toNat 15 8 = 1 := by decide +kernel

/-- A command behind a MUSTER does not start; one without waits for nothing (R334). -/
theorem test_muster_fences :
    mayRun { running with opens := [{ oid := 1, cmd := record Cmd.muster 0 false [] }] } { oid := 2, cmd := record Cmd.copy 0 false [] } = false
      ∧ mayRun running { oid := 2, cmd := record Cmd.copy 0 false [] } = true := ⟨by decide +kernel, by decide +kernel⟩

def collectRecord : CmdRec := record Cmd.collect 0 false [] 0 0

/-- A context whose head record met XLT_MISS at its acceptance. -/
def headStopped : Body := { serving with ctxs := tset (List.replicate 64 {}) 0 { st := .faulted, cmdRec := some { unit := 13 } } }

theorem test_witness_headsRefusedOrWait_waits :
    powered (up (queued collectRecord headStopped))
      ∧ headRec (queued collectRecord headStopped) 0 = some collectRecord ∧ collectRecord.code = Cmd.collect
      ∧ headWaits (queued collectRecord headStopped) collectRecord = true :=
  ⟨rfl, rfl, rfl, by decide +kernel⟩
theorem test_witness_headsRefusedOrWait_refused :
    headWaits (queued collectRecord serving) collectRecord = false ∧ holdStops (queued collectRecord serving) Cmd.collect = false
      ∧ acceptCheck noAddress collectRecord (queued collectRecord serving) = .error Code.ctxAbsent :=
  ⟨by decide +kernel, rfl, rfl⟩

theorem test_witness_headsRefusedOrWait_express :
    headRow (.routeStep 0) = some (0, Cmd.routeStep) ∧ expressRow .resume = some Cmd.resume
      ∧ heldReady (queued (record Cmd.routeStep 0 false (List.replicate 12 0)) serving) 0 Cmd.routeStep = none
      ∧ acceptCheck noAddress (record Cmd.routeStep 0 false (List.replicate 12 0))
          (queued (record Cmd.routeStep 0 false (List.replicate 12 0)) serving) = .error Code.ctxAbsent
      ∧ (express (record Cmd.resume 0 false []) serving).cp.express.find? (fun x => x.code == Cmd.resume)
          = some (record Cmd.resume 0 false [])
      ∧ holdStops (express (record Cmd.resume 0 false []) serving) Cmd.resume = false
      ∧ acceptCheck noAddress (record Cmd.resume 0 false []) (express (record Cmd.resume 0 false []) serving)
          = .error Code.ctxAbsent := ⟨rfl, rfl, rfl, rfl, rfl, rfl, rfl⟩
theorem test_witness_headCommandsRun_global :
    HeadRuns (up (queued (record Cmd.loadLay 0 true [15, 0, 0, 0]) serving)) 64 Cmd.loadLay
      (record Cmd.loadLay 0 true [15, 0, 0, 0])
    ∧ HeadRuns (up (queued (record Cmd.applySplice 0 true [15, 0, 0, 0]) serving)) 64 Cmd.applySplice
      (record Cmd.applySplice 0 true [15, 0, 0, 0])
    ∧ HeadRuns (up (queued (record Cmd.shutdown 0 true []) serving)) 64 Cmd.shutdown (record Cmd.shutdown 0 true []) :=
  ⟨⟨rfl, rfl, rfl, rfl, rfl, rfl⟩, ⟨rfl, rfl, rfl, rfl, rfl, rfl⟩, ⟨rfl, rfl, rfl, rfl, rfl, rfl⟩⟩
theorem test_witness_headCommandsRun_context :
    HeadRuns { b := queued collectRecord running, addr := placed } 0 Cmd.collect collectRecord
    ∧ HeadRuns { b := queued (record Cmd.muster 0 false [0, 0, 0, 0]) running, addr := placed } 0 Cmd.muster
      (record Cmd.muster 0 false [0, 0, 0, 0])
    ∧ HeadRuns (up (queued (record Cmd.saveContext 0 false []) running)) 0 Cmd.saveContext (record Cmd.saveContext 0 false []) :=
  ⟨⟨rfl, rfl, rfl, rfl, rfl, rfl⟩, ⟨rfl, rfl, rfl, rfl, rfl, rfl⟩, ⟨rfl, rfl, rfl, rfl, rfl, rfl⟩⟩

/-- An open command that is held although its context is in RUN. -/
def heldOpen (code : Nat) (w : Work) : Open := { cmd := record code 0 false [], held := true, work := w }

theorem test_witness_contextCommandsRun_held :
    powered (up { running with opens := [heldOpen Cmd.routeStep (.route {})] })
      ∧ heldReady { running with opens := [heldOpen Cmd.routeStep (.route {})] } 0 Cmd.routeStep
          = some (heldOpen Cmd.routeStep (.route {}))
      ∧ heldReady { running with opens := [heldOpen Cmd.combine (.combine {})] } 0 Cmd.combine
          = some (heldOpen Cmd.combine (.combine {}))
      ∧ heldReady { running with opens := [heldOpen Cmd.copy (.copy {})] } 0 Cmd.copy = some (heldOpen Cmd.copy (.copy {})) :=
  ⟨rfl, rfl, rfl, rfl⟩

/-- A ROUTE_STEP of one token and one expert, its configuration at hank 0 and its template at hank 4. -/
def routeLine : List Hank := i32Hanks [1 + 2 ^ 13 + 2 ^ 20, 0, 0, 0, 0, 0, 0, 0, 0, 0, 0, 0, 0, 0, 0, 0]
def routeRecord : CmdRec :=
  record Cmd.routeStep 0 false [100, 0, 200, 0, 300, 2 ^ 12, 4, 32 * 2 ^ 12, 0, 0, 0, 0]
def routeBody : Body := queued routeRecord (mapped routeLine)
/-- A COMBINE of one token and one row of step 0. -/
def combineLine : List Hank :=
  i32Hanks [1 + 2 ^ 17 + 7 * 2 ^ 20 + 7 * 2 ^ 24, 4, 0, 0, 100, 0, 200, 0, 300, 0x1000, 400, 0x1000, 0, 0, 0, 0]
def combineRecord : CmdRec := record Cmd.combine 0 false [0, 0, 0, 0]
def combineBody : Body :=
  queued combineRecord ((mapped combineLine).modCtx 0 (fun (x : Ctx) => { x with ledger := [{}] }))
/-- A COPY of a tensor onto itself. -/
def copyLine : List Hank :=
  i32Hanks ([0, 4, 0, 4] ++ List.replicate 12 0 ++ [7 + 2 ^ 4, 0, 0, 0, 0, 4] ++ List.replicate 10 0)
def copyRecord : CmdRec := record Cmd.copy 0 false []
def copyBody : Body := queued copyRecord (mapped copyLine)

theorem test_witness_contextCommandsRun_heads :
    HeadRuns (up routeBody) 0 Cmd.routeStep routeRecord ∧ heldReady routeBody 0 Cmd.routeStep = none
      ∧ HeadRuns (up combineBody) 0 Cmd.combine combineRecord ∧ heldReady combineBody 0 Cmd.combine = none
      ∧ HeadRuns (up copyBody) 0 Cmd.copy copyRecord ∧ heldReady copyBody 0 Cmd.copy = none :=
  ⟨⟨rfl, rfl, rfl, rfl, rfl, rfl⟩, rfl, ⟨rfl, rfl, rfl, rfl, rfl, rfl⟩, rfl, ⟨rfl, rfl, rfl, rfl, rfl, rfl⟩, rfl⟩
set_option maxRecDepth 100000 in
theorem test_witness_contextCommandsRun_route :
    ((routeOp noAddress routeRecord routeBody).openOf routeBody.nextOid).map Open.held = some false
      ∧ (routeOp noAddress routeRecord routeBody).nextOid ≠ routeBody.nextOid := by decide +kernel
set_option maxRecDepth 100000 in
theorem test_witness_contextCommandsRun_combine :
    ((combineOp noAddress combineRecord combineBody).openOf combineBody.nextOid).map Open.held = some false
      ∧ (combineOp noAddress combineRecord combineBody).nextOid ≠ combineBody.nextOid := by decide +kernel
set_option maxRecDepth 100000 in
theorem test_witness_contextCommandsRun_copy :
    ((copyOp noAddress copyRecord copyBody).openOf copyBody.nextOid).map Open.held = some false
      ∧ (copyOp noAddress copyRecord copyBody).nextOid ≠ copyBody.nextOid := by decide +kernel

theorem test_witness_expressCommandsRun :
    ExpressRuns { b := express (record Cmd.dispatch 0 false [0, 0, 0, 0]) running, addr := placed } Cmd.dispatch
      (record Cmd.dispatch 0 false [0, 0, 0, 0])
    ∧ ExpressRuns (up (express (record Cmd.cancelBatch 0 false [0, 0, 0, 0]) running)) Cmd.cancelBatch
      (record Cmd.cancelBatch 0 false [0, 0, 0, 0])
    ∧ ExpressRuns (up (express (record Cmd.resume 0 false []) running)) Cmd.resume (record Cmd.resume 0 false [])
    ∧ (running.ctx 0).st = .run
    ∧ dumpReady noAddress (express (record Cmd.dump 0 true []) running) = some (record Cmd.dump 0 true []) :=
  ⟨⟨rfl, rfl, rfl, rfl⟩, ⟨rfl, rfl, rfl, rfl⟩, ⟨rfl, rfl, rfl, rfl⟩, rfl, rfl⟩

/-- A slice in progress that holds the garnet arrays. -/
def holding : Body := { blk := { assay := some { cur := some 102 } } }

theorem test_witness_mgpAccess :
    RegFree (up {}) (wordOff 0x40002) ∧ powered (up holding) ∧ held holding (wordOff 0x040030) = true :=
  ⟨⟨rfl, by decide +kernel⟩, rfl, by decide +kernel⟩
theorem test_witness_registerCommandsRun :
    held {} 0 = false
      ∧ acceptable noAddress 64 Cmd.regRead (queued (record Cmd.regRead 0 true []) serving) = some (record Cmd.regRead 0 true [])
      ∧ acceptable noAddress 64 Cmd.regWrite (queued (record Cmd.regWrite 0 true [1, 0, 0, 0]) serving)
          = some (record Cmd.regWrite 0 true [1, 0, 0, 0])
      ∧ held holding (wordOff 0x040030) = true := ⟨by decide +kernel, rfl, rfl, by decide +kernel⟩

/-! ### Units with registers of their own -/

/-- A slot whose WORD is past the shadow, and one whose shadow a command uses. -/
def wordAt (n : Nat) : Body := { slots := [{ word := BitVec.ofNat 10 n }, {}] }
def shadowUsed : Body := { opens := [{ work := .route { slotBuf := some (0, 1) } }] }

theorem test_witness_calSlots :
    RegFree (up {}) (0x060010 + 0x10 * (1 : BitVec 1).toNat)
      ∧ ((up (wordAt 771)).b.slot 0).word.toNat ≤ 771 ∧ shadowBusy (wordAt 771) 0 = false
      ∧ 771 < ((up (wordAt 772)).b.slot 0).word.toNat ∧ shadowBusy shadowUsed 0 = true :=
  ⟨⟨rfl, by decide⟩, by decide, by decide, by decide, by decide⟩
/-- A shadow of one segment with LO 0 and INV 1.0 is complete. -/
theorem test_witness_calSlots_good :
    let b : Body := { slots := [{ segs := 256, buf1 := { segs := 0, words := [0, 0x3F800000] } }, {}] }
    isFinite32 (sbWord ((b.slot 0).buf (b.slot 0).other) 0) = true
      ∧ sbWord ((b.slot 0).buf (b.slot 0).other) 1 = 0x3F800000 ∧ (b.slot 0).segs.toNat = 256 := by decide
theorem test_witness_xltInvalidates : RegFree (up {}) 0x140014 := ⟨rfl, by decide⟩
theorem test_witness_contexts :
    RegFree (up {}) 0x180008
      ∧ createOk { parts := [{ ways := 1 }] } 0 = true ∧ createOk {} 0 = false
      ∧ destroyOk running 0 = true ∧ destroyOk {} 0 = false := ⟨⟨rfl, by decide⟩, by decide, by decide, by decide, by decide⟩

/-- A group that is closed, with one member at the empty memory's address 0, and one that is open. -/
def closedGroup : Body := { serving with thm := { groups := [{ quota := 48, count := 1 }] } }
def openedGroup : Body := { thm := { groups := [{ opened := true }] } }

theorem test_witness_groupControl :
    RegFree (up closedGroup) (0x101000 + 0x20 * (15 : BitVec 4).toNat) ∧ (closedGroup.group 0).opened = false
      ∧ (openedGroup.group 0).opened = true ∧ (0x7FF : W32).getLsbD 11 = false := ⟨⟨rfl, by decide⟩, rfl, rfl, by decide⟩
set_option maxRecDepth 100000 in
theorem test_witness_groupControl_members :
    groupBusy closedGroup 0 = false ∧ otherQuotas closedGroup 0 + (closedGroup.group 0).quota.toNat ≤ 48
      ∧ (match (Io.on (readMembers (closedGroup.group 0)) closedGroup).1 with
          | .ok m => m
          | .error _ => none) = some [0] ∧ ascending [0] = true ∧ [0].contains 0 = true := by decide +kernel
set_option maxRecDepth 100000 in
/-- A group whose member table lies past the memory, and one whose table's line fails its seal check. -/
theorem test_witness_groupControl_fault :
    ({ serving with thm := { groups := [{ quota := 48, count := 1, membHi := 0xFFF }] } } : Body).group 0
        = { quota := 48, count := 1, membHi := 0xFFF }
      ∧ (match (Io.on (readMembers { quota := 48, count := 1, membHi := 0xFFF }) serving).1 with
          | .ok m => m.isNone
          | .error _ => false) = true
      ∧ (match (Io.on (readMembers (closedGroup.group 0)) { closedGroup with mem := memWrite [] 0 [1] }).1 with
          | .ok _ => false
          | .error _ => true) = true := by decide +kernel
theorem test_witness_groupControl_busy :
    groupBusy { thm := { groups := [{ opened := true }], pieces := [{}] } } 0 = true
      ∧ groupLive (openedGroup.group 0) = true ∧ groupLive (closedGroup.group 0) = false
      ∧ (closedGroup.group 15).quota.toNat = 0 := ⟨by decide, rfl, rfl, rfl⟩
/-- How a stream of one number ended. -/
def ended : Except Stop Nat → Nat ⊕ Stop
  | .ok n => .inl n
  | .error x => .inr x
/-- Page 0 of context 0 behind a level-1 entry and a level-2 entry, nothing cached; and the entries missing or reserved. -/
def walked (e1 e2 : Nat) : Body :=
  { mapped [] with xlt := {}, mem := memWrite (memWrite [] 0 (sealedLine (i32Hanks [e1, 0, 0, 0]))) 131072 (sealedLine (i32Hanks [e2, 0, 0, 0])) }
set_option maxRecDepth 100000 in
theorem test_translate_walks :
    ended (Io.on (Machine.translate 0 0 .rd) (walked (2 ^ 31 + 1) (2 ^ 24 + 2 ^ 25))).1 = .inl 0
      ∧ ended (Io.on (Machine.translate 0 0 .wr) (walked (2 ^ 31 + 1) (2 ^ 24 + 2 ^ 25))).1 = .inr (.hard Code.xltPerm 1 0 none []) := by
  decide +kernel
set_option maxRecDepth 100000 in
theorem test_translate_misses :
    ended (Io.on (Machine.translate 0 5 .rd) (walked 1 0)).1 = .inr (.soft 0 0 5)
      ∧ ended (Io.on (Machine.translate 0 5 .rd) (walked (2 ^ 31 + 2 ^ 30 + 1) 0)).1 = .inr (.hard Code.xltEntry 1 5 none [])
      ∧ ended (Io.on (Machine.translate 0 5 .rd) (walked (2 ^ 31 + 1) (2 ^ 25))).1 = .inr (.soft 1 0 5)
      ∧ ended (Io.on (Machine.translate 0 5 .rd) (walked (2 ^ 31 + 1) (2 ^ 24 + 2 ^ 25 + 2 ^ 28))).1
          = .inr (.hard Code.xltEntry 1 5 none []) := by decide +kernel
theorem test_witness_translations :
    ((mapped []).ctx 0).rootValid = true ∧ (running.ctx 0).rootValid = false
      ∧ ((mapped []).xlt.cache.find? (fun e => e.ctx == 0 && e.vpn == 0)).isSome = true
      ∧ accAllowed .acc true true false = false ∧ inWindow ((mapped []).part 0) 0 = true ∧ inWindow ((mapped []).part 0) 1 = false
      ∧ lineLimit (mapped []) = 2 ^ 32 ∧ ([] : List XltEntry).length ≤ 4096 := by decide +kernel
theorem test_witness_traceControl :
    powered (up { obs := { state := 2, enable := true } }) ∧ ({ state := 2 } : Obs).state = 2
      ∧ ({} : Obs).state ≠ 2 ∧ (0x3FF : W32).getLsbD 10 = false ∧ (0x3FF : W32).getLsbD 11 = false
      ∧ traceCfgBad {} = true := ⟨rfl, rfl, by decide, by decide, by decide, by decide⟩
theorem test_witness_pcSampling :
    powered (up { mrl := { pcEn := true } }) ∧ (up { mrl := { pcEn := true } }).b.mrl.pcEn = true
      ∧ (up {}).b.mrl.pcEn = false := ⟨rfl, rfl, rfl⟩

/-- The tally registers at the last staging word of the repair map, and past it. -/
def stagedAt (n : Nat) : Tally := { stageAddr := BitVec.ofNat 6 n }
/-- A life-cycle step staged from FORGE, and one with a grade mask and a key hash committed. -/
def lifeStaged (v : W32) : Tally := { sel := 3, stage := [v] }
def lifeReady : Tally :=
  { recs1 := [{ words := List.replicate 4 0xFFFFFFFF, good := true }], recs2 := [{ words := List.replicate 8 0, good := true }],
    sel := 3, stage := [3] }

theorem test_witness_tallyRegisters :
    (stagedAt 51).stageAddr.toNat < talWords (stagedAt 51).sel.toNat
      ∧ talWords (stagedAt 52).sel.toNat ≤ (stagedAt 52).stageAddr.toNat
      ∧ talGoCheck lifeReady {} = .ok () ∧ lifeReady.value lifeReady.sel.toNat ≠ lifeReady.staged
      ∧ talGoCheck {} {} = .ok () ∧ ({} : Tally).value ({} : Tally).sel.toNat = ({} : Tally).staged
      ∧ talGoCheck committing {} = .error Code.talBusy ∧ committing.busy = some (3, [1])
      ∧ ({} : Body).blk.afterCommit = none ∧ ({} : Body).blk.startWaits = false :=
  ⟨by decide, by decide, by rfl, by decide, by rfl, by decide, by rfl, rfl, rfl, rfl⟩
theorem test_witness_lifeCycleCommits :
    (lifeStaged 0).sel = 3 ∧ (lifeStaged 0).staged = [0] ∧ (lifeStaged 0).busy = none ∧ ({} : Body).blk.life ≠ 3
      ∧ (lifeStaged 0).used 3 < talBudget 3 ∧ (0 : W32).toNat ≤ (lifeStaged 0).life ∧ 3 < (4 : W32).toNat
      ∧ (lifeStaged 1).life < (1 : W32).toNat ∧ (lifeStaged 1).committed 1 = false
      ∧ lifeReady.life < (3 : W32).toNat ∧ lifeReady.committed 1 = true ∧ lifeReady.committed 2 = true
      ∧ ({ recs3 := [{ words := [1], good := true }] } : Tally).life ≠ 0 := by decide

/-- A chip whose lay has the assay splice, and one whose assay has run its slices. -/
def assayLay : Body := { lay := { loaded := true, assay := true } }
def assayOver : Body := { blk := { assay := some {} } }

theorem test_witness_assayRuns :
    asyGoCheck assayLay = .ok () ∧ asyGoCheck {} = .error Code.asyState ∧ wrapperOpen {} = true
      ∧ wrapperOpen { blk := { life := 1 } } = false ∧ curSlice testing = some (3, 0)
      ∧ testing.now - 0 < testing.blk.budget.toNat ∧ ({} : Assay).start ≤ assayOver.now ∧ assayOver.blk.assay = some {} ∧ assayOver.blk.startWaits = false
      ∧ assayOver.blk.assayNext = false ∧ testing.pwr.holding = false ∧ ({ sramHold := true } : Pwr).holding = true :=
  ⟨by rfl, by rfl, rfl, rfl, rfl, by decide, by decide, rfl, rfl, rfl, rfl, rfl⟩
/-- That assay once its slice is saved, with the longest budget; and a tick before. -/
def savedSlice : Body :=
  { testing with blk := { testing.blk with budget := 0xFFFFFFFF }, stc := { now := (Config.saveTicks 3).setWidth 64 } }
theorem savedSlice_now : savedSlice.now = (Config.saveTicks 3).toNat := by
  show ((Config.saveTicks 3).setWidth 64).toNat = _
  rw [BitVec.toNat_setWidth_of_le (by decide)]
theorem test_witness_assayRuns_saved :
    curSlice savedSlice = some (3, 0) ∧ 0 + (Config.saveTicks 3).toNat ≤ savedSlice.now
      ∧ savedSlice.now - 0 < savedSlice.blk.budget.toNat := by
  refine ⟨rfl, by rw [savedSlice_now]; omega, ?_⟩
  rw [savedSlice_now]
  show _ < 4294967295
  have := (Config.saveTicks 3).isLt
  omega
theorem test_witness_assayRuns_saving :
    curSlice { testing with blk := { assay := some { cur := some 3, start := 1 } } } = some (3, 1)
      ∧ ({ testing with blk := { assay := some { cur := some 3, start := 1 } } } : Body).now < 1 + (Config.saveTicks 3).toNat :=
  ⟨rfl, by show 0 < _; omega⟩
theorem test_witness_assayRuns_expired :
    curSlice { testing with stc := { now := 200000 } } = some (3, 0)
      ∧ ({ testing with stc := { now := 200000 } } : Body).blk.budget.toNat
          ≤ ({ testing with stc := { now := 200000 } } : Body).now - 0
      ∧ 0 ≤ ({ testing with stc := { now := 200000 } } : Body).now := ⟨rfl, by decide, by decide⟩
theorem test_witness_assayRuns_end :
    (chooseMap (({} : Tally).value 0) assayOver).words = ({} : Tally).value 0
      ∧ ({} : Tally).used 0 < talBudget 0
      ∧ (chooseMap (({} : Tally).value 0)
          { assayOver with blk := { assayOver.blk with grade := List.replicate 4 0xFFFFFFFF, fails := [(2 ^ 26, 0)] } }).words
          ≠ ({} : Tally).value 0 := by decide +kernel

/-! ### Power, temperature and aging -/

theorem test_witness_powerReadings :
    powered (up { pwr := { tj := 104 } }) ∧ ({ tj := 105 } : Pwr).tj.toNat ≥ 105 ∧ ({ tj := 104 } : Pwr).tj.toNat < 105
      ∧ (105 : BitVec 8).toNat ≥ 105 ∧ (0 : BitVec 32).toNat * 10000 % 65536 ≠ 32768
      ∧ ({ stc := { now := 65536 } } : Body).now / 65536 ≠ 0
      ∧ ({} : Body).pwr.paceWin ≠ some (({ stc := { now := 65536 } } : Body).now / 65536)
      ∧ ({ stc := { now := 65535 } } : Body).now / 65536 = 0 :=
  ⟨rfl, by decide, by decide, by decide, by decide, by decide, by decide, by decide⟩
theorem test_witness_ceilingAndThrottle :
    powered (up {}) ∧ ({} : Body).pwr.ceilValid = false ∧ ({ pwr := { ceilValid := true } } : Body).pwr.ceilValid = true
      ∧ ({} : Body).pwr.binding = false ∧ (accrue {}).pwr.bucket ≤ 0 ∧ 0 < (accrue { pwr := { bucket := 1 } }).pwr.bucket
      ∧ ({ pwr := { win := some 0 } } : Body).pwr.win = some (({} : Body).now / 1024)
      ∧ ({} : Body).pwr.win ≠ some (({} : Body).now / 1024) :=
  ⟨rfl, rfl, rfl, rfl, by decide +kernel, by decide +kernel, rfl, by decide⟩
theorem test_witness_drawAndSeconds :
    powered (up { stc := { now := 1000000000 } })
      ∧ ({ stc := { now := 1000000000 } } : Body).pwr.published ≠ some (secondOf { stc := { now := 1000000000 } })
      ∧ 0 < secondOf { stc := { now := 1000000000 } } ∧ secondOf { stc := { now := 999999999 } } = 0
      ∧ ({ pwr := { published := some 0 } } : Body).pwr.published = some (secondOf {})
      ∧ ({ pwr := { hintAt := some 0 } } : Body).pwr.hintAt = some (secondOf {})
      ∧ ({} : Body).pwr.ended ≠ some (secondOf { stc := { now := 1000000000 } } - 1)
      ∧ ({ pwr := { ended := some 0 } } : Body).pwr.ended = some (secondOf { stc := { now := 1000000000 } } - 1) :=
  ⟨rfl, by decide, by decide, by decide, rfl, rfl, by decide, rfl⟩
theorem test_witness_wearMeasured :
    powered (up {}) ∧ (131 : BitVec 8).toNat ≤ logicalMax (0 : BitVec 4).toNat + spareLimit (0 : BitVec 4).toNat
      ∧ (0 : BitVec 4).toNat ≤ 1 ∧ (35 : BitVec 8).toNat ≤ logicalMax (6 : BitVec 4).toNat + spareLimit (6 : BitVec 4).toNat
      ∧ (6 : BitVec 4).toNat ≤ 6 ∧ (0 : BitVec 2) = 0
      ∧ (299 : W16).toNat < ({} : Body).blk.wearWarn.toNat
      ∧ ({} : Body).blk.wearWarn.toNat ≤ wearOf { blk := { wear := [{ cls := 0, arr := 0, idx := 1, wear := 300, sec := 0 }] } } 0 0 1
      ∧ serving.blk.started = true ∧ serving.blk.shut = false ∧ (∀ m ∈ serving.blk.wear, m.sec ≠ serving.now / 10 ^ 9) :=
  ⟨rfl, by decide, by decide, by decide, by decide, by decide, by decide, by decide, rfl, rfl, by decide⟩

/-! ### Links, the shared time counter and tandem -/

/-- Port 35 with a state. -/
def withPort (p : Port) : Body := { serving with fab := { ports := tset (List.replicate 36 {}) 35 p } }
def liveBody : Body := withPort { up := true }
/-- A flit with LSEQ 0 and empty hanks. -/
def flit : BitVec 640 := mkFlit (flitHeader 5 6 0 0 0 0 0 false) []

theorem test_witness_linkPorts :
    portEnabled (withPort { subst := true }) 35 = true ∧ ((withPort { subst := true }).port 35).up = false
      ∧ ((withPort { subst := true }).port 35).down = false ∧ portLive liveBody 35 = true
      ∧ (liveBody.port 35).nakSent = false ∧ ((withPort { up := true, nakSent := true }).port 35).nakSent = true
      ∧ ((withPort { up := true, replay := [{}] }).port 35).replay ≠ [] ∧ (liveBody.port 35).replay = []
      ∧ portLive (withPort { up := true, down := true }) 35 = false ∧ portLive serving 36 = false := by decide
/-- The staging of a packet whose last flit is not acknowledged, and of one whose flits all are. -/
def staged : Body := { liveBody with coil := { staging := [{ id := 7 }] } }
def stagedFlit : Body := { withPort { up := true, replay := [{ stg := some 7 }] } with coil := { staging := [{ id := 7 }] } }
theorem test_witness_linkPorts_staging :
    staged.coil.staging = [{ id := 7 }] ∧ (∀ q ∈ staged.fab.unrouted, q.stg ≠ some 7)
      ∧ (∀ q ∈ staged.fab.ports, (∀ k ∈ q.queue, k.stg ≠ some 7) ∧ ∀ k ∈ q.replay, k.stg ≠ some 7)
      ∧ (∀ g ∈ staged.gens, ∀ k ∈ g.sendQ, k.stg ≠ some 7)
      ∧ ∃ q ∈ stagedFlit.fab.ports, ∃ k ∈ q.replay, k.stg = some 7 := by decide +kernel
theorem test_witness_linkPorts_flit :
    flit.getLsbD 39 = false ∧ flitCrcOk flit = true ∧ hdrLseq (flitHdr flit) = (liveBody.port 35).rxSeq
      ∧ flitCrcOk (flit ^^^ 1) = false ∧ hdrLseq (flitHdr flit) ≠ ((withPort { up := true, rxSeq := 1 }).port 35).rxSeq := by
  decide +kernel
/-- The error of a sync: this chip's count less the parent's stamp and half the round trip. -/
def syncErr (now : BitVec 64) (x : SyncTimes) : Int := (now - (x.parentNow + BitVec.ofNat 64 (x.roundTrip.toNat / 2))).toInt
/-- A chip of rack 17 whose routing tables name rack 0 alone, behind port 0. -/
def treed : Body :=
  { serving with fab := { ports := [{ up := true }, { up := true }] },
                 lay := { serving.lay with secs := serving.lay.secs ++ [{ type := 3, els := [1, 0] }] } }
theorem test_witness_stcCounts_tree :
    portLive treed 0 = true ∧ syncParent placed.own treed = some 0 ∧ (parentPorts placed.own treed).contains 0 = true
      ∧ (syncPorts placed.own treed).contains 0 = true ∧ portLive treed 1 = true
      ∧ (syncPorts placed.own treed).contains 1 = false ∧ (parentPorts placed.own treed).contains 1 = false
      ∧ syncParent noAddress serving = none := by decide +kernel
theorem test_witness_stcCounts :
    powered (up liveBody) ∧ liveBody.stc.root = false ∧ ({ root := true } : Stc).root = true ∧ portLive liveBody 35 = true
      ∧ (syncErr 164 { parentNow := 90, roundTrip := 20 }).natAbs ≤ 64 ∧ 64 < (syncErr 165 { parentNow := 90, roundTrip := 20 }).natAbs
      ∧ 0 < syncErr 165 { parentNow := 90, roundTrip := 20 } ∧ 64 < (syncErr 35 { parentNow := 90, roundTrip := 20 }).natAbs
      ∧ syncErr 35 { parentNow := 90, roundTrip := 20 } < 0 :=
  ⟨rfl, rfl, rfl, by decide, by decide, by decide, by decide, by decide, by decide⟩

/-- A tandem record of context 0, its packet, and the compare table with this chip's own. -/
def tandemPacket : Packet := { vc := 5, hanks := tandemHanks {} }
def compared : Body := { running with fab := { compare := [{ own := true, r := {} }] } }

theorem test_witness_tandemRows :
    PacketWaits (up (waiting tandemPacket {})) (fun q => q.vc == 5) tandemPacket
      ∧ (running.ctx (tandemOf tandemPacket.hanks).ctx).st ≠ .torn ∧ running.blk.shut = false
      ∧ ({ shut := true } : Block).shut = true :=
  ⟨⟨rfl, rfl, by decide⟩, by decide, rfl, rfl⟩
theorem test_witness_tandemRows_match :
    tandemOf tandemPacket.hanks = {}
      ∧ running.fab.compare.find? (fun e => e.own && e.r.ctx == (tandemOf tandemPacket.hanks).ctx
          && e.r.tseq == (tandemOf tandemPacket.hanks).tseq) = none
      ∧ compared.fab.compare.find? (fun e => e.own && e.r.ctx == (tandemOf tandemPacket.hanks).ctx
          && e.r.tseq == (tandemOf tandemPacket.hanks).tseq) = some { own := true, r := {} } := by decide +kernel

/-- The own record of an open command that holds its reply, and one of an open command that does not. -/
def comparedOpen (reply : Option OutRec) : Body :=
  { running with fab := { compare := [{ own := true, r := {}, oid := some 0 }] }, opens := [{ reply := reply }] }
theorem test_witness_tandemRows_open :
    (some 0 : Option Nat).bind (comparedOpen (some {})).openOf = some { reply := some {} }
      ∧ ((some 0 : Option Nat).bind (comparedOpen none).openOf).bind Open.reply = none
      ∧ ({ items := 1 } : Tandem) ≠ tandemOf tandemPacket.hanks
      ∧ (running.ctx (tandemOf tandemPacket.hanks).ctx).st ≠ .torn := by decide +kernel

/-! ### Exchanges, collectives and MUSTERs -/

/-- A generation of one member, this chip, whose home role is open and whose half A is complete. -/
def gen : GenEnt :=
  { live := true, generation := 1, map := { members := [0], win := 1 }, experts := 1,
    home := { opened := true, ends := [(0, 0, 0)] } }
def exchange : Body := { running with gens := [gen] }
/-- A packet of that generation: VC, KIND. -/
def exPacket (vc kind : Nat) : Packet := packet vc [0, 1 + 2 ^ 26 * kind, 0, 0]
def reading : SknPkt := { generation := 1 }

theorem test_witness_exchangePackets :
    PacketWaits (up (waiting (exPacket 3 0) exchange)) (forHome (waiting (exPacket 3 0) exchange) 0) (exPacket 3 0)
      ∧ PacketWaits (up (waiting (exPacket 3 1) exchange)) (forHome (waiting (exPacket 3 1) exchange) 1) (exPacket 3 1)
      ∧ PacketWaits (up (waiting (exPacket 4 2) exchange)) isAnswer (exPacket 4 2)
      ∧ exchange.blk.shut = false ∧ ({ shut := true } : Block).shut = true :=
  ⟨⟨rfl, rfl, by decide +kernel⟩, ⟨rfl, rfl, by decide +kernel⟩, ⟨rfl, rfl, by decide +kernel⟩, rfl, rfl⟩
theorem test_witness_exchangePackets_window :
    exchange.gens.any (fun g => windowOver exchange g && (sendMisses g || homeMisses g)) = false
      ∧ ({ running with stc := { now := 1 }, gens := [{ live := true, map := { deadline := 1 } }] } : Body).gens.any (fun g =>
          windowOver { running with stc := { now := 1 }, gens := [{ live := true, map := { deadline := 1 } }] } g
            && (sendMisses g || homeMisses g)) = true
      ∧ frozen exchange = false := by decide +kernel
theorem test_witness_exchangePackets_units :
    UnitsRun (up exchange) ∧ sortReady exchange = some gen ∧ RegFree (up exchange) 0x0C0100
      ∧ ({ skn := { reading := some reading } } : Body).skn.reading = some reading :=
  ⟨⟨rfl, rfl⟩, by decide +kernel, ⟨rfl, by decide⟩, rfl⟩
theorem test_witness_exchangePackets_answer :
    liveGen {} (exXg (exPacket 4 2)) (exGeneration (exPacket 4 2)) = none
      ∧ liveGen exchange (exXg (exPacket 4 2)) (exGeneration (exPacket 4 2)) = some gen
      ∧ ({ gen with void := true } : GenEnt).void = true ∧ ({ gen with combineDone := true } : GenEnt).combineDone = true := by
  decide +kernel

/-- A piece of group 0 that may be admitted, and a COLLECT whose pieces have ended. -/
def piece : Piece := {}
def collecting : Body :=
  { running with thm := { groups := [{ opened := true, quota := 1 }], pieces := [piece] }, opens := [{ work := .collect {} }] }

theorem test_witness_collectiveRows :
    UnitsRun (up collecting) ∧ nextPiece collecting 0 = some piece ∧ slotsHeld collecting 0 < (collecting.group 0).quota.toNat
      ∧ admitOpen collecting piece = true
      ∧ collecting.opens.find? (fun o => o.ctx == 0 && o.reply.isNone &&
        (match o.work with
          | .collect w => w.ended == w.names.length
          | _ => false)) = some { work := .collect {} } := ⟨⟨rfl, rfl⟩, rfl, by decide, by decide, rfl⟩
theorem test_witness_collectiveRows_packets :
    PacketWaits (up (waiting (packet 1 [0, 0x10]) {})) (fun q => q.vc == 1 && pktKind q ≤ 1) (packet 1 [0, 0x10])
      ∧ PacketWaits (up (waiting (packet 2 [0, 0x40]) {})) (fun q => q.vc == 2 && pktKind q == 4) (packet 2 [0, 0x40])
      ∧ PacketWaits (up (waiting (packet 2 [0, 0x20]) {})) (fun q => q.vc == 2 && pktKind q == 2) (packet 2 [0, 0x20])
      ∧ PacketWaits (up (waiting (packet 1 [0, 0x30]) {})) (fun q => (q.vc == 1 || q.vc == 2) && pktKind q == 3)
          (packet 1 [0, 0x30]) :=
  ⟨⟨rfl, rfl, by decide +kernel⟩, ⟨rfl, rfl, by decide +kernel⟩, ⟨rfl, rfl, by decide +kernel⟩, ⟨rfl, rfl, by decide +kernel⟩⟩
theorem test_witness_nodeSums :
    (∃ i ∈ ({ inputs := [(1, .void)] } : Piece).inputs, i.2 = .void)
      ∧ (∀ i ∈ ({ inputs := [(1, .null)], own := .null } : Piece).inputs, i.2 ≠ .void)
      ∧ (∀ k ∈ ({ kids := [1] } : Group).kids, (inputOf { inputs := [(1, .null)], own := .null } k).isSome = true)
      ∧ ∃ k ∈ ({ kids := [2] } : Group).kids, inputOf { inputs := [(1, .null)], own := .null } k = none :=
  ⟨⟨(1, .void), by decide, rfl⟩, by decide, by decide, ⟨2, by decide, rfl⟩⟩

/-- A MUSTER that may arrive, and one that is to be released at tick 5. -/
def arriving : Body := { running with thm := { musters := [{}] } }
def releasing : Body := { running with stc := { now := 5 }, thm := { musters := [{ release := some 5 }] } }

theorem test_witness_musterRows :
    UnitsRun (up arriving) ∧ releasing.hang.halted = false ∧ arriving.thm.musters.find? (fun m => m.group == 0 && !m.arrived && !m.orphan
        && (arriving.ctx m.ctx).st == .run && earlierReplied arriving m && lowerSettled arriving m) = some {}
      ∧ releasing.thm.musters.find? (fun m => m.group == 0 && (match m.release with
        | some t => t ≤ releasing.now
        | none => false)) = some { release := some 5 } := ⟨⟨rfl, rfl⟩, rfl, by decide, by decide⟩
theorem test_witness_musterRows_packets :
    PacketWaits (up (waiting (packet 0 [0, 0x00]) {})) (fun q => q.vc == 0 && pktKind q == 0) (packet 0 [0, 0x00])
      ∧ PacketWaits (up (waiting (packet 0 [0, 0x10]) {})) (fun q => q.vc == 0 && pktKind q == 1) (packet 0 [0, 0x10])
      ∧ PacketWaits (up (waiting (packet 0 [0, 0x20]) {})) (fun q => q.vc == 0 && pktKind q == 2) (packet 0 [0, 0x20]) :=
  ⟨⟨rfl, rfl, by decide +kernel⟩, ⟨rfl, rfl, by decide +kernel⟩, ⟨rfl, rfl, by decide +kernel⟩⟩

/-! ### The work port, tiles, memory, saves, and the ends of steps -/

/-- A step of one expert with one row whose card is next. -/
def cardWork : RouteWork := { stage := .cards, n := 1, cfg := { experts := 1 }, load := [{ assigned := 1 }], walk := [.card 0 0, .cell0] }
def carding : Body := { running with opens := [{ work := .route cardWork }], mrl := { held := some 0, buf := some {} } }
/-- A best-effort list holds Marlin while a latency-critical one waits, without a coil buffer for its live state and with one. -/
def yielding : Body :=
  { serving with ctxs := tset (tset (List.replicate 64 {}) 0 { st := .run }) 1 { st := .run, cls := true },
                 opens := [{ work := .route cardWork }, { oid := 1, ctx := 1, work := .route cardWork }],
                 mrl := { held := some 0, buf := some {} } }
def roomy : Body :=
  { yielding with parts := [{ ways := 1 }], coil := { quota := [List.replicate 16 4] },
                  lay := { secs := [{ type := 7, els := [0, 1] }] } }

theorem test_witness_workPort_card :
    UnitsRun (up carding) ∧ heldList (marlinGo noAddress carding) = some (routeList { work := .route cardWork } cardWork)
      ∧ (routeList { work := .route cardWork } cardWork).walk = .card 0 0 :: [.cell0]
      ∧ tableBlocks (marlinGo noAddress carding) 0 = false ∧ (marlinGo noAddress carding).mrl.buf.isSome = true :=
  ⟨⟨rfl, rfl⟩, by decide +kernel, rfl, by decide +kernel, by decide +kernel⟩
theorem test_witness_workPort_completion :
    cplEntry {} 0 = none ∧ cplEntry { mrl := { cards := [{}] } } 0 = some {} ∧ ({} : CardEnt).dead = false
      ∧ ({} : CardEnt).gen = none ∧ cplStatus 0 = 0 ∧ frozen {} = false ∧ ({ dead := true } : CardEnt).dead = true
      ∧ ({ gen := some 1 } : CardEnt).gen = some 1 := by decide +kernel
theorem test_witness_workPort_yield :
    nextYield yielding = some (4, 0) ∧ (parkUnit noAddress 4 0 yielding).1 = false
      ∧ nextYield roomy = some (4, 0) ∧ (parkUnit noAddress 4 0 roomy).1 = true ∧ nextYield carding = none := by decide +kernel

/-- A body whose partition 0 has one way with a 4-hank buffer that the tile port, requester 10, may hold. -/
def coiled : Body :=
  { running with parts := [{ ways := 1 }], coil := { quota := [List.replicate 16 4] },
                 lay := { secs := [{ type := 7, els := [0, 1] }] } }
def coilBuf : CoilBuf := { way := 0, pool := 1, idx := 0, req := 10, ctx := some 0 }
/-- The header of a tile of 3 hanks, and its request. -/
def tileHead : Hank := i32Hank [0, 0, 3, 0]
def tileReq : CoilReq := { size := 4, req := 10, ctx := some 0 }

theorem test_witness_tilesMemoryCoil_tile :
    UnitsRun (up coiled) ∧ coiled.thm.header = none
      ∧ coilAsk coiled (coilReqOf coiled (tileOf tileHead).ctx 10 (1 + (tileOf tileHead).hanks)) = .grant coilBuf
      ∧ ({ thm := { header := some { tileOf tileHead with buf := some coilBuf } } } : Body).thm.header
          = some { tileOf tileHead with buf := some coilBuf }
      ∧ (List.replicate 3 (0 : Hank)).length = (tileOf tileHead).hanks ∧ coiled.thm.tpHold = false
      ∧ ({ tpHold := true } : Thimble).tpHold = true := ⟨⟨rfl, rfl⟩, rfl, by decide +kernel, rfl, by decide +kernel, rfl, rfl⟩
theorem test_witness_tilesMemoryCoil_memory :
    (0 : BitVec 2) ≠ 3 ∧ ({} : Body).xlt.reqs.find? (fun r => r.line == 0 && r.id == 0) = none
      ∧ ({ xlt := { reqs := [{}] } } : Body).xlt.reqs.find? (fun r => r.line == 0 && r.id == 0) = some {}
      ∧ coiled.gens.any (fun g => windowOver coiled g && (sendMisses g || homeMisses g)) = false
      ∧ nextGrant { coiled with coil := { coiled.coil with wait := [tileReq] } } = some (tileReq, coilBuf)
      ∧ nextGrant coiled = none := by decide +kernel

/-- Context 0 in a state. -/
def inState (x : Ctx) : Body := { serving with ctxs := tset (List.replicate 64 {}) 0 x }

theorem test_witness_savesAndRestores :
    UnitsRun (up (inState { st := .faulted, evictPending := true })) ∧ ((inState { st := .faulted, evictPending := true }).ctx 0).evictPending = true
      ∧ ((inState { st := .run, savePending := true }).ctx 0).savePending = true
      ∧ ((inState { st := .saving, save := some {} }).ctx 0).save = some {} ∧ ((inState { st := .restoring }).ctx 0).st = .restoring
      ∧ ((inState { st := .saved, auto := true }).ctx 0).auto = true
      ∧ (inState { st := .saved, auto := true }).coil.wait.any (fun r => r.cls && r.part == 0) = false
      ∧ engineFree (inState { st := .saving, save := some {} }) = true :=
  ⟨⟨rfl, rfl⟩, rfl, rfl, rfl, rfl, rfl, rfl, by decide +kernel⟩

/-- A finished step, a COMBINE whose step has completed, and a generation whose window has ended. -/
def finished : Body := { running with opens := [{ work := .route { stage := .finished } }] }
def combinable : Body :=
  { serving with ctxs := tset (List.replicate 64 {}) 0 { st := .run, ledger := [{ done := true }] }, opens := [{ work := .combine {} }] }
def late : GenEnt := { live := true, sent := true, map := { deadline := 1 } }
def lateUnsent : GenEnt := { live := true, map := { deadline := 1 } }
def expired (g : GenEnt) : Body := { running with stc := { now := 1 }, gens := [g] }

theorem test_witness_stepsEnd_route :
    powered (up finished) ∧ frozen finished = false ∧ (finished.ctx 0).st = .run
      ∧ finishedRoute finished 0 = some ({ work := .route { stage := .finished } }, { stage := .finished }) := ⟨rfl, rfl, rfl, rfl⟩
/-- The ledger entry of a finished step. -/
theorem test_witness_stepsEnd_ledger :
    (((sendReply { work := .route {} } {} true combinable).ctx 0).ledger.map Ledger.uid) = [0] := by decide +kernel
theorem test_witness_stepsEnd_combine :
    frozen combinable = false ∧ combineReady combinable 0 = some ({ work := .combine {} }, {}, { done := true }) := by
  decide +kernel
theorem test_witness_stepsEnd_deadline :
    (expired late).gens.filter (windowOver (expired late)) = [late] ∧ (expired late).gen 0 = some late
      ∧ (sendDeadline noAddress late (expired late)).gen 0 = some late
      ∧ (expired lateUnsent).gens.filter (windowOver (expired lateUnsent)) = [lateUnsent]
      ∧ (sendDeadline noAddress lateUnsent (expired lateUnsent)).gen 0 = none := by decide +kernel
/-- A watchdog that has reached the limit, and no other. -/
def watching : Body := { hang := { limit := 5 }, stc := { now := 5 }, obs := { watch := [{ ticks := 5 }, { unit := 1, ticks := 4 }] } }
theorem test_witness_stepsEnd_watchdog :
    watching.hang.limit ≠ 0 ∧ watching.hang.halted = false ∧ watching.blk.shut = false
      ∧ watching.obs.watch.filter (fun x => !x.hit && watching.hang.limit.toNat ≤ x.count watching.now) = [{ ticks := 5 }] := by
  decide
/-- An instance that waits, one that neither waits nor is idle, and one that has become idle. -/
theorem test_witness_stepsEnd_count :
    let o : Obs := { watch := [{ idle := false, ticks := 3, from_ := some 7 }] }
    let i : WaitInst := { unit := 0, inst := 0, offset := 0, value := 1, group := 0, waits := 1, rests := false, ctx := none }
    (rewatch o 9 i).count 11 = 7 ∧ (rewatch o 9 { i with waits := 0, value := 0 }).count 11 = 5
      ∧ (rewatch o 9 { i with waits := 0, value := 0, rests := true }).count 11 = 0
      ∧ (rewatch { o with acts := [(0, 1)] } 9 i).count 11 = 2 := by decide

/-! ### Values, lines and packets -/

theorem test_witness_memoryReadsBack : Memory.wf ([] : List Host.Cell) = true ∧ Memory.wf (memWrite [] 255 [1, 2]) = true := by decide
theorem test_witness_flits :
    (2 ^ 17 - 1 < 2 ^ 17) ∧ (List.replicate 4 (0 : Hank)).length = 4 ∧ ({} : Tandem).tseq < 2 ^ 32 ∧ ({} : Tandem).ctx < 64
      ∧ ({} : Tandem).code < 256 ∧ ({} : Tandem).outcome < 4 ∧ ({} : Tandem).digest < 2 ^ 64 := by decide
/-- A hank stored through context 0's translation: one virtual line, one physical line. -/
theorem test_witness_storedLines :
    storeGroups [(3, (0 : Hank))] = [(0, [(3, 0)])] ∧ linesOf 0 [(3, 0)] (mapped []) = [0]
      ∧ raccLines {} [(3, 0)] (mapped []) = [0] ∧ (Io.on (writeHanks 0 none [(3, 1)]) (mapped [])).1.toBool = true := by decide +kernel
/-- Marlin's cell through a free engine of the eight, and none free. -/
def cellList : CardList := routeList { work := .route cardWork } cardWork
def engineless : Body :=
  { mapped [] with units := { grants := (List.range 8).map (fun e => { unit := 0, inst := e, oid := 9, ctx := 1 }) } }
theorem test_witness_storedLines_cell :
    (takeEngine cellList.oid 2 (mapped [])).1 = true
      ∧ (Io.on (writeHanks 0 none [(cellAddr cellList .cell0, cellHank cellList .cell0)]) (takeEngine 0 2 (mapped [])).2).1.toBool = true
      ∧ (takeEngine cellList.oid 2 engineless).1 = false := by decide +kernel
theorem test_witness_storedLines_trace :
    powered (up { obs := { state := 2, stage := List.replicate 15 0 } })
      ∧ (up { obs := { state := 2, stage := List.replicate 15 0 } }).b.obs.stage.length ≤ 15 ∧ ({} : Obs).state ≠ 2 ∧ ({} : Obs).state ≠ 3 :=
  ⟨rfl, by decide, by decide, by decide⟩
theorem test_witness_registerCommandsRun_reserved : powered (up {}) ∧ 0x240000 ≤ (0x240000 : BitVec 22).toNat := ⟨rfl, by decide⟩

/-! ### The table gives no row bits -/

theorem test_decode_none (n w : Nat) : decodeTableWord n w = none ∧ State.withFetchWord {} n w = {} := ⟨rfl, rfl⟩

/-! ### Values that the spec works out or that follow from its tables -/

set_option maxRecDepth 100000 in
/-- An empty line is sealed with 0x42 (R38), and the seal tells a changed byte. -/
theorem test_seal_zero : crc8 (List.replicate 255 0) = 0x42 ∧ sealOk (List.replicate 255 1 ++ [0x42]) = false := by decide +kernel
/-- The check value of R38: the seal of the nine ASCII digits. -/
theorem test_seal_check : crc8 [0x31, 0x32, 0x33, 0x34, 0x35, 0x36, 0x37, 0x38, 0x39] = 0x20 := by decide +kernel
/-- The published check value of the CRC-32 of IEEE 802.3 over the same digits, the code that R219 names. -/
theorem test_crc32_check : crc32 [0x31, 0x32, 0x33, 0x34, 0x35, 0x36, 0x37, 0x38, 0x39] = 0xCBF43926 := by decide +kernel

/-- Table 2.4: quantisation of a block into MX-E4M3, with one crushed element. -/
theorem test_table_2_4 :
    encodeGroup .e4m3 ([0x447A0000, 0x42C80000, 0x40E00000, 0x40400000, 0xBF400000, 0x3C23D70A, 0x3A83126F]
        ++ List.replicate 25 0)
      = ([mkHank 0x80 0x0003AC3C46647E, mkHank 0x80 0], 1) := by decide +kernel

/-- Table 3.3: an exact dot product that cancels 2^31, rounded once. -/
theorem test_table_3_3 :
    (accScore (accRow {} [.fin false 3 0, .fin false 1 31, .fin true 1 31]
      [.fin false 1 0, .fin false 1 0, .fin false 1 0])).f32 = 0x40400000 := by decide +kernel
/-- The fallback example of R80: sixteen products below the guard bits drop. -/
theorem test_fallback_group :
    groupSum (List.map ofF32 (0x3F800000 :: List.replicate 16 0x32000000)) (List.replicate 17 (ofF32 0x3F800000))
      = 0x3F800000 := by decide +kernel
/-- Table 5.4: a tie goes to the lower expert, a NaN ranks last. -/
theorem test_table_5_4 :
    ranked [0x40000000, 0x3F800000, 0x3F800000, 0] = [0, 1, 2, 3]
      ∧ ranked [0x40A00000, 0x40400000, 0x7FC00000, 0xBF800000] = [0, 1, 3, 2] := by decide +kernel
/-- Table 7.3, element (0, 0): the terms in slot order and then the addend. -/
theorem test_table_7_3 :
    fadd (fadd (fmul 0x3F400000 0x4C000000) (fmul 0x3E800000 0x40800000)) 0x3F800000 = 0x4BC00000 := by decide +kernel
/-- Table 9.7: a source row through the swizzle. -/
theorem test_table_9_7 :
    let l : Layout := { rank := 2, swzBits := 1, swzLow := 0, swzShift := 2, base := 269312, ext := [64, 6], stride := [0, 4] }
    groupAddr l [0, 2] = 269322 ∧ groupAddr l [32, 2] = 269320 ∧ hull l = (269312, 24) := by decide +kernel
/-- Table 14.2: the record of two transfers. -/
theorem test_table_14_2 :
    (recordOf [BitVec.ofNat 256 (0x7F + 2 ^ 8 * 0x10711 + 2 ^ 40 * 0x102 + 2 ^ 72 * 0x42000 + 2 ^ 136 * 0x7F + 2 ^ 144 * 5), 0] true)
      = { w0 := 0x10711, w1 := 0x102, w2 := 0x42000, w3 := 0, body := [5, 0, 0, 0], priv := true } := by decide +kernel

end Sys2Proof.Tests
end

section
/-! SUPPORT. The registers of the calcite slots (spec/04 R94, R95): they lie in one unit, so one assay slice holds all of
them or none, and each write of them has one effect per case of its rule. -/

namespace Sys2Proof.Machine

/-! ### Where the registers of the slots lie -/

/-- A register word of the two slots (Table 19.4). -/
structure SlotReg (off : Nat) : Prop where
  low : 0x060010 ≤ off
  high : off < 0x060030
  aligned : off % 4 = 0

theorem SlotReg.of_slot {n k : Nat} (hn : n < 2) (hk : k < 4) : SlotReg (0x060010 + 4 * k + 0x10 * n) := by
  constructor <;> omega

theorem SlotReg.listed {off : Nat} (h : SlotReg off) : listed off = true := by
  obtain ⟨low, high, aligned⟩ := h
  have row : (0x060010, 4, 8) ∈ indexRows := by decide
  refine List.any_eq_true.mpr ⟨_, row, ?_⟩
  simp only [Bool.and_eq_true, decide_eq_true_eq, beq_iff_eq]
  omega

/-- Slice 110 alone tests the slots. -/
theorem SlotReg.sliceHolds {off : Nat} (h : SlotReg off) (k : Nat) : sliceHolds k off = (k == 110) := by
  obtain ⟨low, high, -⟩ := h
  have outside (lo hi : Nat) (far : hi ≤ 0x060010 ∨ 0x060030 ≤ lo) : (decide (lo ≤ off) && decide (off < hi)) = false := by
    simp only [Bool.and_eq_false_iff, decide_eq_false_iff_not]
    omega
  have inside : (decide (0x060000 ≤ off) && decide (off < 0x060100)) = true := by
    simp only [Bool.and_eq_true, decide_eq_true_eq]
    omega
  simp only [Machine.sliceHolds, outside, inside, Nat.reduceLeDiff, true_or, or_true, Bool.false_and, Bool.or_self, ite_self,
    beq_iff_eq]
  split_ifs <;> simp <;> omega

theorem SlotReg.held_eq {off off' : Nat} (h : SlotReg off) (h' : SlotReg off') (b : Body) : held b off = held b off' := by
  unfold held
  simp only [h.listed, h'.listed, h.sliceHolds, h'.sliceHolds]

theorem RegFree.slotReg {s : State} {off off' : Nat} (free : RegFree s off) (h : SlotReg off) (h' : SlotReg off') :
    RegFree s off' :=
  ⟨free.power, h'.held_eq h s.b ▸ free.held⟩

/-! ### A write of a register of the slots -/

/-- A free register takes its write. -/
theorem exec_registerWrite_run {s : State} {o : BitVec 22} (d : W32) (h : RegFree s (wordOff o)) :
    exec (.registerWrite o d) s = ranAll s (fun s => (regWrite none (wordOff o) d s).1) := by
  change execRegisterWrite o d s = _
  unfold execRegisterWrite
  rw [onAll_run h.power]
  simp [ranAll, h.held]

/-- CAL_SLOTn_ADDR: WORD, and nothing else of the block. -/
theorem regWrite_slotAddr {n : Nat} (hn : n < 2) (mark : Option Nat) (d : W32) (s : State) :
    regWrite mark (0x060018 + 0x10 * n) d s
      = ({ s with b := s.b.modSlot n (fun x => { x with word := d.setWidth 10 }) }, 0) := by
  interval_cases n <;> rfl

theorem wordOff_slotAddr {n : Nat} (hn : n < 2) :
    wordOff (BitVec.ofNat 22 (0x060018 + 0x10 * n)) = 0x060018 + 0x10 * n := by
  interval_cases n <;> rfl

theorem exec_slotAddr {s : State} {n : Nat} (hn : n < 2) (d : W32) (h : RegFree s (0x060018 + 0x10 * n)) :
    exec (.registerWrite (BitVec.ofNat 22 (0x060018 + 0x10 * n)) d) s
      = ran s (fun _ b => b.modSlot n (fun x => { x with word := d.setWidth 10 })) := by
  rw [exec_registerWrite_run d (by rwa [wordOff_slotAddr hn]), wordOff_slotAddr hn]
  simp only [ranAll, ran, regWrite_slotAddr hn]

theorem exec_calSlotDataWrite {s : State} {n : BitVec 1} (d : W32) (h : RegFree s (0x06001C + 0x10 * n.toNat)) :
    exec (.calSlotDataWrite n d) s = ran s (fun _ b => calDataWrite n.toNat d b) :=
  regRow_run h

theorem exec_calSlotCommit {s : State} {n : BitVec 1} (d : W32) (h : RegFree s (0x060010 + 0x10 * n.toNat)) :
    exec (.calSlotCommit n d) s = ran s (fun _ b => calCtrlWrite n.toNat (d ||| 0x10000) b) :=
  regRow_run h

/-- Two operations with one effect on the body of a state make one step of it. -/
theorem ran_congr {s : State} {f g : Nat → Body → Body} (h : f s.addr.own s.b = g s.addr.own s.b) : ran s f = ran s g := by
  simp only [ran, h]

/-! ### DATA (R94) -/

theorem calDataWrite_stored {n : Nat} {b : Body} (d : W32) (hw : (b.slot n).word.toNat ≤ 771)
    (hb : shadowBusy b n = false) :
    calDataWrite n d b = b.modSlot n (fun x =>
      { x.modShadow (fun y => { y with words := y.words.set x.word.toNat d }) with word := x.word + 1 }) :=
  if_neg (by simp [hb, hw])

theorem calDataWrite_ignored {n : Nat} {b : Body} (d : W32) (h : 771 < (b.slot n).word.toNat ∨ shadowBusy b n = true) :
    calDataWrite n d b = b.modSlot n (fun x => { x with writeLost := true }) :=
  if_pos (by simpa using h)

/-! ### COMMIT (R95) -/

/-- COMMIT set in a write of CAL_SLOTn_CTRL touches no field of Table 4.10, which the write stores first. -/
theorem calCtrlWrite_commit (n : Nat) (d : W32) (b : Body) :
    calCtrlWrite n (d ||| 0x10000) b = calCommit n (b.modSlot n (fun x =>
      { x with part := d.setWidth 2, opened := d.getLsbD 2, segs := BitVec.ofNat 9 (bits d.toNat 12 4) })) := by
  have commit : (d ||| 0x10000).getLsbD 16 = true := by simp
  have part : (d ||| 0x10000).setWidth 2 = d.setWidth 2 := by simp
  have opened : (d ||| 0x10000).getLsbD 2 = d.getLsbD 2 := by simp
  have segs : bits (d ||| 0x10000).toNat 12 4 = bits d.toNat 12 4 := by
    simp [bits, Nat.shiftRight_or_distrib, Nat.or_mod_two_pow (n := 9)]
  simp only [calCtrlWrite, commit, part, opened, segs, if_true]

/-- The descriptor passes when SEGS is from 1 to 256, LO is finite, and INV_W is finite and positive. -/
theorem descBad_eq_false_iff (segs : Nat) (x : SlotBuf) :
    descBad segs x = false ↔ 1 ≤ segs ∧ segs ≤ 256 ∧ isFinite32 (sbWord x 0) = true ∧ isFinite32 (sbWord x 1) = true
      ∧ isZero32 (sbWord x 1) = false ∧ bit (sbWord x 1) 31 = false := by
  simp [descBad, Nat.one_le_iff_ne_zero, and_assoc]

theorem calCommit_busy {n : Nat} {b : Body} (h : shadowBusy b n = true) :
    calCommit n b = b.modSlot n (fun x => { x with writeLost := true }) :=
  if_pos h

theorem calCommit_descBad {n : Nat} {b : Body} (hb : shadowBusy b n = false)
    (hd : descBad (b.slot n).segs.toNat ((b.slot n).buf (b.slot n).other) = true) :
    calCommit n b = b.modSlot n (fun x => { x with descBad := true }) := by
  simp only [calCommit, hb, hd, Bool.false_eq_true, if_false, if_true]

theorem calCommit_done {n : Nat} {b : Body} (hb : shadowBusy b n = false)
    (hd : descBad (b.slot n).segs.toNat ((b.slot n).buf (b.slot n).other) = false) :
    calCommit n b = b.modSlot n (fun x => { x.modShadow (fun y => { y with segs := x.segs.toNat }) with
      cur := x.other, curValid := true, version := x.version + 1 }) := by
  simp only [calCommit, hb, hd, Bool.false_eq_true, if_false]

/-- Settles O31: the slot's registers are free together, and each write has one effect per case of R94 and R95. -/
theorem calSlots : Obligations.CalSlots := by
  unfold Obligations.CalSlots
  intro s n d ctrlFree
  have hn : n.toNat < 2 := n.isLt
  have ctrl : SlotReg (0x060010 + 0x10 * n.toNat) := .of_slot (k := 0) hn (by decide)
  have addrFree := ctrlFree.slotReg ctrl (.of_slot (k := 2) hn (by decide))
  have dataFree := ctrlFree.slotReg ctrl (.of_slot (k := 3) hn (by decide))
  refine ⟨exec_slotAddr hn d addrFree, fun hw hb => ?stored, fun h => ?ignored, ?commit, fun b => ?outcome⟩
  case stored => exact (exec_calSlotDataWrite d dataFree).trans (ran_congr (calDataWrite_stored d hw hb))
  case ignored => exact (exec_calSlotDataWrite d dataFree).trans (ran_congr (calDataWrite_ignored d h))
  case commit => exact (exec_calSlotCommit d ctrlFree).trans (ran_congr (calCtrlWrite_commit n.toNat d s.b))
  case outcome =>
    refine ⟨calCommit_busy, fun hb bad => calCommit_descBad hb ?_, fun hb good => calCommit_done hb ?_⟩
    · exact Bool.eq_true_of_not_eq_false (mt (descBad_eq_false_iff _ _).mp bad)
    · exact (descBad_eq_false_iff _ _).mpr good

end Sys2Proof.Machine
end

section
/-! SUPPORT. The commits of the tally store (spec/15 R381 to R383, R386): what a commit cut short leaves behind, which
check a GO for the life-cycle setting fails, and the life-cycle state that a start puts in force. -/

namespace Sys2Proof.Machine

/-! ### Records of a setting and the commits used -/

@[simp] theorem Tally.recs_append (t : Tally) (k : Nat) (r : TalRec) : (t.append k r).recs k = t.recs k ++ [r] :=
  match k with
  | 0 | 1 | 2 | _ + 3 => rfl

theorem Tally.used_of_idle {t : Tally} (k : Nat) (h : t.busy = none) : t.used k = (t.recs k).length := by
  simp [Tally.used, h]

/-- The commit in progress counts among those used (R381). -/
theorem Tally.used_of_busy {t : Tally} {k : Nat} {ws : List W32} (h : t.busy = some (k, ws)) :
    t.used k = (t.recs k).length + 1 := by
  simp [Tally.used, h]

/-- A record whose CRC fails is ignored (R383). -/
theorem Tally.value_of_badRecord {t t' : Tally} {k : Nat} {ws : List W32}
    (h : t'.recs k = t.recs k ++ [{ words := ws, good := false }]) : t'.value k = t.value k := by
  simp [Tally.value, Tally.latest, h]

theorem talCut_recs {t : Tally} {k : Nat} {ws : List W32} (h : t.busy = some (k, ws)) :
    (talCut t).recs k = t.recs k ++ [{ words := ws, good := false }] := by
  rw [← Tally.recs_append]
  simp only [talCut, h]
  rfl

/-- A loss of power resets the tally store as any reset does. -/
theorem exec_lossOfPower_tal (s : State) : ∃ t, exec .lossOfPower s = .next t ∧ t.tal = (resetState s).tal :=
  ⟨_, rfl, rfl⟩

/-- Settles O16: the reset appends the bad record in place of the commit in progress, so the count of commits used stands,
and the search for the value committed passes over the record. -/
theorem cutCommitStaysConsumed : Obligations.CutCommitStaysConsumed := by
  unfold Obligations.CutCommitStaysConsumed
  intro s k ws busy _
  obtain ⟨t, run, tal⟩ := exec_lossOfPower_tal s
  obtain ⟨-, -, -, idle, kept⟩ := resetState_keeps s
  rw [← tal] at idle kept
  have recs : t.tal.recs k = s.tal.recs k ++ [{ words := ws, good := false }] := (kept k).trans (talCut_recs busy)
  refine ⟨t, run, recs, ?used, Tally.value_of_badRecord recs⟩
  case used => rw [Tally.used_of_idle k idle, Tally.used_of_busy busy, recs, List.length_append, List.length_singleton]

/-! ### GO (R381, R382) -/

theorem exec_talGo_run {s : State} (h : powered s) :
    exec .talGo s = ranAll s (fun s => { s with tal := (talGoOp s.tal s.b).1 }) := by
  change execTalGo s = _
  exact onAll_run h

/-- Two operations with one effect on a state make one step of it. -/
theorem ranAll_congr {s : State} {f g : State → State} (h : f s = g s) : ranAll s f = ranAll s g := by
  simp only [ranAll, h]

/-- A GO that fails a check sets REFUSED and the code. -/
theorem exec_talGo_refused {s : State} {code : Nat} (h : powered s) (check : talGoCheck s.tal s.b = .error code) :
    exec .talGo s
      = ranAll s (fun s => { s with tal := { s.tal with refused := true, code := BitVec.ofNat 16 code } }) := by
  rw [exec_talGo_run h]
  refine ranAll_congr ?_
  simp only [talGoOp, check]

/-- A GO that passes begins a commit when the value staged is not the one committed. -/
theorem exec_talGo_begins {s : State} (h : powered s) (check : talGoCheck s.tal s.b = .ok ())
    (changes : s.tal.value s.tal.sel.toNat ≠ s.tal.staged) :
    exec .talGo s
      = ranAll s (fun s => { s with tal := { s.tal with busy := some (s.tal.sel.toNat, s.tal.staged) } }) := by
  rw [exec_talGo_run h]
  refine ranAll_congr ?_
  simp only [talGoOp, check, Tally.begin, beq_iff_eq, changes, if_false]

/-! ### GO for the life-cycle setting (R386) -/

/-- The state `v` is staged for the life-cycle setting, and a GO passes the checks that come before the form of the value
(R382). -/
structure LifeStaged (t : Tally) (b : Body) (v : W32) : Prop where
  sel : t.sel = 3
  staged : t.staged = [v]
  idle : t.busy = none
  permitted : b.blk.life ≠ 3
  budget : t.used 3 < talBudget 3

section
variable {t : Tally} {b : Body} {v : W32}

theorem talFormOk_life (t : Tally) (b : Body) (v : W32) :
    talFormOk t b 3 [v] = (decide (t.life < v.toNat) && decide (v.toNat ≤ 3)) := rfl

/-- Two checks are left to a GO for the life-cycle setting: the form of the value, and what the step from FORGE presupposes. -/
theorem LifeStaged.talGoCheck_eq (h : LifeStaged t b v) :
    talGoCheck t b = (do
      failIf (!(decide (t.life < v.toNat) && decide (v.toNat ≤ 3))) Code.talForm
      failIf (t.life == 0 && !(t.committed 2 && t.committed 1)) Code.talPrecond) := by
  obtain ⟨sel, staged, idle, permitted, budget⟩ := h
  have allowed : talStateOk 3 b.blk.life.toNat = true := bne_iff_ne.mpr (fun e => permitted (BitVec.eq_of_toNat_eq e))
  have left : decide (t.used 3 ≥ talBudget 3) = false := decide_eq_false (Nat.not_le.mpr budget)
  have sel3 : t.sel.toNat = 3 := congrArg BitVec.toNat sel
  simp only [talGoCheck, sel3, staged, idle, allowed, left, talFormOk_life]
  rfl

theorem LifeStaged.check_form (h : LifeStaged t b v) (bad : v.toNat ≤ t.life ∨ 3 < v.toNat) :
    talGoCheck t b = .error Code.talForm := by
  have form : (decide (t.life < v.toNat) && decide (v.toNat ≤ 3)) = false := by
    rw [Bool.and_eq_false_iff, decide_eq_false_iff_not, decide_eq_false_iff_not]
    omega
  rw [h.talGoCheck_eq, form]
  rfl

/-- A later state leaves the precondition of the step from FORGE alone. -/
theorem LifeStaged.check_later (h : LifeStaged t b v) (later : t.life < v.toNat) (known : v.toNat ≤ 3) :
    talGoCheck t b = failIf (t.life == 0 && !(t.committed 2 && t.committed 1)) Code.talPrecond := by
  rw [h.talGoCheck_eq, decide_eq_true later, decide_eq_true known]
  rfl

theorem LifeStaged.check_precond (h : LifeStaged t b v) (later : t.life < v.toNat) (known : v.toNat ≤ 3)
    (forge : t.life = 0) (missing : t.committed 1 = false ∨ t.committed 2 = false) :
    talGoCheck t b = .error Code.talPrecond := by
  rw [h.check_later later known, forge]
  rcases missing with mask | hash
  · simp [failIf, mask]
  · simp [failIf, hash]

theorem LifeStaged.check_ok (h : LifeStaged t b v) (later : t.life < v.toNat) (known : v.toNat ≤ 3)
    (ready : t.life ≠ 0 ∨ (t.committed 1 = true ∧ t.committed 2 = true)) : talGoCheck t b = .ok () := by
  rw [h.check_later later known]
  rcases ready with past | ⟨mask, hash⟩
  · simp [failIf, past]
  · simp [failIf, mask, hash]

/-- A later state is not the one committed, so it is a value that changes the store. -/
theorem Tally.value_ne_of_later (later : t.life < v.toNat) (known : v.toNat ≤ 3) : t.value 3 ≠ [v] := by
  intro same
  have life : t.life = v.toNat % 4 := by simp [Tally.life, same]
  omega

end

/-! ### The state in force (R386, Table 18.2) -/

theorem SwitchFrame.blk {b b' : Body} (h : SwitchFrame b b') : b'.blk = b.blk := by
  unfold SwitchFrame at h
  rw [h]

@[simp] theorem workReset_blk (b : Body) : (workReset b).blk = b.blk :=
  (SwitchFrame.of_fold _ (fun b p => consumePacket_frame p b) b.fab.rx b).blk

@[simp] theorem quarryInit_blk (warm : Bool) (b : Body) : (quarryInit warm b).blk = b.blk := by
  cases warm <;> rfl

theorem startOp_life (t : Tally) (b : Body) : (startOp t b).blk.life = BitVec.ofNat 2 t.life := by
  simp only [startOp, workReset_blk, quarryInit_blk]
  rfl

/-- Settles O38: the checks before the form pass, a state that is later and known then meets the precondition of FORGE alone,
and one that passes differs from the state committed. -/
theorem lifeCycleCommits : Obligations.LifeCycleCommits := by
  unfold Obligations.LifeCycleCommits
  intro s v power sel staged idle permitted budget
  have go : LifeStaged s.tal s.b v := ⟨sel, staged, idle, permitted, budget⟩
  refine ⟨fun bad => ?form, fun later known forge missing => ?precond, fun later known ready => ?begins, startOp_life⟩
  case form => exact exec_talGo_refused power (go.check_form bad)
  case precond => exact exec_talGo_refused power (go.check_precond later known forge missing)
  case begins =>
    have sel3 : s.tal.sel.toNat = 3 := congrArg BitVec.toNat sel
    have changes : s.tal.value s.tal.sel.toNat ≠ s.tal.staged := by
      rw [sel3, staged]
      exact Tally.value_ne_of_later later known
    rw [exec_talGo_begins power (go.check_ok later known ready) changes]
    refine ranAll_congr ?_
    rw [sel3, staged]

end Sys2Proof.Machine
end

section
/-! SUPPORT. The three forms of a command's meaning: on the body, on the whole state, and the rows of PORST_N and of the power. What
a form leaves alone is said once for each, and every statement about all commands goes through them. -/

namespace Sys2Proof.Machine

/-! ### Wrappers -/

/-- What a meaning on the whole state leaves of a part of it: what its effect leaves, and nothing in reset. -/
theorem onAll_part {s t : State} {f : State → State} (P : State → Prop) (h : s.onAll f = .next t) (h0 : P s)
    (h1 : P { f s with b := settle s.b (f s).b }) : P t := by
  unfold State.onAll at h
  split at h <;> cases h <;> assumption

theorem onBody_completes (s : State) (f : Nat → Body → Body) : completes (s.onBody f) := by
  unfold State.onBody
  split <;> exact ⟨_, rfl⟩

theorem onAll_completes (s : State) (f : State → State) : completes (s.onAll f) := by
  unfold State.onAll
  split <;> exact ⟨_, rfl⟩

/-! ### The forms -/

/-- The rows whose meaning speaks of the whole state: the fabric address, the tally store and the registers, and DUMP. -/
def wholeRow : Instr → Bool
  | .dxEnRiseStart | .dxEnRiseDuringAssay _ | .bightToken _ | .mgpAccess _ _ _ | .regRead _ | .regWrite _ | .registerWrite _ _
  | .dump | .talSelWrite _ | .talStageDataWrite _ | .talGo | .tallyCommitDone | .assayEnd => true
  | _ => false

/-- The effect of a row on the whole state. -/
def wholeOp : Instr → State → State
  | .dxEnRiseStart => dxEnRise
  | .dxEnRiseDuringAssay fails => dxEnRiseAssay fails
  | .bightToken token => fun s =>
    let a := bightOp token s.addr
    { s with addr := a, b := if a.locked && !s.addr.locked then driveAll a.own (retryUnrouted a.own s.b) else s.b }
  | .mgpAccess write offset data => mgpOp write (wordOff offset) data
  | .regRead queue => regCommand queue.toNat Cmd.regRead regReadOp
  | .regWrite queue => regCommand queue.toNat Cmd.regWrite regWriteOp
  | .registerWrite offset data => fun s => if held s.b (wordOff offset) then s else (regWrite none (wordOff offset) data s).1
  | .dump => fun s => match dumpReady s.addr.own s.b with
    | some r => dumpOp r s
    | none => { s with b := withExpress s.addr.own Cmd.dump (fun _ b => b) s.b }
  | .talSelWrite data => fun s => { s with tal := talSelOp data s.tal }
  | .talStageDataWrite data => fun s => { s with tal := talStageOp data s.tal }
  | .talGo => fun s => { s with tal := (talGoOp s.tal s.b).1 }
  | .tallyCommitDone => talCommitDone
  | .assayEnd => fun s => startIfWaiting (endAssay s)
  | _ => id

theorem exec_whole {c : Instr} (h : wholeRow c = true) (s : State) : exec c s = s.onAll (wholeOp c) := by
  cases c <;> cases h <;> rfl

/-- The effect of a write of a register by a row of its own: none while an assay slice holds the unit (R445). -/
def unlessHeld (off : Nat) (f : Body → Body) (b : Body) : Body := if held b off then b else f b

/-- The effect on the body of every row that is neither of the whole state nor of PORST_N and the power, the tally store and the
fabric address given. -/
def bodyOp (c : Instr) (tal : Tally) (own : Nat) (b : Body) : Body :=
  match c with
  | .dxEnFall => afterHold own b (dxEnFallOp own b)
  | .cpRecordIntake transfers => takeTransfers transfers b
  | .outwardRecord => outwardOp b
  | .loadLay => withHead own 64 Cmd.loadLay (loadLayOp tal) b
  | .applySplice => withHead own 64 Cmd.applySplice (applySpliceOp tal) b
  | .routeStep ctx => driveAll own (commandRow own ctx.toNat Cmd.routeStep (routeOp own) b)
  | .routeStepDone ctx => routeDoneOp own ctx.toNat b
  | .combine ctx => driveAll own (commandRow own ctx.toNat Cmd.combine (combineOp own) b)
  | .combineStart ctx => driveAll own (combineStartOp own ctx.toNat b)
  | .dispatch => driveAll own (withExpress own Cmd.dispatch (dispatchOp own) b)
  | .copy ctx => driveAll own (commandRow own ctx.toNat Cmd.copy (copyOp own) b)
  | .collect ctx => withHead own ctx.toNat Cmd.collect (collectOp own) b
  | .pieceAdmit group => shutdownEnd (pieceAdmitOp own group.toNat b)
  | .collectDone ctx => if frozen b then b else collectDoneOp own ctx.toNat b
  | .collectDeadline group => if frozen b then b else shutdownEnd (driveResults own (collectDeadlineOp own group.toNat b))
  | .muster ctx => withHead own ctx.toNat Cmd.muster (musterOp own) b
  | .musterArriveLocal group => if frozen b then b else settleGroups (musterArriveLocal own group.toNat b)
  | .musterReleaseTick group => if b.hang.halted then b else shutdownEnd (settleGroups (releaseTickOp own group.toNat b))
  | .musterDeadline group => if frozen b then b else shutdownEnd (settleGroups (musterDeadlineOp own group.toNat b))
  | .cancelBatch => driveAll own (withExpress own Cmd.cancelBatch (cancelOp own) b)
  | .saveContext ctx => withHead own ctx.toNat Cmd.saveContext saveOp b
  | .resume => driveAll own (withExpress own Cmd.resume (resumeOp own) b)
  | .shutdown => afterHold own b (shutdownEnd (withHead own 64 Cmd.shutdown (shutdownOp own) b))
  | .calSlotDataWrite slot data => unlessHeld (0x06001C + 0x10 * slot.toNat) (calDataWrite slot.toNat data) b
  | .calSlotCommit slot data => unlessHeld (0x060010 + 0x10 * slot.toNat) (calCtrlWrite slot.toNat (data ||| 0x10000)) b
  | .xltInvalGo data => unlessHeld 0x140014 (xltInvalWrite (data ||| 0x100)) b
  | .ctxCreate => unlessHeld 0x180008 ctxCreate b
  | .ctxDestroy => unlessHeld 0x180008 ctxDestroy b
  | .thmGroupOpen group data =>
    unlessHeld (0x101000 + 0x20 * group.toNat) (fun b => shutdownEnd (groupCtrlWrite own group.toNat (data ||| 1) b)) b
  | .thmGroupClose group data =>
    unlessHeld (0x101000 + 0x20 * group.toNat) (fun b => shutdownEnd (groupCtrlWrite own group.toNat (data &&& 0xFFFFFFFE) b)) b
  | .abort group data =>
    unlessHeld (0x101000 + 0x20 * group.toNat) (fun b => shutdownEnd (groupCtrlWrite own group.toNat (data ||| 0x800) b)) b
  | .dropRest => unlessHeld 0x0C0100 (sknCtrlWrite own 1) b
  | .obsMarkWrite data => unlessHeld 0x1C041C (markOp none data) b
  | .traceEnable data => unlessHeld 0x1C0500 (traceCtrlWrite (data ||| 1)) b
  | .traceDisable data => unlessHeld 0x1C0500 (traceCtrlWrite (data &&& 0xFFFFFFFE)) b
  | .trigger => unlessHeld 0x1C0500 triggerOp b
  | .arm => unlessHeld 0x1C0500 armOp b
  | .traceIdleFlush => flushTrace b
  | .mrlPcEnable data => unlessHeld 0x090010 (pcCtrlWrite (data ||| 1)) b
  | .pcSample => pcSampleOp b
  | .paceClr => unlessHeld 0x200008 paceClrOp b
  | .asyGo data => unlessHeld 0x200204 (fun b => (asyCtrlWrite (data ||| 1) b).1) b
  | .asy1500Shift data => unlessHeld 0x200264 (wrapperShift data) b
  | .linkFlitReceive port flit => driveAll own (flitReceived own port.toNat flit b)
  | .nakReceive port crcGood lack expected => driveAll own (nakOp own port.toNat crcGood lack.toNat expected.toNat b)
  | .creditReceive port crcGood lack drained => driveAll own (creditOp port.toNat crcGood lack.toNat drained b)
  | .linkRetryTimeout port => driveAll own (retryOp own port.toNat b)
  | .tokenPacketReceive => exchangeRow tokenRow own b
  | .endPacketReceive => exchangeRow endRow own b
  | .homeHalfSort => driveAll own (homeSortOp own b)
  | .answerPacketReceive => exchangeRow answerRow own b
  | .skeinReadDone => driveAll own (readDoneOp own b)
  | .collectPartialReceive =>
    shutdownEnd (driveResults own (withPacket (fun p => p.vc == 1 && pktKind p ≤ 1) (partialOp own) b))
  | .admitReceive => shutdownEnd (driveResults own (withPacket (fun p => p.vc == 2 && pktKind p == 4) (admitOp own) b))
  | .resultReceive => shutdownEnd (driveResults own (withPacket (fun p => p.vc == 2 && pktKind p == 2) (resultOp own) b))
  | .collectVoidReceive =>
    shutdownEnd (driveResults own (withPacket (fun p => (p.vc == 1 || p.vc == 2) && pktKind p == 3) (voidOp own) b))
  | .musterArriveReceive => shutdownEnd (settleGroups (withPacket (fun p => p.vc == 0 && pktKind p == 0) (arriveOp own) b))
  | .musterReleaseReceive => shutdownEnd (settleGroups (withPacket (fun p => p.vc == 0 && pktKind p == 1) (releaseOp own) b))
  | .musterVoidReceive => shutdownEnd (settleGroups (withPacket (fun p => p.vc == 0 && pktKind p == 2) (musterVoidOp own) b))
  | .tandemRecordReceive => withPacket (fun p => p.vc == 5) (tandemOp own) b
  | .tandemWindowExpiry => loseRecords own (fun e => b.fab.window.toNat < b.now - e.since) b
  | .stcSyncExchange port =>
    if portLive b port.toNat && (syncPorts own b).contains port.toNat then
      sendCtrl port.toNat (.sync (b.port port.toNat).rxSeq b.now) b
    else b
  | .stcSyncReceive port crcGood error =>
    syncOp own port.toNat crcGood (syncError b.now error.parentNow.toNat error.roundTrip.toNat) b
  | .stcrefCycle => if b.stc.root then advance 10 b else b
  | .wpCardAck => driveAll own (cardAckOp own b)
  | .wpCompletion hank => driveAll own (completionOp hank b)
  | .tileHeaderArrive hank => tileHeaderOp own hank b
  | .tileReceive hanks => tileReceiveOp own hanks b
  | .memoryResponse line id status data => memResponseOp own line.toNat id.toNat status.toNat data b
  | .coilGrant => coilGrantOp own (expire own b)
  | .saveStart ctx => saveStartOp ctx.toNat b
  | .saveDone ctx => driveAll own (saveDoneOp own ctx.toNat b)
  | .restoreDone ctx => driveAll own (restoreDoneOp own ctx.toNat b)
  | .autoRestore ctx => autoRestoreOp ctx.toNat b
  | .unitYield => yieldOp own b
  | .homedDeadline => driveAll own (homedDeadlineOp own b)
  | .watchdogLimit => watchdogOp b
  | .paceWindowEnd count => paceEndOp count b
  | .tempReport tj sensor => tempOp tj sensor b
  | .railReading vzc vzs => afterHold own b (railOp vzc vzs b)
  | .ceilChange ceil valid => ceilChangeOp ceil valid b
  | .throttleWindow => afterHold own b (windowOp b)
  | .throttleHoldStart => holdStartOp b
  | .drawPublish => publishOp own b
  | .secondEnd => secondEndOp b
  | .wearMeasure cls array index wear =>
    if index.toNat ≤ logicalMax cls.toNat + spareLimit cls.toNat && cls.toNat ≤ 6 && (cls.toNat ≤ 1 || array == 0)
        && wearDue cls.toNat array.toNat index.toNat b then
      wearMeasureOp cls.toNat array.toNat index.toNat wear.toNat b
    else b
  | .assaySliceEnd fails => sliceEnd fails b
  | .sliceBudgetExpiry fails => sliceExpire fails b
  | .linkTrained port => driveAll own (linkTrainedOp own port.toNat b)
  | _ => b

theorem exec_body {c : Instr} (whole : wholeRow c = false) (moves : movesInReset c = false) (s : State) :
    exec c s = s.onBody (bodyOp c s.tal) := by
  cases c <;> cases whole <;> cases moves <;> rfl

/-- The effect of the rows of PORST_N and of the power. -/
def resetOp : Instr → State → State
  | .porstNReset, s => resetState s
  | .porstNRelease, s => { s with b := if s.b.blk.porst then { s.b with blk := { s.b.blk with porst := false } } else s.b }
  | .lossOfPower, s => { resetState s with b := { (resetState s).b with blk := { (resetState s).b.blk with dxEn := false } } }
  | _, s => s

theorem exec_porstNRelease (s : State) : exec .porstNRelease s = .next { s with
    b := if s.b.blk.porst then { s.b with blk := { s.b.blk with porst := false } } else s.b } := by
  change execPorstNRelease s = _
  unfold execPorstNRelease
  split <;> rfl

theorem exec_reset {c : Instr} (moves : movesInReset c = true) (s : State) : exec c s = .next (resetOp c s) := by
  cases c <;> cases moves
  case porstNRelease.refl => exact exec_porstNRelease s
  all_goals rfl

/-- Out of reset a row on the body has its effect. -/
theorem exec_bodyRun {c : Instr} {s : State} (power : powered s) (whole : wholeRow c = false) (moves : movesInReset c = false) :
    exec c s = ran s (bodyOp c s.tal) :=
  (exec_body whole moves s).trans (onBody_run power)

theorem exec_wholeRun {c : Instr} {s : State} (power : powered s) (whole : wholeRow c = true) :
    exec c s = ranAll s (wholeOp c) :=
  (exec_whole whole s).trans (onAll_run power)

/-- A property of pairs of states holds of every row that answers once it holds of the three forms. -/
theorem exec_forms {P : State → State → Prop} {c : Instr} {s t : State} (h : exec c s = .next t)
    (reset : movesInReset c = true → P s (resetOp c s))
    (whole : wholeRow c = true → P s { wholeOp c s with b := settle s.b (wholeOp c s).b })
    (body : wholeRow c = false → movesInReset c = false → ∀ b, P s { s with b := b })
    (stands : wholeRow c = true → P s s) : P s t := by
  cases hm : movesInReset c with
  | true =>
    rw [exec_reset hm] at h
    cases h
    exact reset hm
  | false =>
    cases hw : wholeRow c with
    | true =>
      rw [exec_whole hw] at h
      exact onAll_part (P s) h (stands hw) (whole hw)
    | false =>
      obtain ⟨pending, addr, tal⟩ := onBody_keeps ((exec_body hw hm s).symm.trans h)
      have : t = { s with b := t.b } := by
        cases t
        cases pending
        cases addr
        cases tal
        rfl
      rw [this]
      exact body hw hm t.b

/-! ### Every command -/

/-- Settles O1. -/
theorem stepRunsFront : Obligations.StepRunsFront := by
  unfold Obligations.StepRunsFront
  exact fun c rest s h => step_cons h

/-- Settles O3: each of the three forms answers a next state. -/
theorem everyCommandCompletes : Obligations.EveryCommandCompletes := by
  unfold Obligations.EveryCommandCompletes
  intro c s
  cases hm : movesInReset c with
  | true => exact ⟨_, exec_reset hm s⟩
  | false =>
    cases hw : wholeRow c with
    | true => exact exec_whole hw s ▸ onAll_completes s _
    | false => exact exec_body hw hm s ▸ onBody_completes s _

/-- Settles O5: in reset both wrappers leave the state. -/
theorem resetHoldsEverything : Obligations.ResetHoldsEverything := by
  unfold Obligations.ResetHoldsEverything
  intro c s asserted moves
  cases hw : wholeRow c with
  | true => exact (exec_whole hw s).trans (onAll_porst _ asserted)
  | false => exact (exec_body hw moves s).trans (onBody_porst _ asserted)

end Sys2Proof.Machine
end

section
/-! SUPPORT. What the rows on the whole state do to the queue, the fabric address and the tally store (spec/14 R361 to R364, spec/15
R380 to R386), and the statements about the two stores that follow. -/

namespace Sys2Proof.Machine

/-! ### Operations of the whole state -/

@[simp] theorem startIfWaiting_pending (s : State) : (startIfWaiting s).pending = s.pending := by
  unfold startIfWaiting
  dsimp only
  split <;> rfl

@[simp] theorem startIfWaiting_addr (s : State) : (startIfWaiting s).addr = s.addr := by
  unfold startIfWaiting
  dsimp only
  split <;> rfl

@[simp] theorem startIfWaiting_tal (s : State) : (startIfWaiting s).tal = s.tal := by
  unfold startIfWaiting
  dsimp only
  split <;> rfl

@[simp] theorem endAssay_pending (s : State) : (endAssay s).pending = s.pending := by
  unfold endAssay
  dsimp only
  repeat' split
  all_goals rfl

@[simp] theorem endAssay_addr (s : State) : (endAssay s).addr = s.addr := by
  unfold endAssay
  dsimp only
  repeat' split
  all_goals rfl

/-- The queue and the fabric address of two states are the same. -/
structure SameFront (s t : State) : Prop where
  pending : t.pending = s.pending
  addr : t.addr = s.addr

theorem dxEnRiseAssay_front (fails : List Failure) (s : State) : SameFront s (dxEnRiseAssay fails s) := by
  unfold dxEnRiseAssay
  split
  · exact ⟨rfl, rfl⟩
  · split
    · exact ⟨rfl, rfl⟩
    · constructor <;> simp

theorem dxEnRise_front (s : State) : SameFront s (dxEnRise s) := by
  unfold dxEnRise
  split
  · constructor <;> simp
  · split
    · exact dxEnRiseAssay_front [] s
    · constructor <;> simp

theorem talCommitDone_front (s : State) : SameFront s (talCommitDone s) := by
  unfold talCommitDone
  split
  · exact ⟨rfl, rfl⟩
  · dsimp only
    split
    · constructor <;> simp
    · split <;> constructor <;> simp

theorem dumpOp_store (r : CmdRec) (s : State) : dumpOp r s = { s with b := (dumpOp r s).b } := by
  unfold dumpOp
  split <;> rfl

/-- The effect of a register command: its own on a record that is accepted, none otherwise but on the body. -/
theorem regCommand_cases (q code : Nat) (f : CmdRec → State → State) (s : State) :
    (∃ r, regCommand q code f s = f r s) ∨ regCommand q code f s = { s with b := (regCommand q code f s).b } := by
  unfold regCommand
  split
  · exact .inl ⟨_, rfl⟩
  · exact .inr rfl

theorem regReadOp_store (r : CmdRec) (s : State) : regReadOp r s = { s with b := (regReadOp r s).b } := by
  unfold regReadOp
  dsimp only
  split <;> rfl

/-- The effect of a register write on a state: none, or the write's on the fabric address and the tally store. -/
inductive RegEffect (s t : State) : Prop
  | stands (b : Body) (h : t = { s with b := b })
  | writes (off : Nat) (data : W32) (b : Body)
      (h : t = { s with addr := addrWrite off data s.addr, tal := (talWrite off data s.tal s.b).1, b := b })

theorem RegEffect.setBody {s t : State} (h : RegEffect s t) (b : Body) : RegEffect s { t with b := b } := by
  obtain ⟨_, rfl⟩ | ⟨off, data, _, rfl⟩ := h
  · exact .stands b rfl
  · exact .writes off data b rfl

theorem mgpOp_effect (write : Bool) (off : Nat) (data : W32) (s : State) : RegEffect s (mgpOp write off data s) := by
  refine RegEffect.setBody ?_ _
  split
  · exact .stands _ rfl
  · split
    · exact .writes off data _ rfl
    · exact .stands _ rfl

theorem regWriteOp_effect (r : CmdRec) (s : State) : RegEffect s (regWriteOp r s) := by
  unfold regWriteOp
  split
  · exact .stands _ rfl
  · exact .writes _ _ _ rfl

/-- The rows that write a register. -/
def writesRegister : Instr → Bool
  | .mgpAccess _ _ _ | .regWrite _ | .registerWrite _ _ => true
  | _ => false

theorem wholeOp_register {c : Instr} (h : writesRegister c = true) (s : State) : RegEffect s (wholeOp c s) := by
  cases c <;> cases h
  case mgpAccess write offset data => exact mgpOp_effect write (wordOff offset) data s
  case regWrite queue =>
    obtain ⟨r, hr⟩ | hr := regCommand_cases queue.toNat Cmd.regWrite regWriteOp s
    · have := regWriteOp_effect r s
      rwa [← hr] at this
    · exact .stands _ hr
  case registerWrite offset data =>
    unfold wholeOp
    dsimp only
    split
    · exact .stands _ rfl
    · exact .writes _ _ _ rfl

/-- The rows that read a register or take a dump, which touch neither store. -/
theorem wholeOp_reads {c : Instr} (h : wholeRow c = true) (addr : touchesAddress c = false) (tal : touchesTally c = false)
    (s : State) : wholeOp c s = { s with b := (wholeOp c s).b } := by
  cases c <;> cases h <;> cases addr <;> cases tal
  case regRead queue =>
    obtain ⟨r, hr⟩ | hr := regCommand_cases queue.toNat Cmd.regRead regReadOp s
    · have := regReadOp_store r s
      rwa [← hr] at this
    · exact hr
  case dump =>
    unfold wholeOp
    dsimp only
    split
    · exact dumpOp_store _ s
    · rfl

/-! ### The queue -/

theorem wholeOp_pending {c : Instr} (h : wholeRow c = true) (s : State) : (wholeOp c s).pending = s.pending := by
  cases hr : writesRegister c with
  | true => obtain ⟨_, e⟩ | ⟨_, _, _, e⟩ := wholeOp_register hr s <;> rw [e]
  | false =>
    cases c <;> cases h <;> cases hr
    case dxEnRiseStart.refl.refl => exact (dxEnRise_front s).pending
    case dxEnRiseDuringAssay.refl.refl fails => exact (dxEnRiseAssay_front fails s).pending
    case tallyCommitDone.refl.refl => exact (talCommitDone_front s).pending
    case assayEnd.refl.refl => exact (startIfWaiting_pending _).trans (endAssay_pending s)
    case regRead.refl.refl => rw [wholeOp_reads rfl rfl rfl s]
    case dump.refl.refl => rw [wholeOp_reads rfl rfl rfl s]
    all_goals rfl

/-- Settles O4: no form of a meaning touches the queue. -/
theorem queueUntouched : Obligations.QueueUntouched := by
  unfold Obligations.QueueUntouched
  intro c s t h
  refine exec_forms (P := fun s t => t.pending = s.pending) h (fun moves => ?_) (fun whole => wholeOp_pending whole s)
    (fun _ _ _ => rfl) (fun _ => rfl)
  cases c <;> cases moves <;> rfl

end Sys2Proof.Machine
end

section
/-! SUPPORT. The fabric address under every step (spec/14 R361 to R364, Table 14.15). -/

namespace Sys2Proof.Machine

/-! ### How an address changes -/

/-- What a step that takes no address away does to it: nothing, a token of the bight chain, or a register write. -/
inductive AddrStep (a : FabAddr) : FabAddr → Prop
  | stands : AddrStep a a
  | token (k : BitVec 24) : AddrStep a (bightOp k a)
  | write (off : Nat) (data : W32) : AddrStep a (addrWrite off data a)

theorem wholeOp_addr {c : Instr} (h : wholeRow c = true) (frame : touchesAddress c = false) (s : State) :
    (wholeOp c s).addr = s.addr := by
  cases c <;> cases h <;> cases frame
  case dxEnRiseStart.refl.refl => exact (dxEnRise_front s).addr
  case dxEnRiseDuringAssay.refl.refl fails => exact (dxEnRiseAssay_front fails s).addr
  case tallyCommitDone.refl.refl => exact (talCommitDone_front s).addr
  case assayEnd.refl.refl => exact (startIfWaiting_addr _).trans (endAssay_addr s)
  case regRead.refl.refl => rw [wholeOp_reads rfl rfl rfl s]
  case dump.refl.refl => rw [wholeOp_reads rfl rfl rfl s]
  all_goals rfl

theorem wholeOp_addrStep {c : Instr} (h : wholeRow c = true) (s : State) : AddrStep s.addr (wholeOp c s).addr := by
  cases frame : touchesAddress c with
  | false => exact wholeOp_addr h frame s ▸ .stands
  | true =>
    cases hr : writesRegister c with
    | true =>
      obtain ⟨_, e⟩ | ⟨off, data, _, e⟩ := wholeOp_register hr s <;> rw [e]
      · exact .stands
      · exact .write off data
    | false =>
      cases c <;> cases h <;> cases frame <;> cases hr
      exact .token _

/-- Settles O11: a row of the body cannot name the address, and a row of the whole state outside the list leaves it. -/
theorem addressFrame : Obligations.AddressFrame := by
  unfold Obligations.AddressFrame
  intro c s t h frame
  refine exec_forms (P := fun s t => t.addr = s.addr) h (fun moves => ?_) (fun whole => wholeOp_addr whole frame s)
    (fun _ _ _ => rfl) (fun _ => rfl)
  cases c <;> cases moves <;> cases frame
  rfl

theorem exec_addrStep {c : Instr} {s t : State} (h : exec c s = .next t) (kept : dropsAddress c = false) :
    AddrStep s.addr t.addr := by
  refine exec_forms (P := fun s t => AddrStep s.addr t.addr) h (fun moves => ?_) (fun whole => wholeOp_addrStep whole s)
    (fun _ _ _ => .stands) (fun _ => .stands)
  cases c <;> cases moves <;> cases kept
  exact .stands

theorem exec_dropsAddress {c : Instr} {s t : State} (h : exec c s = .next t) (drops : dropsAddress c = true) : t.addr = {} := by
  cases c <;> cases drops <;> cases h <;> rfl

theorem idle_store (s : State) : idle s = { s with b := (idle s).b } := by
  unfold idle
  split <;> rfl

/-- A step takes the address away with a reset or a loss of power, and otherwise does what a row can do to it. -/
theorem step_addr {s t : State} (h : step s = .next t) :
    AddrStep s.addr t.addr ∨ (∃ c, s.pending.head? = some c ∧ dropsAddress c = true) ∧ t.addr = {} := by
  cases hp : s.pending with
  | nil =>
    rw [step_nil hp] at h
    cases h
    exact .inl (idle_store s ▸ .stands)
  | cons c rest =>
    rw [step_cons hp] at h
    cases hd : dropsAddress c with
    | false => exact .inl (exec_addrStep (s := { s with pending := rest }) h hd)
    | true => exact .inr ⟨⟨c, rfl, hd⟩, exec_dropsAddress h hd⟩

/-! ### The invariant and the lock -/

theorem addrOk_iff (a : FabAddr) :
    addrOk a = true ↔ (a.locked = true ∨ a.addr = 0)
      ∧ (a.bco.isSome = true ∨ a.locked = false ∧ a.bad = false ∧ a.repeat_ = false) := by
  simp [addrOk, and_assoc]

/-- A first token is passed on, so that a second one finds the chip's token on BCO. -/
theorem bightOp_bco (k : BitVec 24) (a : FabAddr) : (bightOp k a).bco.isSome = true := by
  unfold bightOp
  dsimp only
  split
  · rfl
  · split <;> rfl

/-- A token after the first changes no address (R364). -/
theorem bightOp_repeat {a : FabAddr} (k : BitVec 24) (h : a.bco.isSome = true) :
    bightOp k a = { a with repeat_ := true, bco := some k } :=
  if_pos h

theorem bightOp_locked_or {a : FabAddr} (k : BitVec 24) (h : a.bco.isSome = false) :
    (bightOp k a).locked = true ∨ (bightOp k a).addr = a.addr ∧ (bightOp k a).locked = a.locked := by
  simp only [bightOp, h, Bool.false_eq_true, if_false]
  split
  · exact .inl rfl
  · exact .inr ⟨rfl, rfl⟩

theorem addrWrite_keeps (off : Nat) (data : W32) (a : FabAddr) :
    (addrWrite off data a).addr = a.addr ∧ (addrWrite off data a).locked = a.locked ∧ (addrWrite off data a).bco = a.bco
      ∧ (a.bad = false → (addrWrite off data a).bad = false) ∧ (a.repeat_ = false → (addrWrite off data a).repeat_ = false) := by
  unfold addrWrite
  split
  · exact ⟨rfl, rfl, rfl, fun h => by simp [h], fun h => by simp [h]⟩
  · exact ⟨rfl, rfl, rfl, id, id⟩

theorem AddrStep.keepsLock {a a' : FabAddr} (step : AddrStep a a') (ok : addrOk a = true) (lock : a.locked = true) :
    a'.locked = true ∧ a'.addr = a.addr := by
  obtain ⟨-, flags⟩ := (addrOk_iff a).mp ok
  have token : a.bco.isSome = true := flags.resolve_right (fun h => by simp [lock] at h)
  cases step with
  | stands => exact ⟨lock, rfl⟩
  | token k => exact bightOp_repeat k token ▸ ⟨lock, rfl⟩
  | write off data =>
    obtain ⟨addr, locked, -⟩ := addrWrite_keeps off data a
    exact ⟨locked.trans lock, addr⟩

theorem AddrStep.keepsOk {a a' : FabAddr} (step : AddrStep a a') (ok : addrOk a = true) : addrOk a' = true := by
  obtain ⟨zero, flags⟩ := (addrOk_iff a).mp ok
  refine (addrOk_iff a').mpr ?_
  cases step with
  | stands => exact ⟨zero, flags⟩
  | token k =>
    refine ⟨?_, .inl (bightOp_bco k a)⟩
    cases first : a.bco.isSome with
    | true => exact bightOp_repeat k first ▸ zero
    | false =>
      obtain lock | ⟨addr, locked⟩ := bightOp_locked_or k first
      · exact .inl lock
      · rwa [addr, locked]
  | write off data =>
    obtain ⟨addr, locked, bco, bad, repeat_⟩ := addrWrite_keeps off data a
    rw [addr, locked, bco]
    exact ⟨zero, flags.imp_right fun ⟨l, b, r⟩ => ⟨l, bad b, repeat_ r⟩⟩

theorem storeInv_iff (s : State) : storeInv s = true ↔ addrOk s.addr = true ∧ tallyOk s.tal = true := by
  simp [storeInv]

/-- Settles O6: a locked address has its token on BCO, so a further token changes no address, and no register write does. -/
theorem lockedAddressStays : Obligations.LockedAddressStays := by
  unfold Obligations.LockedAddressStays
  intro s t inv run kept lock
  obtain step | ⟨⟨c, front, drops⟩, -⟩ := step_addr run
  · exact step.keepsLock ((storeInv_iff s).mp inv).1 lock
  · exact absurd (kept c front) (by simp [drops])

/-! ### The bight chain -/

theorem exec_bightToken {s : State} (k : BitVec 24) (h : powered s) :
    exec (.bightToken k) s = ranAll s (wholeOp (.bightToken k)) :=
  exec_wholeRun h rfl

theorem wholeOp_bightToken (k : BitVec 24) (s : State) :
    wholeOp (.bightToken k) s = { s with
      addr := bightOp k s.addr,
      b := if (bightOp k s.addr).locked && !s.addr.locked then
        driveAll (bightOp k s.addr).own (retryUnrouted (bightOp k s.addr).own s.b) else s.b } := rfl

/-- Settles O17: a token is the first one exactly while BCO shows none. -/
theorem bightTokens : Obligations.BightTokens := by
  unfold Obligations.BightTokens
  intro k s power
  rw [exec_bightToken k power]
  refine ⟨fun first good => ?good, fun first bad => ?bad, fun later => ?later⟩
  case good =>
    have token : bightOp k s.addr = { s.addr with
        addr := BitVec.ofNat 17 (positionAddr (bits k.toNat 17 10) (bits k.toNat 9 0)), locked := true,
        bco := some (withParity (fld 9 0 (bits k.toNat 9 0 + 1) + fld 17 10 (bits k.toNat 17 10))) } := by
      simp [bightOp, first, good]
    refine ⟨_, rfl, ?_⟩
    change (bightOp k s.addr).locked = true ∧ (bightOp k s.addr).addr = _ ∧ (bightOp k s.addr).bco = _
      ∧ (bightOp k s.addr).bad = _ ∧ (bightOp k s.addr).repeat_ = _
    rw [token]
    exact ⟨rfl, rfl, rfl, rfl, rfl⟩
  case bad =>
    refine ⟨_, rfl, ?_⟩
    change bightOp k s.addr = _
    simp [bightOp, first, bad]
  case later =>
    refine ranAll_congr ?_
    have stands : ((bightOp k s.addr).locked && !s.addr.locked) = false := by simp [bightOp_repeat k later]
    rw [wholeOp_bightToken, stands, bightOp_repeat k later]
    rfl

end Sys2Proof.Machine
end

section
/-! SUPPORT. The tally store under every step (spec/15 R380 to R386): a step leaves the records and the commit in progress, begins a
commit, ends one, or cuts one short. -/

namespace Sys2Proof.Machine

/-! ### Checks -/

/-- A check that has to pass before others: the condition is false and the others answer. -/
theorem failIf_bind {cond : Bool} {code : Nat} {f : Unit → Check} :
    (failIf cond code >>= f) = .ok () ↔ cond = false ∧ f () = .ok () := by
  cases cond <;> simp [failIf, bind, Except.bind]

theorem failIf_ok {cond : Bool} {code : Nat} : failIf cond code = .ok () ↔ cond = false := by
  cases cond <;> simp [failIf]

/-! ### The moves -/

/-- The records and the commit in progress stand: only registers of the store may differ. -/
structure Tally.Quiet (t u : Tally) : Prop where
  recs : ∀ k, u.recs k = t.recs k
  busy : u.busy = t.busy

/-- A commit of the value `ws` of setting `k` begins: none is in progress, the budget allows it, and the value has its setting's
form (R381, R385, R386). -/
structure Tally.Begins (t u : Tally) (k : Nat) (ws : List W32) : Prop where
  recs : ∀ k, u.recs k = t.recs k
  idle : t.busy = none
  busy : u.busy = some (k, ws)
  setting : k ≤ 3
  budget : t.used k < talBudget k
  grade : k = 1 → gradeOk (t.value 1) ws = true
  life : k = 3 → t.life < (ws.getD 0 0).toNat ∧ (ws.getD 0 0).toNat ≤ 3

/-- A move that ends no commit. -/
def Tally.Move (t u : Tally) : Prop := t.Quiet u ∨ ∃ k ws, t.Begins u k ws

/-- What a step does to the store: a move, the end of a commit and then a move, or a commit cut short. -/
inductive TallyStep (t u : Tally) : Prop
  | moves (h : t.Move u)
  | ends (h : (talDone t).Move u)
  | cut (h : (talCut t).Quiet u)

theorem Tally.Quiet.refl (t : Tally) : t.Quiet t := ⟨fun _ => rfl, rfl⟩

theorem TallyStep.refl (t : Tally) : TallyStep t t := .moves (.inl (.refl t))

/-! ### Which operation makes which move -/

theorem talSelOp_quiet (data : W32) (t : Tally) : t.Quiet (talSelOp data t) := ⟨fun _ => rfl, rfl⟩

theorem talStageOp_quiet (data : W32) (t : Tally) : t.Quiet (talStageOp data t) := by
  unfold talStageOp
  split <;> exact ⟨fun _ => rfl, rfl⟩

/-- What the checks of GO say once they pass (R382). -/
theorem talGoCheck_ok {t : Tally} {b : Body} (h : talGoCheck t b = .ok ()) :
    t.busy = none ∧ t.used t.sel.toNat < talBudget t.sel.toNat ∧ talFormOk t b t.sel.toNat t.staged = true := by
  unfold talGoCheck at h
  simp only [failIf_bind, failIf_ok] at h
  obtain ⟨idle, -, budget, form, -⟩ := h
  refine ⟨?_, ?_, ?_⟩
  · simpa using idle
  · simpa using budget
  · simpa using form

theorem Tally.begin_move {t : Tally} {k : Nat} {ws : List W32} (idle : t.busy = none) (setting : k ≤ 3)
    (budget : t.used k < talBudget k) (grade : k = 1 → gradeOk (t.value 1) ws = true)
    (life : k = 3 → t.life < (ws.getD 0 0).toNat ∧ (ws.getD 0 0).toNat ≤ 3) : t.Move (t.begin k ws) := by
  unfold Tally.begin
  split
  · exact .inl (.refl t)
  · exact .inr ⟨k, ws, fun _ => rfl, idle, rfl, setting, budget, grade, life⟩

theorem talGoOp_move (t : Tally) (b : Body) : t.Move (talGoOp t b).1 := by
  unfold talGoOp
  split
  · exact .inl ⟨fun _ => rfl, rfl⟩
  · rename_i check
    obtain ⟨idle, budget, form⟩ := talGoCheck_ok check
    refine Tally.begin_move idle (by omega) budget (fun grade => ?_) (fun life => ?_)
    · rw [grade] at form
      exact form
    · rw [life] at form
      simpa [talFormOk] using form

theorem talWrite_move (off : Nat) (data : W32) (t : Tally) (b : Body) : t.Move (talWrite off data t b).1 := by
  have quiet : ∀ {u : Tally}, t.Quiet u → t.Move u := .inl
  unfold talWrite
  split
  · exact quiet (talSelOp_quiet data t)
  split
  · exact quiet ⟨fun _ => rfl, rfl⟩
  split
  · exact quiet (talStageOp_quiet data t)
  split
  · unfold talCommitWrite
    split
    · exact talGoOp_move t b
    · exact quiet (.refl t)
  split
  · exact quiet ⟨fun _ => rfl, rfl⟩
  split
  · exact quiet ⟨fun _ => rfl, rfl⟩
  · exact quiet (.refl t)

/-- The end of an assay may commit the map that it chose (R450). -/
theorem endAssay_move (s : State) : s.tal.Move (endAssay s).tal := by
  unfold endAssay
  split
  · exact .inl (.refl _)
  split
  · exact .inl (.refl _)
  · rename_i waits
    dsimp only
    split
    · rename_i wants
      simp only [Bool.or_eq_true, decide_eq_true_eq, not_or, Bool.not_eq_true, Option.isSome_eq_false_iff,
        Option.isNone_iff_eq_none] at waits
      simp only [ge_iff_le, Bool.and_eq_true, Bool.not_eq_true', decide_eq_false_iff_not, not_le] at wants
      exact Tally.begin_move waits.2 (Nat.zero_le 3) wants.2 (by simp) (by simp)
    · exact .inl (.refl _)

theorem endAssay_move_of {s t : State} (same : t.tal = s.tal) : s.tal.Move (endAssay t).tal := same ▸ endAssay_move t

theorem dxEnRiseAssay_move (fails : List Failure) (s : State) : s.tal.Move (dxEnRiseAssay fails s).tal := by
  unfold dxEnRiseAssay
  split
  · exact .inl (.refl _)
  split
  · exact .inl (.refl _)
  · rw [startIfWaiting_tal]
    exact endAssay_move_of rfl

theorem dxEnRise_move (s : State) : s.tal.Move (dxEnRise s).tal := by
  unfold dxEnRise
  split
  · rw [startIfWaiting_tal]
    exact .inl (.refl _)
  split
  · exact dxEnRiseAssay_move [] s
  · rw [startIfWaiting_tal]
    exact .inl (.refl _)

theorem talCommitDone_step (s : State) : TallyStep s.tal (talCommitDone s).tal := by
  unfold talCommitDone
  split
  · exact .refl _
  · dsimp only
    split
    · rw [startIfWaiting_tal]
      exact .ends (.inl (.refl _))
    · rw [startIfWaiting_tal]
      split
      · exact .ends (endAssay_move { s with tal := talDone s.tal })
      · exact .ends (.inl (.refl _))

/-! ### Every row and every step -/

theorem wholeOp_tal {c : Instr} (h : wholeRow c = true) (frame : touchesTally c = false) (s : State) :
    (wholeOp c s).tal = s.tal := by
  cases c <;> cases h <;> cases frame
  case regRead.refl.refl => rw [wholeOp_reads rfl rfl rfl s]
  case dump.refl.refl => rw [wholeOp_reads rfl rfl rfl s]
  all_goals rfl

theorem wholeOp_tallyStep {c : Instr} (h : wholeRow c = true) (s : State) : TallyStep s.tal (wholeOp c s).tal := by
  cases hr : writesRegister c with
  | true =>
    obtain ⟨_, e⟩ | ⟨off, data, _, e⟩ := wholeOp_register hr s <;> rw [e]
    · exact .refl _
    · exact .moves (talWrite_move off data s.tal s.b)
  | false =>
    cases frame : touchesTally c with
    | false => exact wholeOp_tal h frame s ▸ .refl _
    | true =>
      cases c <;> cases h <;> cases frame <;> cases hr
      case dxEnRiseStart.refl.refl.refl => exact .moves (dxEnRise_move s)
      case dxEnRiseDuringAssay.refl.refl.refl fails => exact .moves (dxEnRiseAssay_move fails s)
      case talSelWrite.refl.refl.refl data => exact .moves (.inl (talSelOp_quiet data s.tal))
      case talStageDataWrite.refl.refl.refl data => exact .moves (.inl (talStageOp_quiet data s.tal))
      case talGo.refl.refl.refl => exact .moves (talGoOp_move s.tal s.b)
      case tallyCommitDone.refl.refl.refl => exact talCommitDone_step s
      case assayEnd.refl.refl.refl => exact .moves ((startIfWaiting_tal (endAssay s)).symm ▸ endAssay_move s)

/-- Settles O12: a row of the body cannot name the store, and a row of the whole state outside the list leaves it. -/
theorem tallyFrame : Obligations.TallyFrame := by
  unfold Obligations.TallyFrame
  intro c s t h frame
  refine exec_forms (P := fun s t => t.tal = s.tal) h (fun moves => ?_) (fun whole => wholeOp_tal whole frame s)
    (fun _ _ _ => rfl) (fun _ => rfl)
  cases c <;> cases moves <;> cases frame
  rfl

theorem resetState_cut (s : State) : (talCut s.tal).Quiet (resetState s).tal := by
  obtain ⟨-, -, -, idle, recs⟩ := resetState_keeps s
  refine ⟨recs, idle.trans ?_⟩
  unfold talCut
  split
  · exact Eq.symm ‹_›
  · rfl

theorem exec_tallyStep {c : Instr} {s t : State} (h : exec c s = .next t) : TallyStep s.tal t.tal := by
  refine exec_forms (P := fun s t => TallyStep s.tal t.tal) h (fun moves => ?_) (fun whole => wholeOp_tallyStep whole s)
    (fun _ _ _ => .refl _) (fun _ => .refl _)
  cases c <;> cases moves
  case porstNRelease => exact .refl _
  all_goals exact .cut (resetState_cut s)

theorem step_tally {s t : State} (h : step s = .next t) : TallyStep s.tal t.tal := by
  cases hp : s.pending with
  | nil =>
    rw [step_nil hp] at h
    cases h
    exact idle_store s ▸ .refl _
  | cons c rest =>
    rw [step_cons hp] at h
    exact exec_tallyStep (s := { s with pending := rest }) h

/-! ### Records only grow (R380) -/

/-- A record enters the list of its own setting; settings from 3 on have one list. -/
theorem Tally.append_recs (t : Tally) (k j : Nat) (r : TalRec) :
    (t.append k r).recs j = t.recs j ++ if min j 3 = min k 3 then [r] else [] := by
  rcases k with _ | _ | _ | k <;> rcases j with _ | _ | _ | j <;> simp [Tally.append, Tally.recs]

/-- The record that the end of a commit leaves, by whether the commit was completed. -/
theorem Tally.ended_recs {t : Tally} {k : Nat} {ws : List W32} (busy : t.busy = some (k, ws)) (j : Nat) :
    (talDone t).recs j = (t.append k { words := ws, good := true }).recs j
      ∧ (talCut t).recs j = (t.append k { words := ws, good := false }).recs j := by
  simp only [talDone, talCut, busy]
  exact ⟨rfl, rfl⟩

theorem Tally.ended_idle {t : Tally} (busy : t.busy = none) : talDone t = t ∧ talCut t = t := by
  simp [talDone, talCut, busy]

theorem Tally.recs_prefix_ended (t : Tally) (j : Nat) : t.recs j <+: (talDone t).recs j ∧ t.recs j <+: (talCut t).recs j := by
  cases busy : t.busy with
  | none =>
    obtain ⟨done, cut⟩ := Tally.ended_idle busy
    rw [done, cut]
    exact ⟨List.prefix_refl _, List.prefix_refl _⟩
  | some p =>
    obtain ⟨done, cut⟩ := Tally.ended_recs busy j
    rw [done, cut, Tally.append_recs, Tally.append_recs]
    exact ⟨List.prefix_append _ _, List.prefix_append _ _⟩

theorem Tally.Move.recs {t u : Tally} (h : t.Move u) (k : Nat) : u.recs k = t.recs k := by
  obtain h | ⟨_, _, h⟩ := h <;> exact h.recs k

/-- Settles O7: a move leaves the records, and the end of a commit appends one. -/
theorem recordsOnlyAppend : Obligations.RecordsOnlyAppend := by
  unfold Obligations.RecordsOnlyAppend
  intro s t run k _
  obtain ⟨done, cut⟩ := s.tal.recs_prefix_ended k
  cases step_tally run with
  | moves h => rw [h.recs k]
  | ends h => rwa [h.recs k]
  | cut h => rwa [h.recs k]

/-! ### The invariant (R381, R385, R386) -/

theorem commitOk_iff (t : Tally) : commitOk t = true ↔ ∀ k ws, t.busy = some (k, ws) →
    k ≤ 3 ∧ (k = 1 → gradeOk (t.value 1) ws = true)
      ∧ (k = 3 → t.life < (ws.getD 0 0).toNat ∧ (ws.getD 0 0).toNat ≤ 3) := by
  unfold commitOk
  cases busy : t.busy with
  | none => simp
  | some p =>
    obtain ⟨k, ws⟩ := p
    simp only [Option.some.injEq, Prod.mk.injEq, and_imp, Bool.and_eq_true, decide_eq_true_eq,
      Bool.or_eq_true, bne_iff_ne, ne_eq, and_assoc]
    constructor
    · rintro ⟨setting, grade, life⟩ k' ws' rfl rfl
      exact ⟨setting, fun e => grade.resolve_left (absurd e), fun e => life.resolve_left (absurd e)⟩
    · intro h
      obtain ⟨setting, grade, life⟩ := h k ws rfl rfl
      exact ⟨setting, or_iff_not_imp_left.mpr fun e => grade (not_not.mp e),
        or_iff_not_imp_left.mpr fun e => life (not_not.mp e)⟩

theorem tallyOk_iff (t : Tally) : tallyOk t = true ↔ (∀ k, k < 4 → t.used k ≤ talBudget k) ∧ commitOk t = true := by
  simp [tallyOk]

section
variable {t u : Tally}

theorem Tally.value_congr {j : Nat} (h : u.recs j = t.recs j) : u.value j = t.value j := by
  simp only [Tally.value, Tally.latest, h]

theorem Tally.life_congr (h : u.value 3 = t.value 3) : u.life = t.life := by
  simp only [Tally.life, h]

theorem Tally.used_congr {j : Nat} (recs : u.recs j = t.recs j) (busy : u.busy = t.busy) : u.used j = t.used j := by
  simp only [Tally.used, recs, busy]

theorem Tally.Quiet.ok (h : t.Quiet u) (ok : tallyOk t = true) : tallyOk u = true := by
  obtain ⟨used, commit⟩ := (tallyOk_iff t).mp ok
  refine (tallyOk_iff u).mpr ⟨fun k hk => ?_, (commitOk_iff u).mpr fun k ws busy => ?_⟩
  · rw [Tally.used_congr (h.recs k) h.busy]
    exact used k hk
  · have value : ∀ j, u.value j = t.value j := fun j => Tally.value_congr (h.recs j)
    rw [value 1, Tally.life_congr (value 3)]
    exact (commitOk_iff t).mp commit k ws (h.busy ▸ busy)

theorem Tally.Begins.ok {k : Nat} {ws : List W32} (h : t.Begins u k ws) (ok : tallyOk t = true) : tallyOk u = true := by
  obtain ⟨used, -⟩ := (tallyOk_iff t).mp ok
  obtain ⟨recs, idle, busy, setting, budget, grade, life⟩ := h
  refine (tallyOk_iff u).mpr ⟨fun j hj => ?_, (commitOk_iff u).mpr fun k' ws' busy' => ?_⟩
  · have before := Tally.used_of_idle j idle
    rw [Tally.used, recs j, ← before, busy]
    dsimp only
    by_cases same : k = j
    · subst same
      simpa using budget
    · simpa [same] using used j hj
  · cases busy.symm.trans busy'
    have value : ∀ j, u.value j = t.value j := fun j => Tally.value_congr (recs j)
    rw [value 1, Tally.life_congr (value 3)]
    exact ⟨setting, grade, life⟩

theorem Tally.Move.ok (h : t.Move u) (ok : tallyOk t = true) : tallyOk u = true := by
  obtain h | ⟨_, _, h⟩ := h <;> exact h.ok ok

end

/-- The commit in progress counts before its end as its record does after it (R381). -/
theorem Tally.ended_used {t : Tally} (ok : commitOk t = true) {j : Nat} (hj : j < 4) :
    (talDone t).used j = t.used j ∧ (talCut t).used j = t.used j := by
  cases busy : t.busy with
  | none =>
    obtain ⟨done, cut⟩ := Tally.ended_idle busy
    rw [done, cut]
    exact ⟨rfl, rfl⟩
  | some p =>
    obtain ⟨k, ws⟩ := p
    obtain ⟨setting, -⟩ := (commitOk_iff t).mp ok k ws busy
    obtain ⟨done, cut⟩ := Tally.ended_recs busy j
    have idle : (talDone t).busy = none ∧ (talCut t).busy = none := by simp [talDone, talCut, busy]
    rw [Tally.used_of_idle j idle.1, Tally.used_of_idle j idle.2, done, cut, Tally.append_recs, Tally.append_recs]
    have one_list : min j 3 = min k 3 ↔ k = j := by omega
    simp only [Tally.used, busy, List.length_append, one_list, beq_iff_eq]
    split <;> simp

theorem Tally.ended_ok {t : Tally} (ok : tallyOk t = true) : tallyOk (talDone t) = true ∧ tallyOk (talCut t) = true := by
  obtain ⟨used, commit⟩ := (tallyOk_iff t).mp ok
  have idle : (talDone t).busy = none ∧ (talCut t).busy = none := by
    cases busy : t.busy <;> simp [talDone, talCut, busy]
  simp only [tallyOk_iff, commitOk_iff, idle, reduceCtorEq, false_implies, implies_true, and_true]
  refine ⟨fun k hk => ?_, fun k hk => ?_⟩
  · rw [(Tally.ended_used commit hk).1]
    exact used k hk
  · rw [(Tally.ended_used commit hk).2]
    exact used k hk

theorem TallyStep.ok {t u : Tally} (h : TallyStep t u) (ok : tallyOk t = true) : tallyOk u = true := by
  cases h with
  | moves h => exact h.ok ok
  | ends h => exact h.ok (Tally.ended_ok ok).1
  | cut h => exact h.ok (Tally.ended_ok ok).2

/-- Settles O9. -/
theorem storeInvReset : Obligations.StoreInvReset := by
  unfold Obligations.StoreInvReset
  rw [storeInv_iff]
  exact ⟨rfl, rfl⟩

/-- Settles O8: what a step does to the address keeps its half of the invariant, and what it does to the store the other. -/
theorem storeInvStep : Obligations.StoreInvStep := by
  unfold Obligations.StoreInvStep
  intro s t inv run
  rw [storeInv_iff] at inv ⊢
  refine ⟨?_, (step_tally run).ok inv.2⟩
  obtain step | ⟨-, gone⟩ := step_addr run
  · exact step.keepsOk inv.1
  · exact gone ▸ rfl

/-! ### The values committed (R385, R386) -/

theorem gradeOk_refl (ws : List W32) : gradeOk ws ws = true := by
  simp only [gradeOk, List.all_eq_true, beq_iff_eq]
  intro p hp
  rw [List.zip_eq_zipWith, List.zipWith_self, List.mem_map] at hp
  obtain ⟨w, -, rfl⟩ := hp
  exact BitVec.and_self

theorem Tally.value_done {t : Tally} {k : Nat} {ws : List W32} (busy : t.busy = some (k, ws)) : (talDone t).value k = ws := by
  simp [Tally.value, Tally.latest, (Tally.ended_recs busy k).1]

theorem Tally.value_done_other {t : Tally} {j k : Nat} {ws : List W32} (busy : t.busy = some (k, ws)) (hk : k ≤ 3) (hj : j ≤ 3)
    (ne : j ≠ k) : (talDone t).value j = t.value j := by
  refine Tally.value_congr ?_
  rw [(Tally.ended_recs busy j).1, Tally.append_recs, if_neg (by omega), List.append_nil]

theorem Tally.value_cut (t : Tally) (j : Nat) : (talCut t).value j = t.value j := by
  cases busy : t.busy with
  | none => rw [(Tally.ended_idle busy).2]
  | some p =>
    have recs := (Tally.ended_recs busy j).2
    rw [Tally.append_recs] at recs
    split at recs
    · exact Tally.value_of_badRecord recs
    · exact Tally.value_congr (by simpa using recs)

/-- The life-cycle of `u` is not before that of `t`, and its grade mask has no bit that was clear. -/
def Forward (t u : Tally) : Prop := t.life ≤ u.life ∧ gradeOk (t.value 1) (u.value 1) = true

theorem Forward.of_values {t u : Tally} (h : ∀ j, u.value j = t.value j) : Forward t u :=
  ⟨(Tally.life_congr (h 3)).ge, h 1 ▸ gradeOk_refl _⟩

/-- A commit that ends puts a later state, or a mask without new bits, in force. -/
theorem Forward.done {t : Tally} (ok : commitOk t = true) : Forward t (talDone t) := by
  cases busy : t.busy with
  | none => exact Forward.of_values fun j => by rw [(Tally.ended_idle busy).1]
  | some p =>
    obtain ⟨k, ws⟩ := p
    obtain ⟨setting, grade, life⟩ := (commitOk_iff t).mp ok k ws busy
    constructor
    · by_cases hk : k = 3
      · subst hk
        obtain ⟨later, known⟩ := life rfl
        have now : (talDone t).life = (ws.getD 0 0).toNat % 4 := by rw [Tally.life, Tally.value_done busy]
        omega
      · rw [Tally.life_congr (Tally.value_done_other busy setting (le_refl 3) (Ne.symm hk))]
    · by_cases hk : k = 1
      · subst hk
        rw [Tally.value_done busy]
        exact grade rfl
      · rw [Tally.value_done_other busy setting (by decide) (Ne.symm hk)]
        exact gradeOk_refl _

/-- Settles O10: values change with the end of a commit only, and the commit keeps to the forms of R385 and R386. -/
theorem lifeAndGradeForward : Obligations.LifeAndGradeForward := by
  unfold Obligations.LifeAndGradeForward
  intro s t inv run
  have commit : commitOk s.tal = true := ((tallyOk_iff _).mp ((storeInv_iff s).mp inv).2).2
  have moved : ∀ {u : Tally}, (∀ j, t.tal.recs j = u.recs j) → ∀ j, t.tal.value j = u.value j :=
    fun recs j => Tally.value_congr (recs j)
  cases step_tally run with
  | moves h => exact Forward.of_values (moved h.recs)
  | ends h =>
    obtain ⟨life, grade⟩ := Forward.done commit
    have value := moved h.recs
    rw [← Tally.life_congr (value 3)] at life
    rw [← value 1] at grade
    exact ⟨life, grade⟩
  | cut h => exact Forward.of_values fun j => (moved h.recs j).trans (Tally.value_cut _ j)

end Sys2Proof.Machine
end

section
/-! SUPPORT. Values, memory and lines: the account of a step, the sum of a node of the tree, the bytes of memory, and the bytes of a
line (spec/02 R37 to R39, spec/10 R239 and R243, spec/16 R396 to R403). -/

namespace Sys2Proof.Machine

/-! ### The account of a step (R396, R398, R403) -/

/-- Two observation states that differ in what is staged and in the counts of lost records. -/
def StageFrame (o o' : Obs) : Prop := o' = { o with stage := o'.stage, lost := o'.lost, lostRun := o'.lostRun }

theorem StageFrame.refl (o : Obs) : StageFrame o o := rfl

theorem StageFrame.trans {a b c : Obs} (h1 : StageFrame a b) (h2 : StageFrame b c) : StageFrame a c := by
  unfold StageFrame at *
  rw [h2, h1]

theorem obsStage_frame (now : Nat) (h : Hank) (o : Obs) : StageFrame o (obsStage now h o) := by
  unfold obsStage
  split <;> split <;> rfl

/-- A trace record is staged or lost. -/
theorem obsTrace_frame (now unit : Nat) (c : Option Nat) (kind w2 w3 : Nat) (o : Obs) :
    StageFrame o (obsTrace now unit c kind w2 w3 o) := by
  unfold obsTrace
  split
  · exact .refl o
  split
  · exact obsStage_frame _ _ o
  split <;> rfl

theorem waitRecords_frame (now : Nat) (old new : List WaitInst) (o : Obs) : StageFrame o (waitRecords now old new o) := by
  unfold waitRecords
  refine List.foldlRecOn new _ (motive := StageFrame o) (.refl o) fun x hx i _ => hx.trans ?_
  split
  · split
    · exact .refl x
    · exact obsTrace_frame ..
  · exact .refl x

/-- Settles O55: the records of a step are staged or lost, and the watchdogs are all that is written besides. -/
theorem accountsTouchTraceOnly : Obligations.AccountsTouchTraceOnly := by
  unfold Obligations.AccountsTouchTraceOnly
  intro old new
  unfold settle settleObs
  dsimp only
  split
  · rw [waitRecords_frame]
  · rfl

/-! ### The sum of a node (R239, R243) -/

theorem addInput_void (op : Nat) (x : Input) : addInput op x .void = .void := by
  cases x <;> rfl

/-- Settles O49: VOID first, then whether a contribution or an input is missing, then the sum. -/
theorem nodeSums : Obligations.NodeSums := by
  unfold Obligations.NodeSums
  intro g p
  have void_iff : p.inputs.any (fun i => i.2 == .void) = true ↔ ∃ i ∈ p.inputs, i.2 = .void := by simp
  have clean : (∀ i ∈ p.inputs, i.2 ≠ .void) → p.inputs.any (fun i => i.2 == .void) = false := by simp
  refine ⟨fun void => if_pos (void_iff.mpr void), fun ok own kids => ?whole, fun ok missing => ?missing, addInput_void,
    fun _ => rfl⟩
  case whole =>
    have complete : g.kids.all (fun k => (inputOf p k).isSome) = true := List.all_eq_true.mpr kids
    simp [nodeOutput, clean ok, own, complete]
  case missing =>
    have lacks : (p.own == .none || !g.kids.all (fun k => (inputOf p k).isSome)) = true := by
      obtain own | ⟨k, hk, lack⟩ := missing
      · simp [own]
      · rw [Bool.or_eq_true, Bool.not_eq_true', List.all_eq_false]
        exact .inr ⟨k, hk, by simp [lack]⟩
    simp [nodeOutput, clean ok, lacks]

/-! ### Bytes of memory -/

theorem memByte_append (l m : List Host.Cell) (k : Nat) (h : ∀ c ∈ l, c.1 ≠ k) : memByte (l ++ m) k = memByte m k := by
  induction l with
  | nil => rfl
  | cons c l ih =>
    rw [List.cons_append, memByte, if_neg (h c List.mem_cons_self)]
    exact ih fun d hd => h d (List.mem_cons_of_mem c hd)

/-- Nothing is listed of an address: it reads as the default. -/
theorem memByte_unlisted {l : List Host.Cell} {k : Nat} (h : ∀ c ∈ l, c.1 ≠ k) : memByte l k = memDefault k := by
  exact l.append_nil ▸ memByte_append l [] k h

theorem memByte_append_left {l m : List Host.Cell} {k : Nat} (h : ∀ c ∈ m, c.1 ≠ k) : memByte (l ++ m) k = memByte l k := by
  induction l with
  | nil => exact memByte_unlisted h
  | cons c l ih =>
    rw [List.cons_append, memByte, memByte, ih]

theorem memByte_filter {p : Host.Cell → Bool} {k : Nat} (m : List Host.Cell) (h : ∀ c : Host.Cell, c.1 = k → p c = true) :
    memByte (m.filter p) k = memByte m k := by
  induction m with
  | nil => rfl
  | cons c m ih =>
    rw [List.filter_cons]
    split
    · rw [memByte, memByte, ih]
    · rename_i out
      rw [memByte, if_neg (fun e => out (h c e)), ih]

/-- The cells of a run of bytes read as the bytes. -/
theorem memByte_memCells (xs : List Byte) (a i : Nat) (h : i < xs.length) : memByte (memCells a xs) (a + i) = xs[i] := by
  induction xs generalizing a i with
  | nil => simp at h
  | cons x xs ih =>
    have later : ∀ j, memByte (memCells (a + 1) xs) (a + j.succ) = memByte (memCells (a + 1) xs) (a + 1 + j) := fun j => by
      rw [Nat.add_right_comm a 1 j]
      rfl
    cases i with
    | zero =>
      unfold memCells
      split
      · rename_i same
        rw [memByte_unlisted fun c hc => by have := (memCells_range xs (a + 1) c hc).1; omega]
        exact same.symm
      · simp [memByte]
    | succ i =>
      have h' : i < xs.length := by simpa using h
      unfold memCells
      split
      · rw [later]
        exact ih (a + 1) i h'
      · rw [memByte, if_neg (by simp), later]
        exact ih (a + 1) i h'

theorem memByte_memWrite_in (m : List Host.Cell) (a : Nat) (xs : List Byte) (i : Nat) (h : i < xs.length) :
    memByte (memWrite m a xs) (a + i) = xs[i] := by
  unfold memWrite
  rw [memByte_append_left, memByte_append, memByte_memCells xs a i h]
  · intro c hc
    have := (List.mem_filter.mp hc).2
    simp only [decide_eq_true_eq] at this
    omega
  · intro c hc
    have := (List.mem_filter.mp hc).2
    simp only [decide_eq_true_eq] at this
    omega

theorem memByte_memWrite_out (m : List Host.Cell) (a : Nat) (xs : List Byte) (k : Nat) (h : k < a ∨ a + xs.length ≤ k) :
    memByte (memWrite m a xs) k = memByte m k := by
  have cells : ∀ c ∈ memCells a xs, c.1 ≠ k := fun c hc => by
    have := memCells_range xs a c hc
    omega
  unfold memWrite
  obtain below | above := h
  · rw [memByte_append_left, memByte_append_left cells, memByte_filter]
    · intro c hc
      simpa [hc] using below
    · intro c hc
      have := (List.mem_filter.mp hc).2
      simp only [decide_eq_true_eq] at this
      omega
  · rw [memByte_append, memByte_filter]
    · intro c hc
      simpa [hc] using above
    · intro c hc
      obtain hc | hc := List.mem_append.mp hc
      · have := (List.mem_filter.mp hc).2
        simp only [decide_eq_true_eq] at this
        omega
      · exact cells c hc

/-- A walk of a rising list from an address at or below its entries reads the bytes from there. -/
theorem memWalk_eq (n : Nat) (m : List Host.Cell) (a : Nat) (rising : m.Pairwise (fun c d => c.1 < d.1))
    (above : ∀ c ∈ m, a ≤ c.1) : memWalk m a n = (List.range n).map (fun i => memByte m (a + i)) := by
  induction n generalizing m a with
  | zero => rfl
  | succ n ih =>
    rw [List.range_succ_eq_map, List.map_cons, List.map_map]
    cases m with
    | nil =>
      rw [memWalk, ih [] (a + 1) .nil (by simp)]
      simp [memByte, Nat.add_assoc, Nat.add_comm 1]
    | cons c rest =>
      obtain ⟨first, rest_rising⟩ := List.pairwise_cons.mp rising
      rw [memWalk]
      split
      · rename_i at_a
        rw [ih rest (a + 1) rest_rising fun d hd => by have := first d hd; omega]
        simp only [memByte, at_a, Nat.add_zero, if_true, List.cons.injEq, true_and, List.map_inj_left, Function.comp_apply]
        intro i _
        rw [if_neg (by omega)]
        congr 1
        omega
      · rename_i past
        have above_c := above c List.mem_cons_self
        rw [ih (c :: rest) (a + 1) rising fun d hd => ?_]
        · congr 1
          · rw [Nat.add_zero, memByte_unlisted]
            intro d hd
            obtain rfl | hd := List.mem_cons.mp hd
            · exact past
            · have := first d hd
              omega
          · simp [Function.comp_def, Nat.add_assoc, Nat.add_comm 1]
        · obtain rfl | hd := List.mem_cons.mp hd
          · omega
          · have := first d hd
            omega

theorem memByte_dropWhile {a k : Nat} (m : List Host.Cell) (h : a ≤ k) :
    memByte (m.dropWhile (fun c => c.1 < a)) k = memByte m k := by
  induction m with
  | nil => rfl
  | cons c m ih =>
    rw [List.dropWhile_cons]
    split
    · rename_i low
      rw [ih, memByte, if_neg]
      simp only [decide_eq_true_eq] at low
      omega
    · rfl

theorem dropWhile_above (a : Nat) {m : List Host.Cell} (rising : m.Pairwise (fun c d => c.1 < d.1)) :
    ∀ c ∈ m.dropWhile (fun c => c.1 < a), a ≤ c.1 := by
  induction m with
  | nil => simp
  | cons c m ih =>
    obtain ⟨first, rest⟩ := List.pairwise_cons.mp rising
    rw [List.dropWhile_cons]
    split
    · exact ih rest
    · rename_i high
      simp only [decide_eq_true_eq, not_lt] at high
      exact List.forall_mem_cons.mpr ⟨high, fun d hd => high.trans (first d hd).le⟩

/-- A read of canonical memory reads each byte. -/
theorem memRead_eq {m : List Host.Cell} (a n : Nat) (h : Memory.wf m = true) :
    memRead m a n = (List.range n).map (fun i => memByte m (a + i)) := by
  obtain ⟨rising, -⟩ := (Memory.wf_iff m).mp h
  unfold memRead
  have dropped := rising.sublist (List.dropWhile_sublist (p := fun c : Host.Cell => decide (c.1 < a)))
  rw [memWalk_eq n _ a dropped (dropWhile_above a rising)]
  simp only [memByte_dropWhile m (Nat.le_add_right a _)]

/-- Settles O56. -/
theorem memoryReadsBack : Obligations.MemoryReadsBack := by
  unfold Obligations.MemoryReadsBack
  intro m a xs
  exact ⟨memByte_memWrite_in m a xs, memByte_memWrite_out m a xs, fun n h => memRead_eq a n h⟩

end Sys2Proof.Machine
end

section
/-! SUPPORT. Encodings read back: bytes and chunks, hanks, lines with their seal (spec/02 R34 to R39, R53), flits (spec/10 R218,
R219), tandem records (spec/13 R330), and binary32 (spec/02 R51, spec/03 R78, spec/04 R85). -/

namespace Sys2Proof.Machine

/-! ### Bytes, low byte first (R4) -/

@[simp] theorem leBytes_length (n x : Nat) : (leBytes n x).length = n := by
  induction n generalizing x with
  | zero => rfl
  | succ n ih => simp [leBytes, ih]

theorem ofLe_leBytes (n x : Nat) : ofLe (leBytes n x) = x % 256 ^ n := by
  induction n generalizing x with
  | zero => simp [leBytes, ofLe, Nat.mod_one]
  | succ n ih =>
    rw [leBytes, ofLe, ih, BitVec.toNat_ofNat, show 256 ^ (n + 1) = 256 * 256 ^ n from Nat.pow_succ', Nat.mod_mul]

theorem ofLe_lt (bs : List Byte) : ofLe bs < 256 ^ bs.length := by
  induction bs with
  | nil => simp [ofLe]
  | cons b bs ih =>
    have := b.isLt
    rw [ofLe, List.length_cons, Nat.pow_succ']
    omega

theorem ofLe_append (as bs : List Byte) : ofLe (as ++ bs) = ofLe as + 256 ^ as.length * ofLe bs := by
  induction as with
  | nil => simp [ofLe]
  | cons a as ih =>
    rw [List.cons_append, ofLe, ofLe, ih, List.length_cons, Nat.pow_succ']
    ring

/-- The first bytes of a run are its number's remainder, and the others its quotient. -/
theorem ofLe_append_mod (as bs : List Byte) : ofLe (as ++ bs) % 256 ^ as.length = ofLe as := by
  rw [ofLe_append, Nat.add_mul_mod_self_left, Nat.mod_eq_of_lt (ofLe_lt as)]

theorem ofLe_append_div (as bs : List Byte) : ofLe (as ++ bs) / 256 ^ as.length = ofLe bs := by
  rw [ofLe_append, Nat.add_mul_div_left _ _ (by positivity), Nat.div_eq_of_lt (ofLe_lt as), Nat.zero_add]

theorem leBytes_ofLe (as bs : List Byte) : leBytes as.length (ofLe (as ++ bs)) = as := by
  induction as with
  | nil => rfl
  | cons a as ih =>
    have low : BitVec.ofNat 8 (a.toNat + 256 * ofLe (as ++ bs)) = a := by
      refine BitVec.eq_of_toNat_eq ?_
      have := a.isLt
      rw [BitVec.toNat_ofNat]
      omega
    have high : (a.toNat + 256 * ofLe (as ++ bs)) / 256 = ofLe (as ++ bs) := by
      have := a.isLt
      omega
    rw [List.cons_append, ofLe, List.length_cons, leBytes, low, high, ih]

/-- A shift by whole bytes. -/
theorem shiftRight_bytes (x n : Nat) : x >>> (8 * n) = x / 256 ^ n := by
  rw [Nat.shiftRight_eq_div_pow, Nat.pow_mul]

/-! ### Hanks and lines (R34, R37 to R39) -/

@[simp] theorem hBytes_length (h : Hank) : (hBytes h).length = 17 := leBytes_length 17 _

theorem ofLe_hBytes (h : Hank) : ofLe (hBytes h) = h.toNat := by
  rw [hBytes, ofLe_leBytes]
  exact Nat.mod_eq_of_lt h.isLt

@[simp] theorem hOfBytes_hBytes (h : Hank) : hOfBytes (hBytes h) = h := by
  rw [hOfBytes, ofLe_hBytes, BitVec.ofNat_toNat, BitVec.setWidth_eq]

theorem flatMap_hBytes_length (hs : List Hank) : (hs.flatMap hBytes).length = 17 * hs.length := by
  induction hs with
  | nil => rfl
  | cons h hs ih =>
    simp only [List.flatMap_cons, List.length_append, hBytes_length, ih, List.length_cons]
    ring

/-- Hank `k` stands in bytes 17k to 17k + 16. -/
theorem ofLe_hanks (hs : List Hank) (rest : List Byte) (k : Nat) (hk : k < hs.length) :
    ofLe (hs.flatMap hBytes ++ rest) / 256 ^ (17 * k) % 256 ^ 17 = hs[k].toNat := by
  induction hs generalizing k with
  | nil => simp at hk
  | cons h hs ih =>
    have first := ofLe_append_mod (hBytes h) (hs.flatMap hBytes ++ rest)
    have others := ofLe_append_div (hBytes h) (hs.flatMap hBytes ++ rest)
    rw [hBytes_length] at first others
    rw [List.flatMap_cons, List.append_assoc]
    cases k with
    | zero => rw [Nat.mul_zero, Nat.pow_zero, Nat.div_one, first, ofLe_hBytes, List.getElem_cons_zero]
    | succ k =>
      rw [Nat.mul_succ, Nat.add_comm, Nat.pow_add, ← Nat.div_div_eq_div_mul, others, ih k (by simpa using hk),
        List.getElem_cons_succ]

/-- Pieces of one length, set one after the other, are the chunks of that length. -/
theorem chunksF_flatMap {α β : Type} {n : Nat} (hn : 0 < n) (f : α → List β) (hf : ∀ a, (f a).length = n) (l : List α) (k : Nat)
    (hk : l.length ≤ k) : chunksF n k (l.flatMap f) = l.map f := by
  induction l generalizing k with
  | nil => cases k <;> rfl
  | cons a l ih =>
    obtain ⟨k, rfl⟩ : ∃ j, k = j + 1 := ⟨k - 1, by simp at hk; omega⟩
    have whole : (a :: l).flatMap f ≠ [] := by
      intro empty
      have := hf a
      simp only [List.flatMap_cons, List.append_eq_nil_iff] at empty
      rw [empty.1] at this
      simp at this
      omega
    have split : (a :: l).flatMap f = f a ++ l.flatMap f := List.flatMap_cons
    rw [chunksF.eq_3 _ _ _ whole, split, List.take_left' (hf a), List.drop_left' (hf a), ih k (by simpa using hk), List.map_cons]

theorem chunks_flatMap_hBytes (hs : List Hank) : chunks 17 (hs.flatMap hBytes) = hs.map hBytes := by
  refine chunksF_flatMap (by decide) hBytes hBytes_length hs _ ?_
  rw [flatMap_hBytes_length]
  omega

/-- The 15 hanks that a line formed of `hs` carries. -/
def fifteen (hs : List Hank) : List Hank := (hs ++ List.replicate 15 0).take 15

@[simp] theorem fifteen_length (hs : List Hank) : (fifteen hs).length = 15 := by
  simp [fifteen]

theorem fifteen_of_length {hs : List Hank} (h : hs.length = 15) : fifteen hs = hs := List.take_left' h

/-- The 255 bytes that a seal covers. -/
def lineBody (hs : List Hank) : List Byte := (fifteen hs).flatMap hBytes

@[simp] theorem lineBody_length (hs : List Hank) : (lineBody hs).length = 255 := by
  rw [lineBody, flatMap_hBytes_length, fifteen_length]

theorem sealedLine_eq (hs : List Hank) : sealedLine hs = lineBody hs ++ [crc8 (lineBody hs)] := rfl

@[simp] theorem sealedLine_length (hs : List Hank) : (sealedLine hs).length = 256 := by
  simp [sealedLine_eq]

theorem sealedLine_sealOk (hs : List Hank) : sealOk (sealedLine hs) = true := by
  unfold sealOk
  rw [sealedLine_eq, List.take_left' (lineBody_length hs), List.getD_append_right _ _ _ _ (lineBody_length hs).le, lineBody_length]
  simp

theorem lineHanks_sealedLine (hs : List Hank) : lineHanks (sealedLine hs) = fifteen hs := by
  unfold lineHanks
  rw [sealedLine_eq, List.take_left' (lineBody_length hs), lineBody, chunks_flatMap_hBytes, List.map_map]
  simp [Function.comp_def]

/-- A line of 256 bytes written reads back. -/
theorem memLine_memWrite {m : List Host.Cell} (line : Nat) {xs : List Byte} (h : Memory.wf m = true) (whole : xs.length = 256) :
    memLine (memWrite m (256 * line) xs) line = xs := by
  rw [memLine, memRead_eq _ _ (memWrite_wf _ _ h)]
  refine List.ext_getElem (by simp [whole]) fun i _ hi => ?_
  rw [List.getElem_map, List.getElem_range]
  exact memByte_memWrite_in m _ xs i hi

/-- Settles O57. -/
theorem sealedLineReads : Obligations.SealedLineReads := by
  unfold Obligations.SealedLineReads
  intro hs m line
  exact ⟨sealedLine_length hs, sealedLine_sealOk hs, lineHanks_sealedLine hs,
    fun h => memLine_memWrite line h (sealedLine_length hs)⟩

/-! ### Flits (R218, R219) -/

/-- The four hanks that a flit carries. -/
def fourHanks (hs : List Hank) : List Hank := (hs ++ List.replicate 4 0).take 4

theorem fourHanks_of_length {hs : List Hank} (h : hs.length = 4) : fourHanks hs = hs := List.take_left' h

/-- The 76 bytes that a flit's CRC covers. -/
def flitBody (header : Nat) (hs : List Hank) : List Byte := leBytes 8 header ++ (fourHanks hs).flatMap hBytes

theorem flitBody_length (header : Nat) (hs : List Hank) : (flitBody header hs).length = 76 := by
  have four : (fourHanks hs).length = 4 := by simp [fourHanks]
  rw [flitBody, List.length_append, leBytes_length, flatMap_hBytes_length, four]

theorem crc32Step_lt {c : Nat} (b : Byte) (h : c < 2 ^ 32) : crc32Step c b < 2 ^ 32 := by
  unfold crc32Step
  refine List.foldlRecOn (List.range 8) _ (motive := fun c => c < 2 ^ 32) ?_ fun c hc _ _ => ?_
  · exact Nat.xor_lt_two_pow h (b.isLt.trans (by decide))
  · split
    · exact Nat.xor_lt_two_pow (by omega) (by decide)
    · omega

theorem crc32_lt (bs : List Byte) : crc32 bs < 2 ^ 32 := by
  refine Nat.xor_lt_two_pow ?_ (by decide)
  exact List.foldlRecOn bs _ (motive := fun c => c < 2 ^ 32) (by decide) fun c hc b _ => crc32Step_lt b hc

theorem mkFlit_toNat (header : Nat) (hs : List Hank) :
    (mkFlit header hs).toNat = ofLe (flitBody header hs ++ leBytes 4 (crc32 (flitBody header hs))) := by
  have bytes : (flitBody header hs ++ leBytes 4 (crc32 (flitBody header hs))).length = 80 := by
    rw [List.length_append, flitBody_length, leBytes_length]
  have bound : ofLe (flitBody header hs ++ leBytes 4 (crc32 (flitBody header hs))) < 2 ^ 640 := by
    rw [show 640 = 8 * 80 from rfl, Nat.pow_mul, ← bytes]
    exact ofLe_lt _
  unfold mkFlit
  rw [BitVec.toNat_ofNat]
  exact Nat.mod_eq_of_lt bound

theorem flitHdr_mkFlit (header : Nat) (hs : List Hank) : flitHdr (mkFlit header hs) = header % 2 ^ 64 := by
  have := ofLe_append_mod (leBytes 8 header) ((fourHanks hs).flatMap hBytes ++ leBytes 4 (crc32 (flitBody header hs)))
  rw [leBytes_length, ofLe_leBytes] at this
  rw [flitHdr, mkFlit_toNat, flitBody, List.append_assoc]
  exact this

theorem flitCrcOk_mkFlit (header : Nat) (hs : List Hank) : flitCrcOk (mkFlit header hs) = true := by
  have body := leBytes_ofLe (flitBody header hs) (leBytes 4 (crc32 (flitBody header hs)))
  have crc := ofLe_append_div (flitBody header hs) (leBytes 4 (crc32 (flitBody header hs)))
  rw [flitBody_length] at body crc
  rw [flitCrcOk, mkFlit_toNat, body, beq_iff_eq, bits, show 608 = 8 * 76 from rfl, shiftRight_bytes, crc, ofLe_leBytes]
  have := crc32_lt (flitBody header hs)
  omega

theorem flitHanks_mkFlit (header : Nat) {hs : List Hank} (four : hs.length = 4) : flitHanks (mkFlit header hs) = hs := by
  refine List.ext_getElem (by simp [flitHanks, four]) fun k _ hk => BitVec.eq_of_toNat_eq ?_
  have body := fun rest => ofLe_append_div (leBytes 8 header) (hs.flatMap hBytes ++ rest)
  simp only [leBytes_length] at body
  have bytes : 64 + 136 * k = 8 * (8 + 17 * k) := by ring
  simp only [flitHanks, List.getElem_map, List.getElem_range, bytes, shiftRight_bytes, BitVec.toNat_ofNat]
  rw [mkFlit_toNat, Nat.pow_add, ← Nat.div_div_eq_div_mul, flitBody, fourHanks_of_length four, List.append_assoc,
    body, show 2 ^ 136 = 256 ^ 17 from Nat.pow_mul 2 8 17, ofLe_hanks]

/-- Header fields are in place, whatever the values within their widths. -/
theorem flitHeader_fields {dst src vc pos lseq lack hops : Nat} (hd : dst < 2 ^ 17) (hs : src < 2 ^ 17) (hv : vc < 6) (hp : pos < 4)
    (hl : lseq < 1024) (ha : lack < 1024) (hh : hops < 16) :
    let h := flitHeader dst src vc pos lseq lack hops false % 2 ^ 64
    hdrDst h = dst ∧ hdrSrc h = src ∧ hdrVc h = vc ∧ hdrPos h = pos ∧ hdrLseq h = lseq ∧ hdrLack h = lack ∧ hdrHops h = hops := by
  simp only [flitHeader, hdrDst, hdrSrc, hdrVc, hdrPos, hdrLseq, hdrLack, hdrHops, bits, fld, b2n, Nat.shiftLeft_eq,
    Nat.shiftRight_eq_div_pow, Bool.false_eq_true, if_false]
  norm_num
  omega

/-! ### Words of a hank (R53, R58) -/

theorem take_four (ws : List Nat) : (ws ++ [0, 0, 0, 0]).take 4 = [ws.getD 0 0, ws.getD 1 0, ws.getD 2 0, ws.getD 3 0] := by
  match ws with
  | [] | [_] | [_, _] | [_, _, _] => rfl
  | _ :: _ :: _ :: _ :: _ => simp

theorem hPay_mkHank (tag payload : Nat) (h : payload < 2 ^ 128) : hPay (mkHank tag payload) = payload := by
  rw [hPay, mkHank, BitVec.toNat_ofNat]
  omega

theorem hTag_mkHank (tag payload : Nat) : hTag (mkHank tag payload) = tag % 256 := by
  rw [hTag, mkHank, BitVec.toNat_ofNat]
  omega

/-- The words of an I32 hank read back. -/
theorem hW_i32Hank (ws : List Nat) {e : Nat} (he : e < 4) : hW (i32Hank ws) e = ws.getD e 0 % 2 ^ 32 := by
  rw [hW, i32Hank, take_four, hPay_mkHank _ _ (by simp only [List.foldr]; omega)]
  simp only [List.foldr, Nat.shiftRight_eq_div_pow]
  interval_cases e <;> norm_num <;> omega

theorem tandemOf_tandemHanks {t : Tandem} (hq : t.tseq < 2 ^ 32) (hc : t.ctx < 64) (hk : t.code < 256) (ho : t.outcome < 4)
    (hd : t.digest < 2 ^ 64) (hi : t.items < 2 ^ 32) (hs : t.step < 2 ^ 32) : tandemOf (tandemHanks t) = t := by
  have word : fld 5 0 t.ctx + fld 13 6 t.code + fld 15 14 t.outcome = t.ctx + 64 * t.code + 16384 * t.outcome := by
    simp only [fld, Nat.shiftLeft_eq]
    omega
  simp only [tandemOf, tandemHanks, List.getD_cons_zero, List.getD_cons_succ, hW_i32Hank, Nat.reduceLT, word, bits,
    Nat.shiftRight_eq_div_pow]
  obtain ⟨tseq, ctx, code, outcome, digest, items, step⟩ := t
  simp only at hq hc hk ho hd hi hs
  simp only [Tandem.mk.injEq]
  omega

/-- Settles O59. -/
theorem flitsAndRecordsReadBack : Obligations.FlitsAndRecordsReadBack := by
  unfold Obligations.FlitsAndRecordsReadBack
  refine ⟨fun dst src vc pos lseq lack hops hs hd hsrc hv hp hl ha hh four => ?_, fun t hq hc hk ho hd hi hs =>
    tandemOf_tandemHanks hq hc hk ho hd hi hs⟩
  intro f
  have hdr : flitHdr f = flitHeader dst src vc pos lseq lack hops false % 2 ^ 64 := flitHdr_mkFlit _ hs
  obtain ⟨h1, h2, h3, h4, h5, h6, h7⟩ := flitHeader_fields hd hsrc hv hp hl ha hh
  rw [hdr]
  exact ⟨h1, h2, h3, h4, h5, h6, h7, flitHanks_mkFlit _ four, flitCrcOk_mkFlit _ hs⟩

/-! ### Binary32 (R51, R78, R85) -/

theorem shlRne_zero (m : Nat) : shlRne m 0 = m := by
  simp [shlRne]

/-- A magnitude with its leading bit at place 23, or below it at the least exponent, is exact: the rounding leaves it. -/
theorem encMag_exact {m : Nat} {e : Int} (h : max ((flog2 m : Int) + e) (1 - (127 : Nat)) = e + 23) :
    encMag 23 127 m e = (e + 149).toNat * 2 ^ 23 + m := by
  have shift : e - (e + 23 - (23 : Nat)) = 0 := by omega
  have place : (e + 23 - (1 - (127 : Nat)) : Int) = e + 149 := by omega
  simp only [encMag, h, shift, shlRne_zero, place]

theorem flog2_normal {m : Nat} (h : m < 2 ^ 23) : flog2 (2 ^ 23 + m) = 23 := by
  rw [flog2, Nat.log2_eq_iff (by omega)]
  omega

theorem flog2_subnormal {m : Nat} (h : m < 2 ^ 23) : flog2 m ≤ 22 := by
  obtain rfl | pos := Nat.eq_zero_or_pos m
  · decide
  · have := (Nat.log2_lt pos.ne').mpr h
    unfold flog2
    omega

/-- A word is its sign, its exponent and its mantissa. -/
theorem word_fields {x : Nat} (h : x < 2 ^ 32) :
    x = (if x.testBit 31 then 2 ^ 31 else 0) + bits x 30 23 * 2 ^ 23 + bits x 22 0 ∧ bits x 30 23 < 256 ∧ bits x 22 0 < 2 ^ 23 := by
  have sign : (if x.testBit 31 then 2 ^ 31 else 0) = x / 2 ^ 31 % 2 * 2 ^ 31 := by
    rw [Nat.testBit_eq_decide_div_mod_eq]
    split <;> simp_all
  rw [sign]
  simp only [bits, Nat.shiftRight_eq_div_pow]
  omega

theorem toF32_fin_zero (neg : Bool) (e : Int) : toF32 (.fin neg 0 e) = if neg then 2 ^ 31 else 0 := by
  simp [toF32, roundEnc]

theorem toF32_fin_exact {m : Nat} {e : Int} (neg : Bool) (pos : m ≠ 0) (small : (e + 149).toNat * 2 ^ 23 + m ≤ 0x7F800000)
    (h : max ((flog2 m : Int) + e) (1 - (127 : Nat)) = e + 23) :
    toF32 (.fin neg m e) = (if neg then 2 ^ 31 else 0) + ((e + 149).toNat * 2 ^ 23 + m) := by
  simp only [toF32, roundEnc, pos, if_false, encMag_exact h, Nat.min_eq_left small]

theorem toF32_inf (neg : Bool) : toF32 (.inf neg) = (if neg then 2 ^ 31 else 0) + 255 * 2 ^ 23 := by
  cases neg <;> rfl

theorem toF32_subnormal (neg : Bool) {m : Nat} (h : m < 2 ^ 23) :
    toF32 (.fin neg m (-149)) = (if neg then 2 ^ 31 else 0) + m := by
  obtain rfl | pos := Nat.eq_zero_or_pos m
  · exact toF32_fin_zero neg _
  · have low := flog2_subnormal h
    rw [toF32_fin_exact neg pos.ne' (by omega) (by omega)]
    simp

theorem toF32_normal (neg : Bool) {ex m : Nat} (hm : m < 2 ^ 23) (pos : ex ≠ 0) (finite : ex < 255) :
    toF32 (.fin neg (2 ^ 23 + m) ((ex : Int) - 150)) = (if neg then 2 ^ 31 else 0) + ex * 2 ^ 23 + m := by
  have high := flog2_normal hm
  have place : ((ex : Int) - 150 + 149).toNat = ex - 1 := by omega
  rw [toF32_fin_exact neg (by omega) (by omega) (by omega), place]
  omega

/-- Every FP32 word is its value's encoding, but for a NaN, whose encoding is the canonical one. -/
theorem toF32_ofF32 {x : Nat} (h : x < 2 ^ 32) : toF32 (ofF32 x) = canon32 x := by
  obtain ⟨fields, expLt, manLt⟩ := word_fields h
  by_cases top : bits x 30 23 = 255
  · by_cases inf : bits x 22 0 = 0
    · have value : ofF32 x = .inf (x.testBit 31) := by simp [ofF32, top, inf]
      have same : canon32 x = x := by simp [canon32, isNaN32, inf]
      rw [top, inf] at fields
      rw [value, same, toF32_inf]
      exact fields.symm
    · simp [ofF32, canon32, isNaN32, top, inf, toF32, f32NaN]
  · have same : canon32 x = x := by simp [canon32, isNaN32, top]
    rw [same]
    by_cases sub : bits x 30 23 = 0
    · have value : ofF32 x = .fin (x.testBit 31) (bits x 22 0) (-149) := by simp [ofF32, sub]
      rw [sub, Nat.zero_mul, Nat.add_zero] at fields
      rw [value, toF32_subnormal _ manLt]
      exact fields.symm
    · have value : ofF32 x = .fin (x.testBit 31) (2 ^ 23 + bits x 22 0) ((bits x 30 23 : Int) - 150) := by
        simp [ofF32, top, sub]
      rw [value, toF32_normal _ manLt sub (by omega)]
      exact fields.symm

theorem addFin_comm (n1 : Bool) (m1 : Nat) (e1 : Int) (n2 : Bool) (m2 : Nat) (e2 : Int) :
    addFin n1 m1 e1 n2 m2 e2 = addFin n2 m2 e2 n1 m1 e1 := by
  have zeros : (n1 && n2 && m1 == 0 && m2 == 0) = (n2 && n1 && m2 == 0 && m1 == 0) := by
    cases n1 <;> cases n2 <;> simp [Bool.and_comm]
  simp only [addFin, min_comm e1 e2, zeros, Int.add_comm]

theorem addVal_comm (x y : Val) : addVal x y = addVal y x := by
  match x, y with
  | .nan, .nan | .nan, .inf _ | .nan, .fin .. | .inf _, .nan | .fin .., .nan | .inf _, .fin .. | .fin .., .inf _ => rfl
  | .inf a, .inf b => cases a <;> cases b <;> rfl
  | .fin n1 m1 e1, .fin n2 m2 e2 => exact addFin_comm n1 m1 e1 n2 m2 e2

theorem mulVal_comm (x y : Val) : mulVal x y = mulVal y x := by
  match x, y with
  | .nan, .nan | .nan, .inf _ | .nan, .fin .. | .inf _, .nan | .fin .., .nan => rfl
  | .inf a, .inf b | .inf a, .fin b _ _ | .fin b _ _, .inf a => simp only [mulVal, bne_comm]
  | .fin n1 m1 e1, .fin n2 m2 e2 => simp only [mulVal, bne_comm, Nat.mul_comm, Int.add_comm]

/-- Settles O58. -/
theorem binary32Arithmetic : Obligations.Binary32Arithmetic := by
  unfold Obligations.Binary32Arithmetic
  refine ⟨fun x h => toF32_ofF32 h, fun a b => ?_, fun a b => ?_⟩
  · rw [fadd, addVal_comm, fadd]
  · rw [fmul, mulVal_comm, fmul]

end Sys2Proof.Machine
end

section
/-! SUPPORT. Streams: how one runs, what a read or a translation leaves of the block, and translation itself (spec/11 R261 to R265,
R291). -/

namespace Sys2Proof.Machine

/-! ### How a stream runs -/

section
variable {α β : Type}

@[simp] theorem on_pure (a : α) (b : Body) : Io.on (pure a : Io α) b = (.ok a, b) := rfl

@[simp] theorem on_fail (x : Stop) (b : Body) : Io.on (Io.fail x : Io α) b = (.error x, b) := rfl

@[simp] theorem on_hard (code kind addr : Nat) (b : Body) :
    Io.on (Io.hard code kind addr : Io α) b = (.error (.hard code kind addr none []), b) := rfl

@[simp] theorem on_get_bind (f : Body → Io β) (b : Body) : Io.on (Io.get >>= f) b = Io.on (f b) b := rfl

@[simp] theorem on_upd_bind (g : Body → Body) (f : Unit → Io β) (b : Body) :
    Io.on (Io.upd g >>= f) b = Io.on (f ()) (g b) := rfl

@[simp] theorem on_upd (g : Body → Body) (b : Body) : Io.on (Io.upd g) b = (.ok (), g b) := rfl

/-- A stream goes on with the answer of its first part, or stops where that one stops. -/
theorem on_bind (m : Io α) (f : α → Io β) (b : Body) :
    Io.on (m >>= f) b = match Io.on m b with
      | (.ok a, b') => Io.on (f a) b'
      | (.error x, b') => (.error x, b') := by
  unfold Io.on
  simp only [bind, ExceptT.bind, ExceptT.mk, StateT.bind, ExceptT.bindCont]
  generalize m b = r
  obtain ⟨_ | _, _⟩ := r <;> rfl

theorem on_bind_ok {m : Io α} {a : α} {b b' : Body} (f : α → Io β) (h : Io.on m b = (.ok a, b')) :
    Io.on (m >>= f) b = Io.on (f a) b' := by
  rw [on_bind, h]

theorem on_bind_error {m : Io α} {x : Stop} {b b' : Body} (f : α → Io β) (h : Io.on m b = (.error x, b')) :
    Io.on (m >>= f) b = (.error x, b') := by
  rw [on_bind, h]

/-- What a stream that ends well has done: its first part, and the rest from there. -/
theorem on_bind_eq_ok {m : Io α} {f : α → Io β} {b b' : Body} {y : β} (h : Io.on (m >>= f) b = (.ok y, b')) :
    ∃ a b1, Io.on m b = (.ok a, b1) ∧ Io.on (f a) b1 = (.ok y, b') := by
  rw [on_bind] at h
  generalize Io.on m b = r at h ⊢
  obtain ⟨_ | a, b1⟩ := r
  · cases h
  · exact ⟨a, b1, rfl, h⟩

end

/-! ### What a read leaves -/

/-- A property that a read of memory keeps: of no counter, of no presented response, and of no port. -/
structure ReadKept (P : Body → Prop) : Prop where
  count : ∀ b k n c, P b → P (count k n c b)
  bridge : ∀ b l, P b → P { b with xlt := { b.xlt with bridge := l } }
  ports : ∀ b l, P b → P { b with xlt := { b.xlt with ports := l } }

namespace ReadKept

variable {P : Body → Prop} (h : ReadKept P)
include h

theorem portStatus (c : Option Nat) (line : Nat) : Keeps P (portStatus c line) := by
  unfold Machine.portStatus
  refine keeps_bind keeps_get fun b => ?_
  dsimp only
  split
  · exact keeps_pure _
  · refine keeps_bind (keeps_upd fun b => h.bridge b _) fun _ => ?_
    have tail : ∀ (x : Bool) (d : Option (BitVec 2048)),
        Keeps P (if x = true then (do Io.hard Code.memUe 2 line; pure d) else pure d : Io (Option (BitVec 2048))) :=
      fun x d => keeps_ite (keeps_bind (keeps_fail _) fun _ => keeps_pure _) (keeps_pure _)
    exact keeps_ite (keeps_bind (keeps_upd fun b => h.count b _ _ _) fun _ => tail _ _) (tail _ _)

theorem issueRq (c : Option Nat) (op line mask : Nat) (data : List Byte) : Keeps P (issueRq c op line mask data) := by
  refine keeps_bind keeps_get fun b => ?_
  split
  · exact keeps_fail _
  · exact keeps_bind (keeps_upd fun b hb => h.ports _ _ (h.ports b _ hb)) fun _ => keeps_ite (keeps_pure _) (keeps_fail _)

theorem readOnce (c : Option Nat) (line : Nat) : Keeps P (readOnce c line) :=
  keeps_bind (h.issueRq _ _ _ _ _) fun _ => keeps_bind (keeps_upd fun b => h.count b _ _ _) fun _ =>
    keeps_bind (h.portStatus _ _) fun _ => keeps_bind keeps_get fun _ => keeps_pure _

theorem readLine (c : Option Nat) (line : Nat) : Keeps P (readLine c line) := by
  unfold Machine.readLine
  refine keeps_bind (h.readOnce _ _) fun x => keeps_ite (keeps_pure _) (keeps_bind (h.readOnce _ _) fun y => ?_)
  exact keeps_ite (keeps_bind (keeps_upd fun b => h.count b _ _ _) fun _ => keeps_pure _) (keeps_fail _)

theorem tableEntry (c v base i : Nat) : Keeps P (tableEntry c v base i) :=
  keeps_bind keeps_get fun _ => keeps_ite (keeps_fail _) (keeps_ite (keeps_fail _)
    (keeps_bind (walking_keeps (h.readLine _ _)) fun _ => keeps_pure _))

omit h in
theorem finishXlt (c v : Nat) (a : Acc) (e : XltEntry) : Keeps P (finishXlt c v a e) :=
  keeps_bind keeps_get fun _ => keeps_ite (keeps_fail _) (keeps_ite (keeps_fail _)
    (keeps_ite (keeps_fail _) (keeps_pure _)))

/-- A translation caches what it finds besides. -/
theorem translate (cache : ∀ b l, P b → P { b with xlt := { b.xlt with cache := l } }) (c v : Nat) (a : Acc) :
    Keeps P (translate c v a) := by
  unfold Machine.translate
  refine keeps_bind keeps_get fun b => keeps_ite (keeps_fail _) ?_
  split
  · exact finishXlt _ _ _ _
  · refine keeps_bind (h.tableEntry _ _ _ _) fun e => keeps_ite (keeps_fail _) (keeps_ite (keeps_fail _) ?_)
    refine keeps_bind (h.tableEntry _ _ _ _) fun f => keeps_ite (keeps_fail _) (keeps_ite (keeps_fail _) ?_)
    exact keeps_bind (finishXlt _ _ _ _) fun _ => keeps_bind (keeps_upd fun b => cache b _) fun _ => keeps_pure _

end ReadKept

/-- What translation reads of the block, but for its cache: the lay, the windows, and the root and the partition of each context;
and the memory. -/
structure XltFrame (b b' : Body) : Prop where
  mem : b'.mem = b.mem
  lay : b'.lay = b.lay
  parts : b'.parts = b.parts
  root : ∀ c, (b'.ctx c).root = (b.ctx c).root
  rootValid : ∀ c, (b'.ctx c).rootValid = (b.ctx c).rootValid
  part : ∀ c, (b'.ctx c).part = (b.ctx c).part

theorem XltFrame.refl (b : Body) : XltFrame b b := ⟨rfl, rfl, rfl, fun _ => rfl, fun _ => rfl, fun _ => rfl⟩

/-- A change of one element of a list that a field does not show. -/
theorem tget_tmod_field {α β : Type} [Inhabited α] (l : List α) (i : Nat) (f : α → α) (g : α → β) (h : ∀ x, g (f x) = g x) (k : Nat) :
    g (tget (tmod l i f) k) = g (tget l k) := by
  unfold tmod tget
  rw [List.getD_eq_getElem?_getD, List.getD_eq_getElem?_getD, List.getD_eq_getElem?_getD, List.getElem?_set]
  split
  case isFalse => rfl
  case isTrue same =>
    subst same
    split
    case isTrue => exact h _
    case isFalse hl => rw [List.getElem?_eq_none (Nat.le_of_not_lt hl)]

theorem modCtx_field {α : Type} (b : Body) (c : Nat) (f : Ctx → Ctx) (g : Ctx → α) (h : ∀ x, g (f x) = g x) (d : Nat) :
    g ((b.modCtx c f).ctx d) = g (b.ctx d) := tget_tmod_field b.ctxs c f g h d

theorem modPort_field {α : Type} (b : Body) (n : Nat) (f : Port → Port) (g : Port → α) (h : ∀ x, g (f x) = g x) (k : Nat) :
    g ((b.modPort n f).port k) = g (b.port k) := tget_tmod_field b.fab.ports n f g h k

theorem count_ctx {α : Type} (k n : Nat) (c : Option Nat) (b : Body) (g : Ctx → α) (h : ∀ x : Ctx, ∀ now k n, g (x.count now k n) = g x)
    (d : Nat) : g ((count k n c b).ctx d) = g (b.ctx d) := by
  cases c with
  | none => rfl
  | some c =>
    unfold count
    dsimp only
    split
    · exact modCtx_field { b with obs := _ } c _ g (fun x => h x _ _ _) d
    · rfl

theorem readKept_xltFrame (b0 : Body) : ReadKept (XltFrame b0) where
  count b k n c h := by
    have frame := count_frame k n c b
    refine ⟨?_, ?_, ?_, fun d => ?_, fun d => ?_, fun d => ?_⟩
    · rw [count_mem, h.mem]
    · rw [frame, ← h.lay]
    · rw [frame, ← h.parts]
    · rw [count_ctx k n c b Ctx.root (fun _ _ _ _ => rfl), h.root]
    · rw [count_ctx k n c b Ctx.rootValid (fun _ _ _ _ => rfl), h.rootValid]
    · rw [count_ctx k n c b Ctx.part (fun _ _ _ _ => rfl), h.part]
  bridge b l h := ⟨h.mem, h.lay, h.parts, h.root, h.rootValid, h.part⟩
  ports b l h := ⟨h.mem, h.lay, h.parts, h.root, h.rootValid, h.part⟩

theorem readKept_cache (cache : List XltEntry) : ReadKept (fun b => b.xlt.cache = cache) where
  count b k n c h := by rw [count_frame]; exact h
  bridge _ _ h := h
  ports _ _ h := h

section
variable {b b' : Body} (h : XltFrame b b')
include h

theorem XltFrame.lineLimit : lineLimit b' = lineLimit b := by
  simp only [Machine.lineLimit, Body.layEl, h.lay]

theorem XltFrame.window (c page : Nat) :
    inWindow (b'.part (b'.partOf c)) page = inWindow (b.part (b.partOf c)) page := by
  simp only [Body.partOf, Body.part, h.part, h.parts]

end

/-! ### Translation -/

/-- The checks after a level-2 entry (R264, R291). -/
theorem on_finishXlt (c v : Nat) (a : Acc) (e : XltEntry) (b : Body) :
    Io.on (finishXlt c v a e) b =
      (if accAllowed a e.rd e.wr e.acc = false then .error (.hard Code.xltPerm 1 v none [])
       else if lineLimit b ≤ e.ppn * 8192 + v / 15 % 8192 then .error (.hard Code.xltPhys 1 v none [])
       else if inWindow (b.part (b.partOf c)) e.ppn = false then .error (.hard Code.xltPart 1 v none [])
       else .ok (e.ppn * 8192 + v / 15 % 8192), b) := by
  unfold finishXlt
  rw [on_get_bind]
  cases accAllowed a e.rd e.wr e.acc <;> simp only [Bool.not_false, Bool.not_true, if_true, if_false, Bool.false_eq_true, ge_iff_le,
    reduceCtorEq]
  · rfl
  · split
    · rfl
    · cases inWindow (b.part (b.partOf c)) e.ppn <;> rfl

/-- How the checks end in each case, for a translation that ends as they do. -/
theorem finishXlt_ends {c v : Nat} {a : Acc} {e : XltEntry} {b b' t : Body} {r : Except Stop Nat × Body} (frame : XltFrame b b')
    (error : ∀ x, Io.on (finishXlt c v a e) b' = (.error x, b') → r = (.error x, b'))
    (ok : ∀ l, Io.on (finishXlt c v a e) b' = (.ok l, b') → r = (.ok l, t)) :
    let line := e.ppn * 8192 + v / 15 % 8192
    (accAllowed a e.rd e.wr e.acc = false → r = (.error (.hard Code.xltPerm 1 v none []), b'))
    ∧ (accAllowed a e.rd e.wr e.acc = true → lineLimit b ≤ line → r = (.error (.hard Code.xltPhys 1 v none []), b'))
    ∧ (accAllowed a e.rd e.wr e.acc = true → line < lineLimit b → inWindow (b.part (b.partOf c)) e.ppn = false →
      r = (.error (.hard Code.xltPart 1 v none []), b'))
    ∧ (accAllowed a e.rd e.wr e.acc = true → line < lineLimit b → inWindow (b.part (b.partOf c)) e.ppn = true → r = (.ok line, t)) := by
  rw [on_finishXlt, frame.lineLimit, frame.window] at error ok
  refine ⟨fun perm => error _ ?_, fun perm phys => error _ ?_, fun perm phys part => error _ ?_, fun perm phys part => ok _ ?_⟩
  · simp [perm]
  · simp [perm, phys]
  · simp [perm, part, Nat.not_le_of_lt phys]
  · simp [perm, part, Nat.not_le_of_lt phys]

/-- The translation that a level-2 entry gives. -/
def leafEntry (c v e2 : Nat) : XltEntry :=
  { ctx := c, vpn := v / 15 / 8192, ppn := bits e2 19 0, rd := bit e2 25, wr := bit e2 26, acc := bit e2 27 }

/-- A translation behind its level-2 entry. -/
def xltLeaf (c v : Nat) (a : Acc) (e2 : Nat) : Io Nat :=
  if !bit e2 24 then Io.fail (.soft 1 a.code v)
  else if bits e2 23 20 != 0 || bits e2 31 28 != 0 then Io.hard Code.xltEntry 1 v
  else do
    let pl ← finishXlt c v a (leafEntry c v e2)
    Io.upd (fun b => { b with xlt := { b.xlt with cache := cacheAdd b.xlt.cache (leafEntry c v e2) } })
    pure pl

/-- A translation behind its level-1 entry. -/
def xltRoot (c v : Nat) (a : Acc) (e1 : Nat) : Io Nat :=
  if !bit e1 31 then Io.fail (.soft 0 a.code v)
  else if bits e1 30 24 != 0 then Io.hard Code.xltEntry 1 v
  else tableEntry c v (bits e1 23 0 * 512) (v / 15 / 8192 % 2 ^ 14) >>= xltLeaf c v a

section
variable {c v : Nat} {a : Acc} {b b1 : Body}

theorem on_translate_unrooted (h : (b.ctx c).rootValid = false) :
    Io.on (translate c v a) b = (.error (.hard Code.xltEntry 1 v none []), b) := by
  unfold translate
  rw [on_get_bind]
  dsimp only
  rw [h]
  rfl

theorem on_translate_cached {e : XltEntry} (h : (b.ctx c).rootValid = true)
    (find : b.xlt.cache.find? (fun e => e.ctx == c && e.vpn == v / 15 / 8192) = some e) :
    Io.on (translate c v a) b = Io.on (finishXlt c v a e) b := by
  unfold translate
  rw [on_get_bind]
  dsimp only
  rw [h]
  simp only [Bool.not_true, Bool.false_eq_true, if_false, find]

theorem on_translate_walk (h : (b.ctx c).rootValid = true)
    (find : b.xlt.cache.find? (fun e => e.ctx == c && e.vpn == v / 15 / 8192) = none) :
    Io.on (translate c v a) b
      = Io.on (tableEntry c v ((b.ctx c).root.toNat * 512) (v / 15 / 8192 / 2 ^ 14) >>= xltRoot c v a) b := by
  unfold translate
  rw [on_get_bind]
  dsimp only
  rw [h]
  simp only [Bool.not_true, Bool.false_eq_true, if_false, find]
  rfl

theorem on_xltRoot_absent {e1 : Nat} (h : bit e1 31 = false) : Io.on (xltRoot c v a e1) b = (.error (.soft 0 a.code v), b) := by
  unfold xltRoot; rw [h]; rfl

theorem on_xltRoot_reserved {e1 : Nat} (h : bit e1 31 = true) (r : bits e1 30 24 ≠ 0) :
    Io.on (xltRoot c v a e1) b = (.error (.hard Code.xltEntry 1 v none []), b) := by
  unfold xltRoot; simp [h, r]

theorem on_xltRoot_walk {e1 : Nat} (h : bit e1 31 = true) (r : bits e1 30 24 = 0) :
    xltRoot c v a e1 = tableEntry c v (bits e1 23 0 * 512) (v / 15 / 8192 % 2 ^ 14) >>= xltLeaf c v a := by
  unfold xltRoot; simp [h, r]

theorem on_xltLeaf_absent {e2 : Nat} (h : bit e2 24 = false) : Io.on (xltLeaf c v a e2) b = (.error (.soft 1 a.code v), b) := by
  unfold xltLeaf; rw [h]; rfl

theorem on_xltLeaf_reserved {e2 : Nat} (h : bit e2 24 = true) (r : bits e2 23 20 ≠ 0 ∨ bits e2 31 28 ≠ 0) :
    Io.on (xltLeaf c v a e2) b = (.error (.hard Code.xltEntry 1 v none []), b) := by
  unfold xltLeaf
  rw [if_neg (by simp [h]), if_pos (by simpa using r)]
  rfl

/-- A level-2 entry in order: its checks, and what is found is cached. -/
theorem on_xltLeaf {e2 : Nat} (h : bit e2 24 = true) (r : bits e2 23 20 = 0) (r' : bits e2 31 28 = 0) :
    (∀ x, Io.on (finishXlt c v a (leafEntry c v e2)) b = (.error x, b) → Io.on (xltLeaf c v a e2) b = (.error x, b))
    ∧ ∀ l, Io.on (finishXlt c v a (leafEntry c v e2)) b = (.ok l, b) →
      Io.on (xltLeaf c v a e2) b = (.ok l, { b with xlt := { b.xlt with cache := cacheAdd b.xlt.cache (leafEntry c v e2) } }) := by
  unfold xltLeaf
  rw [if_neg (by simp [h]), if_neg (by simp [r, r'])]
  exact ⟨fun x hx => on_bind_error _ hx, fun l hl => on_bind_ok _ hl⟩

/-- A table entry read leaves what translation reads, and the cache. -/
theorem tableEntry_frame (base i : Nat) : XltFrame b (Io.on (tableEntry c v base i) b).2 :=
  (readKept_xltFrame b).tableEntry c v base i b (.refl b)

theorem tableEntry_cache (base i : Nat) : (Io.on (tableEntry c v base i) b).2.xlt.cache = b.xlt.cache :=
  (readKept_cache b.xlt.cache).tableEntry c v base i b rfl

theorem on_tableEntry_outside {base i : Nat} (h : inWindow (b.part (b.partOf c)) ((base + i / 60) / 8192) = false) :
    Io.on (tableEntry c v base i) b = (.error (.hard Code.xltPart 1 v none []), b) := by
  unfold tableEntry
  rw [on_get_bind]
  dsimp only
  rw [h]
  rfl

theorem on_tableEntry_missing {base i : Nat} (h : inWindow (b.part (b.partOf c)) ((base + i / 60) / 8192) = true)
    (limit : lineLimit b ≤ base + i / 60) : Io.on (tableEntry c v base i) b = (.error (.hard Code.xltPhys 1 v none []), b) := by
  unfold tableEntry
  rw [on_get_bind]
  dsimp only
  rw [h]
  simp [limit]

theorem on_tableEntry_read {base i : Nat} (h : inWindow (b.part (b.partOf c)) ((base + i / 60) / 8192) = true)
    (limit : base + i / 60 < lineLimit b) {hs : List Hank} (read : Io.on (readLine (some c) (base + i / 60)) b = (.ok hs, b1)) :
    Io.on (tableEntry c v base i) b = (.ok (hW (hs.getD (i % 60 / 4) 0) (i % 4)), b1) := by
  unfold tableEntry
  rw [on_get_bind]
  dsimp only
  rw [h]
  simp only [Bool.not_true, Bool.false_eq_true, if_false, if_neg (Nat.not_le_of_lt limit)]
  have walking : Io.on (Io.walking (readLine (some c) (base + i / 60))) b = (.ok hs, b1) := by
    unfold Io.on at read ⊢
    unfold Io.walking
    rw [read]
  exact on_bind_ok _ walking

end

theorem cacheAdd_spec (l : List XltEntry) (e : XltEntry) (h : l.length ≤ 4096) :
    e ∈ cacheAdd l e ∧ (cacheAdd l e).length ≤ 4096 ∧ ∀ f ∈ cacheAdd l e, f = e ∨ f ∈ l := by
  unfold cacheAdd
  split
  case isTrue hl => exact ⟨by simp, by simpa using hl, fun f hf => by simpa [or_comm] using hf⟩
  case isFalse hl =>
    refine ⟨by simp, by simp only [List.length_append, List.length_drop, List.length_singleton]; omega, fun f hf => ?_⟩
    obtain hf | hf := List.mem_append.1 hf
    · exact .inr (List.mem_of_mem_drop hf)
    · exact .inl (List.mem_singleton.1 hf)

/-- What was cached where nothing of its page was is found. -/
theorem cacheAdd_find {l : List XltEntry} {e : XltEntry} {p : XltEntry → Bool} (old : l.find? p = none) (new : p e = true) :
    (cacheAdd l e).find? p = some e := by
  have dropped : l.tail.find? p = none := by
    rw [List.find?_eq_none] at old ⊢
    exact fun x hx => old x (List.mem_of_mem_tail hx)
  unfold cacheAdd
  split
  · simp [List.find?_append, old, new]
  · simp [List.find?_append, dropped, new]

theorem translate_frame (c v : Nat) (a : Acc) (b : Body) : XltFrame b (Io.on (translate c v a) b).2 :=
  (readKept_xltFrame b).translate (fun _ _ h => ⟨h.mem, h.lay, h.parts, h.root, h.rootValid, h.part⟩) c v a b (.refl b)

theorem on_finishXlt_snd (c v : Nat) (a : Acc) (e : XltEntry) (b : Body) : (Io.on (finishXlt c v a e) b).2 = b := by
  rw [on_finishXlt]

/-- Behind a translation that is found stands an entry of the cache, whose checks end well. -/
theorem translate_ok_cached {c v line : Nat} {a : Acc} {b b' : Body} (h : Io.on (translate c v a) b = (.ok line, b')) :
    (b.ctx c).rootValid = true
      ∧ ∃ e, b'.xlt.cache.find? (fun e => e.ctx == c && e.vpn == v / 15 / 8192) = some e
        ∧ ∃ b1, Io.on (finishXlt c v a e) b1 = (.ok line, b1) ∧ XltFrame b b1 := by
  cases valid : (b.ctx c).rootValid
  case false => rw [on_translate_unrooted valid] at h; cases h
  case true =>
    cases find : b.xlt.cache.find? (fun e => e.ctx == c && e.vpn == v / 15 / 8192)
    case some e =>
      rw [on_translate_cached valid find] at h
      have stands := on_finishXlt_snd c v a e b
      rw [h] at stands
      dsimp only at stands
      subst stands
      exact ⟨rfl, e, find, b', h, .refl _⟩
    case none =>
      rw [on_translate_walk valid find] at h
      obtain ⟨e1, b1, read1, h⟩ := on_bind_eq_ok h
      unfold xltRoot at h
      split at h
      · cases h
      split at h
      · cases h
      obtain ⟨e2, b2, read2, h⟩ := on_bind_eq_ok h
      unfold xltLeaf at h
      split at h
      · cases h
      split at h
      · cases h
      obtain ⟨l, b3, ends, found⟩ := on_bind_eq_ok h
      have stands := on_finishXlt_snd c v a (leafEntry c v e2) b2
      rw [ends] at stands
      dsimp only at stands
      subst stands
      cases found
      have frame1 := tableEntry_frame (c := c) (v := v) (b := b) ((b.ctx c).root.toNat * 512) (v / 15 / 8192 / 2 ^ 14)
      have frame2 := (readKept_xltFrame b).tableEntry c v (bits e1 23 0 * 512) (v / 15 / 8192 % 2 ^ 14) b1 (by rwa [read1] at frame1)
      have cache1 := tableEntry_cache (c := c) (v := v) (b := b) ((b.ctx c).root.toNat * 512) (v / 15 / 8192 / 2 ^ 14)
      have cache2 := tableEntry_cache (c := c) (v := v) (b := b1) (bits e1 23 0 * 512) (v / 15 / 8192 % 2 ^ 14)
      rw [read1] at cache1
      rw [read2] at cache2 frame2
      refine ⟨rfl, leafEntry c v e2, cacheAdd_find ?_ (by simp [leafEntry]), b3, ends, frame2⟩
      rw [cache2, cache1, find]

/-- A translation that is found is found again, and lies in the memory and in the window. -/
theorem translate_again {c v line : Nat} {a : Acc} {b b' : Body} (h : Io.on (translate c v a) b = (.ok line, b')) :
    Io.on (translate c v a) b' = (.ok line, b') ∧ line < lineLimit b
      ∧ inWindow (b.part (b.partOf c)) (line / 8192) = true ∧ b'.mem = b.mem := by
  have frame' := translate_frame c v a b
  rw [h] at frame'
  obtain ⟨valid, e, find, b1, ends, frame⟩ := translate_ok_cached h
  rw [on_translate_cached ((frame'.rootValid c).trans valid) find]
  rw [on_finishXlt, frame.lineLimit, frame.window] at ends
  rw [on_finishXlt, frame'.lineLimit, frame'.window]
  split at ends
  · cases ends
  split at ends
  · cases ends
  split at ends
  · cases ends
  next perm phys part =>
    obtain rfl : e.ppn * 8192 + v / 15 % 8192 = line := by cases ends; rfl
    have page : (e.ppn * 8192 + v / 15 % 8192) / 8192 = e.ppn := by omega
    rw [if_neg perm, if_neg phys, if_neg part, page]
    exact ⟨rfl, Nat.lt_of_not_le phys, by simpa using part, frame'.mem⟩

/-- Settles O23: the equations of translation, of a table entry and of the last checks, and what is found stands in the cache. -/
theorem translations : Obligations.Translations := by
  intro b c v a vpn line cached ends
  refine ⟨on_translate_unrooted, fun valid => ⟨fun e find => ?_, fun x b1 find read => ?_, fun e1 b1 find read => ?_⟩,
    fun base i => ⟨on_tableEntry_outside, on_tableEntry_missing, fun h limit hs b' => on_tableEntry_read h limit⟩,
    cacheAdd_spec, fun line b' => translate_again⟩
  · have start := on_translate_cached (a := a) valid find
    exact finishXlt_ends (.refl b) (fun x h => start.trans h) (fun l h => start.trans h)
  · rw [on_translate_walk valid find]
    exact on_bind_error _ read
  · have start := (on_translate_walk (a := a) valid find).trans (on_bind_ok _ read)
    have frame1 := tableEntry_frame (c := c) (v := v) (b := b) ((b.ctx c).root.toNat * 512) (vpn / 2 ^ 14)
    rw [read] at frame1
    refine ⟨fun h => start.trans (on_xltRoot_absent h), fun h r => start.trans (on_xltRoot_reserved h r), fun h r => ?_⟩
    rw [on_xltRoot_walk h r] at start
    refine ⟨fun x b2 read2 => start.trans (on_bind_error _ read2), fun e2 b2 read2 => ?_⟩
    have start2 := start.trans (on_bind_ok _ read2)
    have frame2 := (readKept_xltFrame b).tableEntry c v (bits e1 23 0 * 512) (vpn % 2 ^ 14) b1 frame1
    rw [read2] at frame2
    refine ⟨fun h => start2.trans (on_xltLeaf_absent h), fun h r => start2.trans (on_xltLeaf_reserved h r), fun h r r' => ?_⟩
    obtain ⟨error, ok⟩ := on_xltLeaf (c := c) (v := v) (a := a) (b := b2) h r r'
    exact finishXlt_ends frame2 (fun x hx => start2.trans (error x hx)) (fun l hl => start2.trans (ok l hl))

end Sys2Proof.Machine
end

section
/-! SUPPORT. What the streams that store change in memory: the bytes of the lines they name, and no others (spec/02 R41, spec/11 R254
to R256). -/

namespace Sys2Proof.Machine

/-! ### Bytes that stand -/

/-- A byte of memory reads as given. -/
def ByteIs (a : Nat) (x : Byte) (b : Body) : Prop := memByte b.mem a = x

theorem byteIs_mem {a : Nat} {x : Byte} {b b' : Body} (mem : b'.mem = b.mem) (h : ByteIs a x b) : ByteIs a x b' := by
  unfold ByteIs
  rw [mem]
  exact h

theorem readKept_byteIs (a : Nat) (x : Byte) : ReadKept (ByteIs a x) where
  count b k n c := byteIs_mem (count_mem k n c b)
  bridge _ _ := byteIs_mem rfl
  ports _ _ := byteIs_mem rfl

theorem translate_byteIs (a : Nat) (x : Byte) (c v : Nat) (k : Acc) : Keeps (ByteIs a x) (translate c v k) :=
  (readKept_byteIs a x).translate (fun _ _ => byteIs_mem rfl) c v k

/-- A line written whole leaves the bytes of the others. -/
theorem byteIs_memWrite {a line : Nat} {x : Byte} {b : Body} {bs : List Byte} (away : a / 256 ≠ line) (whole : bs.length = 256)
    (h : ByteIs a x b) : ByteIs a x { b with mem := memWrite b.mem (256 * line) bs } :=
  (memByte_memWrite_out b.mem (256 * line) bs a (by omega)).trans h

theorem keeps_mapM_mem {α β : Type} {P : Body → Prop} (f : α → Io β) (l : List α) (h : ∀ a ∈ l, Keeps P (f a)) :
    Keeps P (l.mapM f) := by
  induction l with
  | nil => exact keeps_pure _
  | cons a l ih =>
    rw [List.mapM_cons]
    exact keeps_bind (h a List.mem_cons_self) fun _ => keeps_bind (ih fun b hb => h b (List.mem_cons_of_mem _ hb)) fun _ => keeps_pure _

theorem keeps_foldlM {α β : Type} {P : Body → Prop} (f : β → α → Io β) (l : List α) (h : ∀ x a, Keeps P (f x a)) (x : β) :
    Keeps P (l.foldlM f x) := by
  induction l generalizing x with
  | nil => exact keeps_pure _
  | cons a l ih =>
    rw [List.foldlM_cons]
    exact keeps_bind (h x a) ih

/-- A stream that keeps every byte outside the lines that a block names stores to those only. -/
theorem storesOnly_of_keeps {α : Type} {m : Io α} {lines : Body → List Nat}
    (h : ∀ b a, a / 256 ∉ lines b → ∀ x, ByteIs a x b → ByteIs a x (Io.on m b).2) : storesOnly m lines :=
  fun b a away => h b a away _ rfl

/-- A stream goes on with what changes no memory. -/
theorem storesOnly_bind {α β : Type} {m : Io α} {f : α → Io β} {lines : Body → List Nat} (h : storesOnly m lines)
    (rest : ∀ y a x, Keeps (ByteIs a x) (f y)) : storesOnly (m >>= f) lines := by
  intro b a away
  have first := h b a away
  rw [on_bind]
  generalize Io.on m b = r at first ⊢
  obtain ⟨_ | y, b'⟩ := r
  · exact first
  · exact rest y a _ b' first

/-! ### Lines of a unit of output -/

section
variable {a : Nat} {x : Byte}

theorem writeLine_byteIs {line : Nat} (away : a / 256 ≠ line) (c : Option Nat) (hs : List Hank) :
    Keeps (ByteIs a x) (writeLine c line hs) :=
  keeps_bind ((readKept_byteIs a x).issueRq _ _ _ _ _) fun _ => keeps_bind (keeps_upd fun b => (readKept_byteIs a x).count b _ _ _) fun _ =>
    keeps_bind (keeps_upd fun _ => byteIs_memWrite away (sealedLine_length hs)) fun _ =>
      met_keeps ((readKept_byteIs a x).portStatus _ _)

theorem maskLine_byteIs {line : Nat} (away : a / 256 ≠ line) (c : Option Nat) (items : List (Nat × Hank)) :
    Keeps (ByteIs a x) (maskLine c line items) :=
  keeps_bind ((readKept_byteIs a x).issueRq _ _ _ _ _) fun _ => keeps_bind (keeps_upd fun b => (readKept_byteIs a x).count b _ _ _) fun _ =>
    keeps_bind (keeps_upd fun _ => byteIs_memWrite away (sealedLine_length _)) fun _ =>
      met_keeps ((readKept_byteIs a x).portStatus _ _)

theorem storeGroup_byteIs {p : (Nat × List (Nat × Hank)) × Nat} (away : a / 256 ≠ p.2) (c : Nat) :
    Keeps (ByteIs a x) (storeGroup c p) :=
  keeps_ite (writeLine_byteIs away _ _) (maskLine_byteIs away _ _)

theorem stallFirst_byteIs {gs : List ((Nat × List (Nat × Hank)) × Nat)} (away : ∀ p ∈ gs, a / 256 ≠ p.2) (c : Nat) :
    Keeps (ByteIs a x) (stallFirst c gs) := by
  refine keeps_bind keeps_get fun b => ?_
  split
  · exact keeps_pure _
  next p find => exact keeps_bind (storeGroup_byteIs (away p (List.mem_of_find?_eq_some find)) c) fun _ => keeps_pure _

theorem storeLines_byteIs (c : Nat) (items : List (Nat × Hank)) : Keeps (ByteIs a x) (storeLines c items) :=
  keeps_mapM _ _ fun _ => translate_byteIs _ _ _ _ _

end

/-- A unit of output behind its translation. -/
def storeUnit (c : Nat) (oid : Option Nat) (items : List (Nat × Hank)) (pls : List Nat) : Io Unit := do
  stallFirst c ((storeGroups items).zip pls)
  let met ← ((storeGroups items).zip pls).mapM (storeGroup c)
  Io.upd (addItems oid (items.map (fun p => (v44 p.1, p.2))))
  match met.findSome? id with
  | some x => Io.fail x
  | none => pure ()

theorem writeHanks_eq (c : Nat) (oid : Option Nat) (items : List (Nat × Hank)) :
    writeHanks c oid items = storeLines c items >>= storeUnit c oid items := rfl

theorem storeUnit_byteIs {a : Nat} {x : Byte} {pls : List Nat} (away : a / 256 ∉ pls) (c : Nat) (oid : Option Nat)
    (items : List (Nat × Hank)) : Keeps (ByteIs a x) (storeUnit c oid items pls) := by
  have apart : ∀ p ∈ (storeGroups items).zip pls, a / 256 ≠ p.2 := fun p hp same => away (same ▸ (List.of_mem_zip hp).2)
  refine keeps_bind (stallFirst_byteIs apart c) fun _ => keeps_bind (keeps_mapM_mem _ _ fun p hp => storeGroup_byteIs (apart p hp) c) fun met =>
    keeps_bind (keeps_upd fun b => byteIs_mem (addItems_mem _ _ b)) fun _ => ?_
  split
  · exact keeps_fail _
  · exact keeps_pure _

theorem writeHanks_storesOnly (c : Nat) (oid : Option Nat) (items : List (Nat × Hank)) :
    storesOnly (writeHanks c oid items) (linesOf c items) := by
  refine storesOnly_of_keeps fun b a away x h => ?_
  have reads := storeLines_byteIs (a := a) (x := x) c items b h
  unfold linesOf at away
  rw [writeHanks_eq, on_bind]
  generalize Io.on (storeLines c items) b = r at away reads ⊢
  obtain ⟨_ | pls, b'⟩ := r
  · exact reads
  · exact storeUnit_byteIs away c oid items b' reads

/-! ### A unit of one line -/

theorem readKept_mem (m : List Host.Cell) : ReadKept (fun b => b.mem = m) where
  count b k n c h := (count_mem k n c b).trans h
  bridge _ _ h := h
  ports _ _ h := h

theorem on_issueRq_ready {c : Option Nat} {line : Nat} {b : Body} (h : canIssue b c line = true) (op mask : Nat) (data : List Byte) :
    ∃ b', Io.on (issueRq c op line mask data) b = (.ok (), b') ∧ b'.mem = b.mem := by
  obtain ⟨some_, ready⟩ := Bool.and_eq_true_iff.1 h
  obtain ⟨i, hi⟩ := Option.isSome_iff_exists.1 some_
  refine ⟨(holdRq (!portReady b line) line ∘ presentRq op line i mask data) b, ?_, rfl⟩
  unfold issueRq
  rw [on_get_bind, hi]
  dsimp only
  rw [on_upd_bind, if_pos ready, on_pure]

theorem on_issueRq_stalls {c : Option Nat} {line : Nat} {b : Body} (h : canIssue b c line = false) (op mask : Nat) (data : List Byte) :
    ∃ b', Io.on (issueRq c op line mask data) b = (.error (.wait (waitOn op)), b') := by
  unfold issueRq
  rw [on_get_bind]
  cases hi : requestId b c line with
  | none => exact ⟨b, rfl⟩
  | some i =>
    have busy : portReady b line ≠ true := by simpa [canIssue, hi] using h
    dsimp only
    rw [on_upd_bind, if_neg busy]
    exact ⟨_, rfl⟩

/-- What a line formed for writing takes the place of: the whole line, or some of its slots. -/
def storedMem (m : List Host.Cell) (line : Nat) (slots : List (Nat × Hank)) : List Host.Cell :=
  if slots.length = 15 then memWrite m (256 * line) (sealedLine (mergeSlots (List.replicate 15 0) slots)) else maskMem m line slots

theorem met_ok {α : Type} (m : Io α) (b : Body) : ∃ met, Io.on (Io.met m) b = (.ok met, (Io.on m b).2) := by
  unfold Io.met Io.on
  dsimp only
  generalize m b = r
  obtain ⟨_ | _, _⟩ := r
  · exact ⟨_, rfl⟩
  · exact ⟨_, rfl⟩

theorem on_storeGroup_ready {c : Nat} {p : (Nat × List (Nat × Hank)) × Nat} {b : Body} (h : canIssue b (some c) p.2 = true) :
    ∃ met b', Io.on (storeGroup c p) b = (.ok met, b') ∧ b'.mem = storedMem b.mem p.2 p.1.2 := by
  unfold storeGroup storedMem
  split
  case isTrue whole =>
    obtain ⟨b1, issued, mem1⟩ := on_issueRq_ready h 1 0 (sealedLine (mergeSlots (List.replicate 15 0) p.1.2))
    unfold writeLine
    rw [on_bind_ok _ issued, on_upd_bind, on_upd_bind, if_pos (by simpa using whole)]
    obtain ⟨met, hm⟩ := met_ok (portStatus (some c) p.2) { count Cnt.linesWr 1 (some c) b1 with
      mem := memWrite (count Cnt.linesWr 1 (some c) b1).mem (256 * p.2) (sealedLine (mergeSlots (List.replicate 15 0) p.1.2)) }
    refine ⟨met, _, hm, ((readKept_mem _).portStatus _ _ _ rfl).trans ?_⟩
    rw [count_mem, mem1]
  case isFalse part =>
    obtain ⟨b1, issued, mem1⟩ := on_issueRq_ready h 2 (slotMask p.1.2) (sealedLine (mergeSlots (List.replicate 15 0) p.1.2))
    unfold maskLine
    rw [on_bind_ok _ issued, on_upd_bind, on_upd_bind, if_neg (by simpa using part)]
    obtain ⟨met, hm⟩ := met_ok (portStatus (some c) p.2) { count Cnt.linesWr 1 (some c) b1 with
      mem := maskMem (count Cnt.linesWr 1 (some c) b1).mem p.2 p.1.2 }
    refine ⟨met, _, hm, ((readKept_mem _).portStatus _ _ _ rfl).trans ?_⟩
    rw [count_mem, mem1]

theorem on_storeGroup_stalls {c : Nat} {p : (Nat × List (Nat × Hank)) × Nat} {b : Body} (h : canIssue b (some c) p.2 = false) :
    ∃ x b', Io.on (storeGroup c p) b = (.error x, b') := by
  unfold storeGroup
  split
  · obtain ⟨b1, stalled⟩ := on_issueRq_stalls h 1 0 (sealedLine (mergeSlots (List.replicate 15 0) p.1.2))
    exact ⟨_, b1, on_bind_error _ stalled⟩
  · obtain ⟨b1, stalled⟩ := on_issueRq_stalls h 2 (slotMask p.1.2) (sealedLine (mergeSlots (List.replicate 15 0) p.1.2))
    exact ⟨_, b1, on_bind_error _ stalled⟩

theorem on_stallFirst_one {c : Nat} {p : (Nat × List (Nat × Hank)) × Nat} {b b' : Body}
    (h : Io.on (stallFirst c [p]) b = (.ok (), b')) : canIssue b (some c) p.2 = true ∧ b' = b := by
  unfold stallFirst at h
  rw [on_get_bind] at h
  cases ready : canIssue b (some c) p.2 with
  | true =>
    simp only [List.find?_cons, ready, Bool.not_true, List.find?_nil] at h
    exact ⟨rfl, by cases h; rfl⟩
  | false =>
    obtain ⟨x, b1, stalled⟩ := on_storeGroup_stalls ready
    simp only [List.find?_cons, ready, Bool.not_false] at h
    rw [on_bind_error _ stalled] at h
    cases h

/-- A unit of output of one line that is written leaves that line, whole or in part. -/
theorem on_writeHanks_line {c : Nat} {oid : Option Nat} {items slots : List (Nat × Hank)} {b b' : Body} {v line : Nat}
    (one : storeGroups items = [(v, slots)]) (at_ : (Io.on (storeLines c items) b).1 = .ok [line])
    (h : Io.on (writeHanks c oid items) b = (.ok (), b')) : b'.mem = storedMem b.mem line slots := by
  rw [writeHanks_eq] at h
  obtain ⟨pls, b1, found, h⟩ := on_bind_eq_ok h
  have mem1 : b1.mem = b.mem := by
    have reads : Keeps (fun b' => b'.mem = b.mem) (storeLines c items) :=
      keeps_mapM _ _ fun _ => (readKept_mem b.mem).translate (fun _ _ h => h) _ _ _
    have := reads b rfl
    rwa [found] at this
  rw [found] at at_
  obtain rfl : pls = [line] := by cases at_; rfl
  unfold storeUnit at h
  rw [one] at h
  obtain ⟨_, b2, first, rest⟩ := on_bind_eq_ok h
  obtain ⟨ready, rfl⟩ := on_stallFirst_one first
  obtain ⟨met, b3, stored, mem3⟩ := on_storeGroup_ready ready
  have all : Io.on (([((v, slots), line)] : List _).mapM (storeGroup c)) b2 = (.ok [met], b3) := by
    rw [List.mapM_cons, on_bind_ok _ stored]
    rfl
  rw [List.zip_cons_cons, List.zip_nil_left, on_bind_ok _ all, on_upd_bind] at rest
  rw [← mem1, ← mem3]
  split at rest
  · cases rest
  · cases rest
    exact addItems_mem _ _ _

/-! ### Accumulations -/

/-- An accumulation goes to the line of its translation where that finds an identifier and a ready port, and stores nothing
otherwise. -/
theorem on_raccLine (p : Piece) (items : List (Nat × Hank)) (b : Body) :
    (raccLines p items b = [] ∧ (Io.on (raccLine p items) b).2.mem = b.mem)
    ∨ ∃ line, raccLines p items b = [line]
      ∧ (Io.on (raccLine p items) b).2.mem = raccMem b.mem line (items.map (fun q => (q.1 % 15, q.2))) := by
  have reads := (readKept_mem b.mem).translate (fun _ _ h => h) p.ctx (items.headD (0, 0)).1 .acc b rfl
  unfold raccLines raccLine
  rw [on_bind]
  generalize Io.on (translate p.ctx (items.headD (0, 0)).1 .acc) b = r at reads ⊢
  obtain ⟨_ | line, b1⟩ := r
  · exact .inl ⟨rfl, reads⟩
  dsimp only at reads ⊢
  rw [on_get_bind]
  cases freeId b1 (b1.partOf p.ctx) line with
  | none => exact .inl ⟨rfl, reads⟩
  | some i =>
    cases portReady b1 line with
    | false => exact .inl ⟨rfl, reads⟩
    | true =>
      refine .inr ⟨line, rfl, ?_⟩
      dsimp only
      rw [on_upd_bind]
      simp only [Bool.not_true, Bool.false_eq_true, if_false]
      rw [on_upd_bind, on_upd_bind, on_upd_bind, on_pure]
      dsimp only
      rw [addItems_mem, count_mem]
      exact congrArg (raccMem · line _) reads

theorem raccLine_storesOnly (p : Piece) (items : List (Nat × Hank)) : storesOnly (raccLine p items) (raccLines p items) := by
  intro b a away
  obtain ⟨-, mem⟩ | ⟨line, lines, mem⟩ := on_raccLine p items b
  · rw [mem]
  · rw [mem]
    exact byteIs_memWrite (b := b) (by simpa [lines] using away) (sealedLine_length _) rfl

/-! ### The hanks of a line that some slots take -/

theorem chunksF_length {α : Type} {n : Nat} (hn : 0 < n) (q : Nat) (l : List α) (hl : l.length = q * n) (k : Nat) (hk : q ≤ k) :
    (chunksF n k l).length = q := by
  induction q generalizing l k with
  | zero =>
    obtain rfl : l = [] := List.eq_nil_of_length_eq_zero (by omega)
    cases k <;> rfl
  | succ q ih =>
    obtain ⟨k, rfl⟩ : ∃ j, k = j + 1 := ⟨k - 1, by omega⟩
    have whole : l ≠ [] := by rintro rfl; simp at hl; omega
    rw [chunksF.eq_3 _ _ _ whole, List.length_cons, ih (l.drop n) (by rw [List.length_drop, hl, Nat.succ_mul]; omega) k (by omega)]

theorem lineHanks_length {bs : List Byte} (h : 255 ≤ bs.length) : (lineHanks bs).length = 15 := by
  have : (bs.take 255).length = 15 * 17 := by simp [h]
  rw [lineHanks, List.length_map, chunks]
  exact chunksF_length (by decide) 15 _ this _ (by omega)

theorem memLine_length {m : List Host.Cell} (line : Nat) (h : Memory.wf m = true) : (memLine m line).length = 256 := by
  simp [memLine, memRead_eq _ _ h]

@[simp] theorem mergeSlots_one (old : List Hank) (k : Nat) (h : Hank) : mergeSlots old [(k, h)] = old.set k h := rfl

/-- A line written from 15 hanks reads as those. -/
theorem lineHanks_memWrite {m : List Host.Cell} (line : Nat) {hs : List Hank} (h : Memory.wf m = true) (fit : hs.length = 15) :
    lineHanks (memLine (memWrite m (256 * line) (sealedLine hs)) line) = hs := by
  rw [memLine_memWrite line h (sealedLine_length hs), lineHanks_sealedLine, fifteen_of_length fit]

theorem toF32_lt (v : Val) : toF32 v < 2 ^ 32 := by
  cases v with
  | nan => decide
  | inf neg => cases neg <;> decide
  | fin neg m e =>
    have top := Nat.min_le_right (encMag 23 127 m e) 0x7F800000
    simp only [toF32, roundEnc]
    split <;> split <;> omega

theorem hW_raccHank (old new : Hank) {e : Nat} (h : e < 4) : hW (raccHank old new) e = fadd (hW old e) (hW new e) := by
  rw [raccHank, hW_i32Hank _ h, List.getD_eq_getElem _ _ (by simpa using h), List.getElem_map, List.getElem_range]
  exact Nat.mod_eq_of_lt (toF32_lt _)

theorem hTag_raccHank (old new : Hank) : hTag (raccHank old new) = 0x7F := by
  rw [raccHank, i32Hank, hTag_mkHank]
  rfl

/-- One slot of a line: what an accumulation and a masked write leave in its hanks. -/
theorem slot_stored {m : List Host.Cell} (line k : Nat) (h : Hank) (wf : Memory.wf m = true) :
    let was := lineHanks (memLine m line)
    lineHanks (memLine (raccMem m line [(k, h)]) line) = was.set k (raccHank (was.getD k 0) h)
      ∧ lineHanks (memLine (maskMem m line [(k, h)]) line) = was.set k h := by
  have fit : (lineHanks (memLine m line)).length = 15 := lineHanks_length (by rw [memLine_length line wf]; decide)
  exact ⟨lineHanks_memWrite line wf (by simp [fit]), lineHanks_memWrite line wf (by simp [fit])⟩

/-! ### The streams made of such units -/

@[simp] theorem frontLine_nil : frontLine [] = [] := rfl

theorem linesOf_nil (c : Nat) (b : Body) : linesOf c [] b = [] := rfl

/-- A stream that first looks at the block. -/
theorem storesOnly_get {α : Type} {f : Body → Io α} {lines : Body → List Nat}
    (h : ∀ b0, ∃ l : Body → List Nat, storesOnly (f b0) l ∧ l b0 = lines b0) : storesOnly (Io.get >>= f) lines := by
  intro b a away
  obtain ⟨l, stores, same⟩ := h b
  rw [on_get_bind]
  exact stores b a (same ▸ away)

theorem storesOnly_quiet {α : Type} {m : Io α} (h : ∀ a x, Keeps (ByteIs a x) m) (lines : Body → List Nat) : storesOnly m lines :=
  fun b a _ => h a _ b rfl

theorem upd_byteIs {f : Body → Body} (mem : ∀ b, (f b).mem = b.mem) (a : Nat) (x : Byte) : Keeps (ByteIs a x) (Io.upd f) :=
  keeps_upd fun b => byteIs_mem (mem b)

@[simp] theorem modRoute_mem (oid : Nat) (f : RouteWork → RouteWork) (b : Body) : (modRoute oid f b).mem = b.mem := rfl
@[simp] theorem modCombine_mem (oid : Nat) (f : CombineWork → CombineWork) (b : Body) : (modCombine oid f b).mem = b.mem := rfl
@[simp] theorem modCopy_mem (oid : Nat) (f : CopyWork → CopyWork) (b : Body) : (modCopy oid f b).mem = b.mem := rfl

theorem writeOut_storesOnly (c oid unit : Nat) : storesOnly (writeOut c oid unit 1) (fun b =>
    linesOf c (frontLine (((routeOf b oid).map RouteWork.outQ).getD [])) b) := by
  refine storesOnly_get fun b0 => ?_
  cases queue : (routeOf b0 oid).map RouteWork.outQ with
  | none => exact ⟨_, storesOnly_quiet (fun _ _ => keeps_pure _) _, rfl⟩
  | some q =>
    cases q with
    | nil => exact ⟨_, storesOnly_quiet (fun _ _ => keeps_pure _) _, rfl⟩
    | cons p q =>
      refine ⟨_, storesOnly_bind (writeHanks_storesOnly c (some oid) (frontLine (p :: q))) fun _ a x => ?_, rfl⟩
      exact keeps_bind (upd_byteIs (fun _ => rfl) a x) fun _ => keeps_pure _

theorem writeHome_storesOnly (c uid oid : Nat) : storesOnly (writeHome c uid oid 1) (fun b =>
    linesOf c (frontLine (((b.gen uid).map (fun g => g.home.outQ)).getD [])) b) := by
  refine storesOnly_get fun b0 => ?_
  cases queue : (b0.gen uid).map (fun g => g.home.outQ) with
  | none => exact ⟨_, storesOnly_quiet (fun _ _ => keeps_pure _) _, rfl⟩
  | some q =>
    cases q with
    | nil => exact ⟨_, storesOnly_quiet (fun _ _ => keeps_pure _) _, rfl⟩
    | cons p q =>
      refine ⟨_, storesOnly_bind (writeHanks_storesOnly c (some oid) (frontLine (p :: q))) fun _ a x => ?_, rfl⟩
      exact keeps_bind (upd_byteIs (fun _ => rfl) a x) fun _ => keeps_pure _

theorem combineRow_storesOnly (c oid t : Nat) (w : List Nat) (terms : List (List Nat)) :
    storesOnly (combineRow c oid t w terms) (fun b => if terms = [] ∧ cmbEmptyKeep w = true then []
      else linesOf c (itemsAt (cmbDst w + t * cmbDstRow w)
        (encodeRow ((fmtOfCode (cmbDstFmt w)).getD .fp32) (foldTerms (cmbHidden w) terms)).1) b) := by
  unfold combineRow
  have same : (terms.isEmpty && cmbEmptyKeep w) = true ↔ terms = [] ∧ cmbEmptyKeep w = true := by simp
  by_cases keep : terms = [] ∧ cmbEmptyKeep w = true
  · dsimp only
    rw [if_pos (same.2 keep)]
    exact storesOnly_quiet (upd_byteIs fun _ => rfl) _
  · simp only [if_neg keep, if_neg (mt same.1 keep)]
    refine storesOnly_bind (writeHanks_storesOnly c (some oid) _) fun _ => upd_byteIs fun b => ?_
    simp [count_mem]

theorem writeSave_storesOnly (c : Nat) (lines : Body → List Nat)
    (h : ∀ b w, (b.ctx c).save = some w →
      lines b = linesOf c (frontLine (itemsAt (saveBase (b.ctx c) + (w.total - w.items.length)) w.items)) b) :
    storesOnly (writeSave c 1) lines := by
  refine storesOnly_get fun b0 => ?_
  cases save : (b0.ctx c).save with
  | none => exact ⟨_, storesOnly_quiet (fun _ _ => keeps_pure _) _, rfl⟩
  | some w =>
    dsimp only
    split
    · exact ⟨_, storesOnly_quiet (fun _ _ => keeps_pure _) _, rfl⟩
    · refine ⟨_, storesOnly_bind (writeHanks_storesOnly c none _) fun _ a x => ?_, (h b0 w save).symm⟩
      exact keeps_bind (upd_byteIs (fun _ => rfl) a x) fun _ => keeps_pure _

theorem endPiece_mem (p : Piece) (void : Bool) (b : Body) : (endPiece p void b).mem = b.mem := by
  unfold endPiece
  cases void <;> cases p.orphan <;> rfl

theorem writePiece_storesOnly (oid pos : Nat) (lines : Body → List Nat)
    (h : ∀ b p, b.piece oid pos = some p → lines b = linesOf p.ctx (frontLine p.toWrite) b) :
    storesOnly (writePiece oid pos 1) lines := by
  refine storesOnly_get fun b0 => ?_
  cases piece : b0.piece oid pos with
  | none => exact ⟨_, storesOnly_quiet (fun _ _ => keeps_pure _) _, rfl⟩
  | some p =>
    dsimp only
    split
    · exact ⟨_, storesOnly_quiet (upd_byteIs (endPiece_mem p false)) _, rfl⟩
    · refine ⟨_, storesOnly_bind (writeHanks_storesOnly p.ctx (some oid) _) fun _ a x => ?_, (h b0 p piece).symm⟩
      exact keeps_bind (upd_byteIs (fun _ => rfl) a x) fun _ => keeps_pure _

theorem raccPiece_storesOnly (oid pos : Nat) (lines : Body → List Nat)
    (h : ∀ b p, b.piece oid pos = some p → lines b = raccLines p (frontLine p.toWrite) b) :
    storesOnly (raccPiece oid pos 1) lines := by
  refine storesOnly_get fun b0 => ?_
  cases piece : b0.piece oid pos with
  | none => exact ⟨_, storesOnly_quiet (fun _ _ => keeps_pure _) _, rfl⟩
  | some p =>
    dsimp only
    split
    · exact ⟨_, storesOnly_quiet (fun a x => keeps_ite (keeps_pure _) (upd_byteIs (endPiece_mem p false) a x)) _, rfl⟩
    · refine ⟨_, storesOnly_bind (raccLine_storesOnly p _) fun _ a x => ?_, (h b0 p piece).symm⟩
      exact keeps_ite (keeps_bind (upd_byteIs (fun _ => rfl) a x) fun _ => keeps_pure _) (keeps_pure _)

/-! ### The reads of a copy -/

section
variable {a : Nat} {x : Byte}

theorem readHanks_byteIs (c : Nat) (vs : List Nat) : Keeps (ByteIs a x) (readHanks c vs) :=
  keeps_bind (keeps_mapM _ _ fun _ => keeps_bind (translate_byteIs _ _ _ _ _) fun _ =>
    keeps_bind ((readKept_byteIs a x).readLine _ _) fun _ => keeps_pure _) fun _ => keeps_pure _

theorem readRun_byteIs (c base n : Nat) : Keeps (ByteIs a x) (readRun c base n) := readHanks_byteIs _ _

theorem indexAt_byteIs (c : Nat) (l : Layout) (j : Nat) : Keeps (ByteIs a x) (indexAt c l j) :=
  keeps_bind (readRun_byteIs _ _ _) fun _ => keeps_pure _

theorem sourceGroup_byteIs (c : Nat) (f : Fmt) (v : Nat) : Keeps (ByteIs a x) (sourceGroup c f v) :=
  keeps_bind (readRun_byteIs _ _ _) fun _ => keeps_ite (keeps_pure _) (keeps_ite (keeps_fail _) (keeps_pure _))

theorem sourceEl_byteIs (c : Nat) (l : Layout) (i : List Nat) (cache : GroupCache) : Keeps (ByteIs a x) (sourceEl c l i cache) := by
  unfold sourceEl
  dsimp only
  split
  · exact keeps_pure _
  · exact keeps_bind (sourceGroup_byteIs _ _ _) fun _ => keeps_pure _

theorem destEl_byteIs (c : Nat) (w : CopyWork) (i srcs : List Nat) (old : Option Nat) (cache : GroupCache) :
    Keeps (ByteIs a x) (destEl c w i srcs old cache) := by
  cases old with
  | none => exact sourceEl_byteIs _ _ _ _
  | some o => exact keeps_foldlM _ _ (fun _ _ => keeps_bind (sourceEl_byteIs _ _ _ _) fun _ => keeps_pure _) _

theorem convertGroup_byteIs (c : Nat) (w : CopyWork) (g : Nat) (row srcs : List Nat) :
    Keeps (ByteIs a x) (convertGroup c w g row srcs) := by
  unfold convertGroup
  dsimp only
  split
  · exact keeps_bind (sourceGroup_byteIs _ _ _) fun _ => keeps_bind (keeps_pure _) fun _ =>
      keeps_bind (keeps_foldlM _ _ (fun _ _ => keeps_bind (destEl_byteIs _ _ _ _ _ _) fun _ => keeps_pure _) _) fun _ => keeps_pure _
  · exact keeps_bind (keeps_pure _) fun _ =>
      keeps_bind (keeps_foldlM _ _ (fun _ _ => keeps_bind (destEl_byteIs _ _ _ _ _ _) fun _ => keeps_pure _) _) fun _ => keeps_pure _

theorem makeGroup_byteIs (c : Nat) (w : CopyWork) (g : Nat) (row srcs : List Nat) : Keeps (ByteIs a x) (makeGroup c w g row srcs) :=
  keeps_ite (keeps_bind (readRun_byteIs _ _ _) fun _ => keeps_pure _) (convertGroup_byteIs _ _ _ _ _)

theorem copyForm_byteIs (c : Nat) (w : CopyWork) (all : List Int) : Keeps (ByteIs a x) (copyForm c w all) := by
  unfold copyForm
  dsimp only
  split
  · exact keeps_bind (indexAt_byteIs _ _ _) fun _ => keeps_bind (keeps_pure _) fun _ =>
      keeps_bind (makeGroup_byteIs _ _ _ _ _) fun _ => keeps_pure _
  · exact keeps_bind (keeps_pure _) fun _ => keeps_bind (makeGroup_byteIs _ _ _ _ _) fun _ => keeps_pure _

end

/-- A copy's account of a group that is written. -/
def groupDone (c oid : Nat) (w : CopyWork) (u : CopyUnit) (b : Body) : Body :=
  modCopy oid (fun x => { x with pos := x.pos + 1, hanks := x.hanks + u.hanks.length })
    (act 2 0 (engineOfGroup w) (count Cnt.halWrap u.wrapped (some c) (count Cnt.crush u.crushed (some c) b)))

theorem groupDone_mem (c oid : Nat) (w : CopyWork) (u : CopyUnit) (b : Body) : (groupDone c oid w u b).mem = b.mem := by
  simp [groupDone, count_mem]

theorem copyNext_eq (c oid : Nat) (w : CopyWork) (all : List Int) :
    copyNext c oid w all = copyForm c w all >>= fun u =>
      writeHanks c (some oid) (itemsAt u.addr u.hanks) >>= fun _ => Io.upd (groupDone c oid w u) := rfl

theorem copyNext_storesOnly (c oid : Nat) (w : CopyWork) (all : List Int) : storesOnly (copyNext c oid w all) (copyLines c w all) := by
  refine storesOnly_of_keeps fun b a away x h => ?_
  have reads := copyForm_byteIs (a := a) (x := x) c w all b h
  unfold copyLines at away
  rw [copyNext_eq, on_bind]
  generalize Io.on (copyForm c w all) b = r at away reads ⊢
  obtain ⟨_ | u, b'⟩ := r
  · exact reads
  · exact (storesOnly_bind (writeHanks_storesOnly c (some oid) (itemsAt u.addr u.hanks))
      (fun _ => upd_byteIs (groupDone_mem c oid w u)) b' a away).trans reads

/-! ### Marlin's cells, a dump, and the trace -/

theorem dumpLines_mem_out (base : Nat) (lines : List (List Hank)) (b : Body) (a : Nat)
    (h : a / 256 < base ∨ base + lines.length ≤ a / 256) : memByte (dumpLines base lines b).mem a = memByte b.mem a := by
  induction lines generalizing base b with
  | nil => rfl
  | cons l rest ih =>
    rw [List.length_cons] at h
    rw [dumpLines, ih (base + 1) _ (by omega)]
    exact byteIs_memWrite (b := b) (by omega) (sealedLine_length _) rfl

theorem popItem_mem (k : Nat) (card : Bool) (b : Body) : (popItem k card b).mem = b.mem := by
  unfold popItem
  split
  · rfl
  · split
    · rfl
    · split
      · split <;> rfl
      · rfl

theorem endList_mem (k : Nat) (gen : Option Nat) (b : Body) : (endList k gen b).mem = b.mem := by
  unfold endList
  cases gen with
  | some u => rfl
  | none =>
    dsimp only
    split
    · split <;> rfl
    · rfl

theorem countLines_mem (cls : Nat) (old b : Body) : (countLines cls old b).mem = b.mem := by
  unfold countLines
  dsimp only
  split <;> rfl

/-- What follows the write of a cell. -/
def cellDone (l : CardList) : Io Unit := do
  Io.upd (fun b => act 0 4 0 (popItem l.oid false b))
  if l.walk.length == 1 then Io.upd (endList l.oid l.gen) else pure ()

theorem on_cellDone (l : CardList) (b : Body) : ∃ b', Io.on (cellDone l) b = (.ok (), b') ∧ b'.mem = b.mem := by
  unfold cellDone
  rw [on_upd_bind]
  split
  · exact ⟨_, on_upd _ _, (endList_mem _ _ _).trans (popItem_mem _ _ _)⟩
  · exact ⟨_, on_pure _ _, popItem_mem _ _ _⟩

theorem engineRun_refused {holder work : Nat} {b : Body} (run : Body → Nat × Body) (h : (takeEngine holder work b).1 = false) :
    engineRun holder work run b = b := by
  unfold engineRun
  simp [h]

theorem engineRun_done_mem {holder work : Nat} {b b' : Body} {run : Body → Nat × Body} (h : (takeEngine holder work b).1 = true)
    (done : run (takeEngine holder work b).2 = (0, b')) : (engineRun holder work run b).mem = b'.mem := by
  unfold engineRun
  simp [h, done, dropEngine]

theorem streamRun_ok {m : Io Unit} {b b' : Body} (h : Io.on m b = (.ok (), b')) (own c cls : Nat) (oid : Option Nat) (seq unit : Nat)
    (pos : Body → Nat) : streamRun own c cls oid seq unit pos m b = (0, countLines cls b b') := by
  unfold streamRun
  simp only [h]

theorem writeCell_mem (own : Nat) (l : CardList) (i : WalkItem) (b : Body) (h : (takeEngine l.oid 2 b).1 = true) :
    let cell := Io.on (writeHanks l.ctx ((b.openOf l.oid).map Open.oid) [(cellAddr l i, cellHank l i)]) (takeEngine l.oid 2 b).2
    cell.1 = .ok () → (writeCell own l i b).mem = cell.2.mem := by
  intro cell ok
  obtain ⟨b', done, mem⟩ := on_cellDone l cell.2
  have ends : Io.on (writeHanks l.ctx ((b.openOf l.oid).map Open.oid) [(cellAddr l i, cellHank l i)] >>= fun _ => cellDone l)
      (takeEngine l.oid 2 b).2 = (.ok (), b') := (on_bind_ok _ (Prod.ext ok rfl)).trans done
  exact (engineRun_done_mem h (streamRun_ok ends own l.ctx _ _ _ 4 _)).trans ((countLines_mem _ _ _).trans mem)

/-- The trace is in a state in which lines leave. -/
def traceRuns (o : Obs) : Prop := o.state = 1 ∨ o.state = 2 ∨ o.state = 3

theorem writeTraceLine_empty {b : Body} (h : b.obs.stage = []) : writeTraceLine b = b := by
  simp [writeTraceLine, h]

theorem writeTraceLine_off {b : Body} (h : ¬ traceRuns b.obs) : writeTraceLine b = b := by
  unfold traceRuns at h
  have : (!(b.obs.state == 1 || b.obs.state == 2 || b.obs.state == 3)) = true := by simpa [and_assoc] using h
  simp only [writeTraceLine, this, Bool.or_true, if_true]

theorem writeTraceLine_on {b : Body} (some_ : b.obs.stage ≠ []) (h : traceRuns b.obs) :
    writeTraceLine b = { traceLineOut (b.obs.resBase.toNat + b.obs.wptr.toNat) (sealedLine (b.obs.stage.take 15
        ++ List.replicate (15 - b.obs.stage.length) padHank)) b with
      obs := lineDone { b.obs with stage := b.obs.stage.drop 15 } } := by
  unfold traceRuns at h
  have on : (b.obs.stage.isEmpty || !(b.obs.state == 1 || b.obs.state == 2 || b.obs.state == 3)) = false := by
    rcases h with h | h | h <;> simp [some_, h]
  simp only [writeTraceLine, on, Bool.false_eq_true, if_false]
  rfl

theorem writeTraceLine_mem_out (b : Body) (a : Nat) (away : a / 256 ≠ b.obs.resBase.toNat + b.obs.wptr.toNat) :
    memByte (writeTraceLine b).mem a = memByte b.mem a := by
  by_cases empty : b.obs.stage = []
  · rw [writeTraceLine_empty empty]
  by_cases runs : traceRuns b.obs
  · rw [writeTraceLine_on empty runs]
    exact byteIs_memWrite (b := b) away (sealedLine_length _) rfl
  · rw [writeTraceLine_off runs]

theorem lineDone_stage {o : Obs} (h : o.stage = []) : (lineDone o).stage = [] := by
  unfold lineDone
  dsimp only
  split
  · rfl
  · exact h

theorem writeTraceLine_stage {b : Body} (short : b.obs.stage.length ≤ 15) (runs : traceRuns b.obs) : (writeTraceLine b).obs.stage = [] := by
  by_cases empty : b.obs.stage = []
  · rw [writeTraceLine_empty empty, empty]
  · rw [writeTraceLine_on empty runs]
    exact lineDone_stage (List.drop_eq_nil_of_le short)

theorem flushTraceN_empty (n : Nat) {b : Body} (h : b.obs.stage = []) : flushTraceN n b = b := by
  cases n with
  | zero => rfl
  | succ n => simp [flushTraceN, h]

theorem flushTraceN_off (n : Nat) {b : Body} (h : ¬ traceRuns b.obs) : flushTraceN n b = b := by
  induction n with
  | zero => rfl
  | succ n ih =>
    rw [flushTraceN, writeTraceLine_off h, ih]
    exact ite_self _

theorem flushTrace_off {b : Body} (h : ¬ traceRuns b.obs) : flushTrace b = b := flushTraceN_off _ h

/-- One line's worth of staged records leaves as one line. -/
theorem flushTrace_short {b : Body} (short : b.obs.stage.length ≤ 15) (runs : traceRuns b.obs) : flushTrace b = writeTraceLine b := by
  unfold flushTrace
  cases staged : b.obs.stage with
  | nil => exact (writeTraceLine_empty staged).symm
  | cons r rest =>
    rw [List.length_cons, flushTraceN, flushTraceN_empty _ (writeTraceLine_stage short runs), staged]
    rfl

theorem flushTrace_mem_out {b : Body} (short : b.obs.stage.length ≤ 15) (a : Nat)
    (away : a / 256 ≠ b.obs.resBase.toNat + b.obs.wptr.toNat) : memByte (flushTrace b).mem a = memByte b.mem a := by
  by_cases runs : traceRuns b.obs
  · rw [flushTrace_short short runs, writeTraceLine_mem_out b a away]
  · rw [flushTrace_off runs]

theorem exec_traceIdleFlush {s : State} (h : powered s) : exec .traceIdleFlush s = ran s (fun _ b => flushTrace b) :=
  onBody_run (f := fun _ b => flushTrace b) h

/-- Settles O60: a unit of output stores to the lines of its translation, and the rows are made of such units. -/
theorem storedLines : Obligations.StoredLines := by
  refine ⟨fun c oid items => ⟨writeHanks_storesOnly c oid items, fun b b' v line slots => on_writeHanks_line⟩,
    fun p items => ⟨raccLine_storesOnly p items, fun b line lines => ?_⟩,
    fun m line k h wf _ => ?_, writeOut_storesOnly, writeHome_storesOnly, combineRow_storesOnly, copyNext_storesOnly,
    fun c => writeSave_storesOnly c _ ?_, fun oid pos => ⟨writePiece_storesOnly oid pos _ ?_, raccPiece_storesOnly oid pos _ ?_⟩,
    fun own l i b => ⟨writeCell_mem own l i b, fun refused => ?_⟩,
    fun base lines b a => dumpLines_mem_out base lines b a, fun s power short => ⟨_, exec_traceIdleFlush power, fun a away => ?_, ?_⟩⟩
  · obtain ⟨none_, -⟩ | ⟨line', one, mem⟩ := on_raccLine p items b
    · cases none_.symm.trans lines
    · obtain rfl : line = line' := by simpa using lines.symm.trans one
      exact mem
  · obtain ⟨added, masked⟩ := slot_stored line k h wf
    exact ⟨added, masked, fun e he => hW_raccHank _ _ he, hTag_raccHank _ _⟩
  · intro b w save
    simp only [save]
  · intro b p piece
    simp only [piece]
  · intro b p piece
    simp only [piece]
  · exact congrArg Body.mem (engineRun_refused _ refused)
  · exact flushTrace_mem_out short a away
  · intro h1 h2 h3
    have off : ¬ traceRuns s.b.obs := fun runs => runs.elim h1 fun runs => runs.elim h2 h3
    exact (congrArg Body.mem (flushTrace_off off) :)

end Sys2Proof.Machine
end

section
/-! SUPPORT. A row by its operation: how a command's answer follows from the equation of its operation; and the block that is
stopped, where the units' operations leave everything (spec/16 R408, spec/17 R427). -/

namespace Sys2Proof.Machine

/-- A row on the body answers as another effect does where the two agree. -/
theorem exec_ran {c : Instr} {s : State} {f : Nat → Body → Body} (power : powered s) (whole : wholeRow c = false)
    (moves : movesInReset c = false) (h : bodyOp c s.tal s.addr.own s.b = f s.addr.own s.b) : exec c s = ran s f :=
  (exec_bodyRun power whole moves).trans (ran_congr h)

/-- A row on the whole state answers as another effect does where the two agree. -/
theorem exec_ranAll {c : Instr} {s : State} {f : State → State} (power : powered s) (whole : wholeRow c = true)
    (h : wholeOp c s = f s) : exec c s = ranAll s f :=
  (exec_wholeRun power whole).trans (ranAll_congr h)

/-! ### The block stopped -/

section
variable {own : Nat} {b : Body} (h : frozen b = true)
include h

theorem driveAll_frozen : driveAll own b = b := if_pos h

theorem routeDoneOp_frozen (c : Nat) : routeDoneOp own c b = b := by
  simp [routeDoneOp, h]

theorem homedDeadlineOp_frozen : homedDeadlineOp own b = b := if_pos h

theorem expire_frozen : expire own b = b := by
  unfold expire
  rw [homedDeadlineOp_frozen h, ite_self]

theorem tokenRow_frozen : exchangeRow tokenRow own b = b := by
  rw [exchangeRow, expire_frozen h, tokenRow, if_pos h]

theorem endRow_frozen : exchangeRow endRow own b = b := by
  rw [exchangeRow, expire_frozen h, endRow, withPacket_frozen _ _ h]

theorem answerRow_frozen : exchangeRow answerRow own b = b := by
  rw [exchangeRow, expire_frozen h, answerRow, if_pos h]

theorem saveStartOp_frozen (c : Nat) : saveStartOp c b = b := by
  simp [saveStartOp, h]

theorem saveDoneOp_frozen (c : Nat) : saveDoneOp own c b = b := by
  unfold saveDoneOp
  split
  · rfl
  · simp [h]

theorem restoreDoneOp_frozen (c : Nat) : restoreDoneOp own c b = b := by
  simp [restoreDoneOp, h]

theorem autoRestoreOp_frozen (c : Nat) : autoRestoreOp c b = b := by
  simp [autoRestoreOp, h]

/-- What an operation leaves that is then driven on. -/
theorem driveAll_of_frozen {t : Body} (stands : t = b) : driveAll own t = b := by
  rw [stands, driveAll_frozen h]

theorem unitStep_frozen (c : Instr) (tal : Tally) (unit : unitStep c = true) : bodyOp c tal own b = b := by
  cases c <;> cases unit
  case routeStepDone.refl c => exact routeDoneOp_frozen h _
  case combineStart.refl c => exact driveAll_of_frozen h (if_pos h)
  case collectDone.refl c => exact if_pos h
  case collectDeadline.refl n => exact if_pos h
  case musterArriveLocal.refl n => exact if_pos h
  case musterDeadline.refl n => exact if_pos h
  case tokenPacketReceive.refl => exact tokenRow_frozen h
  case endPacketReceive.refl => exact endRow_frozen h
  case answerPacketReceive.refl => exact answerRow_frozen h
  case homeHalfSort.refl => exact driveAll_of_frozen h (if_pos h)
  case skeinReadDone.refl => exact driveAll_of_frozen h (if_pos h)
  case tandemRecordReceive.refl => exact withPacket_frozen _ _ h
  case wpCardAck.refl => exact driveAll_of_frozen h (if_pos h)
  case coilGrant.refl => exact (congrArg (coilGrantOp own) (expire_frozen h)).trans (if_pos h)
  case saveStart.refl c => exact saveStartOp_frozen h _
  case saveDone.refl c => exact driveAll_of_frozen h (saveDoneOp_frozen h _)
  case restoreDone.refl c => exact driveAll_of_frozen h (restoreDoneOp_frozen h _)
  case autoRestore.refl c => exact autoRestoreOp_frozen h _
  case unitYield.refl => exact if_pos h
  case homedDeadline.refl => exact driveAll_of_frozen h (homedDeadlineOp_frozen h)

theorem completionOp_frozen (hank : Hank) :
    driveAll own (completionOp hank b) = { b with mrl := { b.mrl with bridge := b.mrl.bridge ++ [hank] } } := by
  rw [completionOp, if_pos h]
  exact if_pos h

theorem tileHeaderOp_frozen (hold : b.thm.tpHold = false) (hank : Hank) :
    tileHeaderOp own hank b = { b with thm := { b.thm with bridge := b.thm.bridge ++ [.header hank] } } := by
  rw [tileHeaderOp, hold, if_neg Bool.false_ne_true, if_pos h]

theorem tileReceiveOp_frozen (hold : b.thm.tpHold = false) (hs : List Hank) :
    tileReceiveOp own hs b = { b with thm := { b.thm with bridge := b.thm.bridge ++ [.payload hs] } } := by
  rw [tileReceiveOp, hold, if_neg Bool.false_ne_true, if_pos h]

theorem memResponseOp_frozen (line i st : Nat) (d : BitVec 2048) :
    memResponseOp own line i st d b = { b with xlt := { b.xlt with
      frozenRs := b.xlt.frozenRs ++ [{ line := line, id := i, status := st, data := d }] } } := if_pos h

end

theorem unitStep_body {c : Instr} (unit : unitStep c = true) : wholeRow c = false ∧ movesInReset c = false := by
  cases c <;> cases unit <;> exact ⟨rfl, rfl⟩

/-- Settles O13: each unit's operation asks first whether the block is stopped. -/
theorem stoppedUnitsStand : Obligations.StoppedUnitsStand := by
  intro c s power stopped
  refine ⟨fun unit => ?_, fun h => ?_, fun h hold => ?_, fun hs hold => ?_, fun line i st d => ?_⟩
  · obtain ⟨whole, moves⟩ := unitStep_body unit
    exact exec_ran power whole moves (unitStep_frozen stopped c s.tal unit)
  · exact exec_ran power rfl rfl (completionOp_frozen stopped h)
  · exact exec_ran power rfl rfl (tileHeaderOp_frozen stopped hold h)
  · exact exec_ran power rfl rfl (tileReceiveOp_frozen stopped hold hs)
  · exact exec_ran power rfl rfl (memResponseOp_frozen stopped _ _ _ d)

end Sys2Proof.Machine
end

section
/-! SUPPORT. Rows that store nothing: the memory behind the ports after each of their operations. -/

namespace Sys2Proof.Machine

/-- A part of the body that each step of a fold leaves. -/
theorem foldl_field {α β : Type} (g : Body → α) {f : Body → β → Body} (h : ∀ b x, g (f b x) = g b) (l : List β) (b : Body) :
    g (l.foldl f b) = g b := by
  induction l generalizing b with
  | nil => rfl
  | cons x l ih => exact (ih (f b x)).trans (h b x)

/-! ### The command port -/

@[simp] theorem notice_mem (code : Nat) (c : Option Nat) (seq status hanks : Nat) (body : List Nat) (unit : Nat) (b : Body) :
    (notice code c seq status hanks body unit b).mem = b.mem := by
  rw [notice_frame]

@[simp] theorem raiseDraw_mem (cause w2 w3 : Nat) (b : Body) : (raiseDraw cause w2 w3 b).mem = b.mem := by
  rw [raiseDraw_frame]

@[simp] theorem refuse_mem (r : CmdRec) (code : Nat) (b : Body) : (refuse r code b).mem = b.mem := by
  rw [refuse_frame]

theorem intake_mem (r : CmdRec) (b : Body) : (intake r b).mem = b.mem := by
  unfold intake
  split
  · exact refuse_mem _ _ _
  · dsimp only
    split <;> rfl

theorem frameBad_mem (ts : List (BitVec 256)) (b : Body) : (frameBad ts b).mem = b.mem := by
  unfold frameBad
  cases ts with
  | nil => rfl
  | cons t ts => exact refuse_mem _ _ _

theorem joinTransfer_mem (ts : List (BitVec 256)) (priv last : Bool) (b : Body) : (joinTransfer ts priv last b).mem = b.mem := by
  unfold joinTransfer
  dsimp only
  split
  · exact frameBad_mem _ _
  · split
    · exact intake_mem _ _
    · rfl

theorem takeTransfer_mem (t : Transfer) (b : Body) : (takeTransfer t b).mem = b.mem := by
  unfold takeTransfer
  split
  · split
    · exact frameBad_mem _ _
    · exact joinTransfer_mem _ _ _ _
  · split
    · exact joinTransfer_mem _ _ _ _
    · split
      · rfl
      · exact frameBad_mem _ _

theorem takeTransfers_mem (ts : List Transfer) (b : Body) : (takeTransfers ts b).mem = b.mem := by
  unfold takeTransfers
  split
  · exact foldl_field Body.mem (fun b t => takeTransfer_mem t (charge 7 13 1 b)) ts b
  · rfl

theorem storeReply_mem (r : OutRec) (b : Body) : (storeReply r b).mem = b.mem := by
  unfold storeReply
  dsimp only
  split <;> rfl

theorem refill_mem (n : Nat) (b : Body) : (refill n b).mem = b.mem := by
  induction n generalizing b with
  | zero => rfl
  | succ n ih =>
    unfold refill
    split
    · rfl
    · split
      · exact (ih _).trans (storeReply_mem _ _)
      · rfl

theorem outwardOp_mem (b : Body) : (outwardOp b).mem = b.mem := by
  unfold outwardOp
  split
  · rfl
  · exact refill_mem _ _

/-! ### Registers -/

theorem unlessHeld_mem {off : Nat} {f : Body → Body} (h : ∀ b, (f b).mem = b.mem) (b : Body) : (unlessHeld off f b).mem = b.mem := by
  unfold unlessHeld
  split
  · rfl
  · exact h b

theorem calDataWrite_mem (n : Nat) (d : W32) (b : Body) : (calDataWrite n d b).mem = b.mem := by
  unfold calDataWrite
  dsimp only
  split <;> rfl

theorem calCommit_mem (n : Nat) (b : Body) : (calCommit n b).mem = b.mem := by
  unfold calCommit
  dsimp only
  split
  · rfl
  · split <;> rfl

theorem calCtrlWrite_mem (n : Nat) (d : W32) (b : Body) : (calCtrlWrite n d b).mem = b.mem := by
  unfold calCtrlWrite
  dsimp only
  split
  · exact calCommit_mem n _
  · rfl

theorem xltInvalWrite_mem (d : W32) (b : Body) : (xltInvalWrite d b).mem = b.mem := by
  unfold xltInvalWrite
  split <;> rfl

theorem ctxCreate_mem (b : Body) : (ctxCreate b).mem = b.mem := by
  unfold ctxCreate
  dsimp only
  split <;> rfl

theorem chooseVictim_mem (b : Body) : (chooseVictim b).mem = b.mem := by
  unfold chooseVictim
  split
  · rfl
  · refine foldl_field Body.mem (fun b r => ?_) _ b
    dsimp only
    split
    · rfl
    · split
      · rfl
      · split <;> rfl

theorem ctxDestroy_mem (b : Body) : (ctxDestroy b).mem = b.mem := by
  unfold ctxDestroy
  dsimp only
  split
  · exact chooseVictim_mem _
  · rfl

theorem armOp_mem (b : Body) : (armOp b).mem = b.mem := by
  unfold armOp
  split <;> rfl

theorem pcSampleOp_mem (b : Body) : (pcSampleOp b).mem = b.mem := by
  unfold pcSampleOp
  split <;> rfl

theorem wrapperShift_mem (d : W32) (b : Body) : (wrapperShift d b).mem = b.mem := by
  unfold wrapperShift
  split <;> rfl

/-! ### The assay -/

theorem nextSlice_mem (b : Body) : (nextSlice b).mem = b.mem := by
  unfold nextSlice
  split
  · rfl
  · dsimp only
    split <;> rfl

theorem startAssay_mem (byCommand : Bool) (first : Nat) (visit : List Nat) (b : Body) :
    (startAssay byCommand first visit b).mem = b.mem := nextSlice_mem _

theorem asyCtrlWrite_mem (d : W32) (b : Body) : (asyCtrlWrite d b).1.mem = b.mem := by
  unfold asyCtrlWrite
  dsimp only
  split
  · unfold asyGoOp
    split
    · rfl
    · exact startAssay_mem _ _ _ _
  · rfl

theorem sliceEnd_mem (fails : List Failure) (b : Body) : (sliceEnd fails b).mem = b.mem := by
  unfold sliceEnd
  split
  · rfl
  · split
    · rfl
    · split
      · exact nextSlice_mem _
      · rfl

theorem sliceExpire_mem (fails : List Failure) (b : Body) : (sliceExpire fails b).mem = b.mem := by
  unfold sliceExpire
  split
  · rfl
  · split
    · rfl
    · split
      · exact nextSlice_mem _
      · rfl

theorem startShutdownAssay_mem (b : Body) : (startShutdownAssay b).mem = b.mem := by
  unfold startShutdownAssay
  split
  · rfl
  · exact startAssay_mem _ _ _ _

theorem raiseAssay_mem (ws : List Nat) (b : Body) : (raiseAssay ws b).mem = b.mem := by
  unfold raiseAssay
  dsimp only
  split
  · exact (startShutdownAssay_mem _).trans (notice_mem ..)
  · exact notice_mem ..

@[simp] theorem endAssay_mem (s : State) : (endAssay s).b.mem = s.b.mem := by
  unfold endAssay
  split
  · rfl
  · split
    · rfl
    · dsimp only
      split
      · rfl
      · exact raiseAssay_mem _ _

theorem SwitchFrame.mem {b b' : Body} (h : SwitchFrame b b') : b'.mem = b.mem := by
  unfold SwitchFrame at h
  rw [h]

theorem workReset_mem (b : Body) : (workReset b).mem = b.mem :=
  foldl_field Body.mem (fun b p => (consumePacket_frame p b).mem) b.fab.rx b

theorem quarryInit_mem (warm : Bool) (b : Body) : (quarryInit warm b).mem = b.mem := by
  unfold quarryInit
  split <;> rfl

theorem startOp_mem (t : Tally) (b : Body) : (startOp t b).mem = b.mem :=
  (workReset_mem _).trans (quarryInit_mem _ _)

@[simp] theorem startIfWaiting_mem (s : State) : (startIfWaiting s).b.mem = s.b.mem := by
  unfold startIfWaiting
  dsimp only
  split
  · exact startOp_mem _ _
  · rfl

theorem talCommitDone_mem (s : State) : (talCommitDone s).b.mem = s.b.mem := by
  unfold talCommitDone
  split
  · rfl
  · dsimp only
    split
    · exact (startIfWaiting_mem _).trans (raiseAssay_mem _ _)
    · rw [startIfWaiting_mem]
      split
      · exact endAssay_mem _
      · rfl

/-! ### Power, temperature and aging -/

theorem tempOp_mem (tj : BitVec 8) (sensor : BitVec 4) (b : Body) : (tempOp tj sensor b).mem = b.mem := by
  unfold tempOp
  dsimp only
  split
  · rw [raiseDraw_mem, accrue_mem]
  · exact accrue_mem b

theorem ceilChangeOp_mem (ceil : BitVec 12) (valid : Bool) (b : Body) : (ceilChangeOp ceil valid b).mem = b.mem := by
  unfold ceilChangeOp
  dsimp only
  split
  · exact raiseDraw_mem _ _ _ _
  · rfl

theorem secondEndOp_mem (b : Body) : (secondEndOp b).mem = b.mem := by
  unfold secondEndOp
  dsimp only
  split
  · rfl
  · split
    · rw [raiseDraw_mem, accrue_mem]
    · exact accrue_mem b

/-- The bins of a publication in the second `s`, over what the second before it left. -/
def publication (s : Nat) (bins : List Nat) (b : Body) : Body :=
  let b := { b with pwr := { b.pwr with
    fc := bins, fcSeq := BitVec.ofNat 32 s, decl := b.pwr.decl.filter (fun (d : Nat × Nat) => s ≤ d.1 + 1) ++ [(s + 59, bins.getD 59 0)],
    published := some s, strobes := b.pwr.strobes + 1 } }
  { b with pwr := { b.pwr with declNow := declOf b s } }

/-- OVER, when a bin published exceeds the ceiling. -/
def raiseOver (bins : List Nat) (b : Body) : Body :=
  match (List.range 60).find? (fun i => b.pwr.c < bins.getD i 0) with
  | some i => raiseDraw 2 (bins.getD i 0) (fld 15 0 b.pwr.c + fld 31 16 i) b
  | none => b

/-- What a publication starts from: the account of the second that ended, and the hints of this one. -/
def drawAt (b : Body) : Body := { secondEndOp b with pwr := (secondEndOp b).pwr.shiftOnce (secondOf b) }

/-- DRAW_PUBLISH with any bins, so that the sums of a bin need not be evaluated to compare two forms of it. -/
def publishWith (bin : Nat → Body → Nat → Nat) (own : Nat) (b : Body) : Body :=
  let s := secondOf b
  if b.pwr.published == some s then b
  else
    let b := secondEndOp b
    let b := { b with pwr := b.pwr.shiftOnce s }
    let bins := (List.range 60).map (bin own b)
    let decl := b.pwr.decl.filter (fun d => s ≤ d.1 + 1) ++ [(s + 59, bins.getD 59 0)]
    let b := { b with pwr := { b.pwr with
      fc := bins, fcSeq := BitVec.ofNat 32 s, decl := decl, published := some s, strobes := b.pwr.strobes + 1 } }
    let b := { b with pwr := { b.pwr with declNow := declOf b s } }
    match (List.range 60).find? (fun i => b.pwr.c < bins.getD i 0) with
    | some i => raiseDraw 2 (bins.getD i 0) (fld 15 0 b.pwr.c + fld 31 16 i) b
    | none => b

theorem publishOp_with (own : Nat) (b : Body) : publishOp own b = publishWith binOf own b := rfl

theorem publishWith_eq (bin : Nat → Body → Nat → Nat) (own : Nat) (b : Body) :
    publishWith bin own b = if b.pwr.published == some (secondOf b) then b
      else
        let bins := (List.range 60).map (bin own (drawAt b))
        raiseOver bins (publication (secondOf b) bins (drawAt b)) := rfl

/-- The bins that are published. -/
def drawBins (own : Nat) (b : Body) : List Nat := (List.range 60).map (binOf own (drawAt b))

theorem publishOp_eq (own : Nat) (b : Body) : publishOp own b = if b.pwr.published == some (secondOf b) then b
    else raiseOver (drawBins own b) (publication (secondOf b) (drawBins own b) (drawAt b)) :=
  (publishOp_with own b).trans (publishWith_eq binOf own b)

theorem raiseOver_mem (bins : List Nat) (b : Body) : (raiseOver bins b).mem = b.mem := by
  unfold raiseOver
  split
  · exact raiseDraw_mem _ _ _ _
  · rfl

theorem publishOp_mem (own : Nat) (b : Body) : (publishOp own b).mem = b.mem := by
  rw [publishOp_eq]
  split
  · rfl
  · exact (raiseOver_mem _ _).trans (secondEndOp_mem b)

theorem wearMeasureOp_mem (cls arr idx wear : Nat) (b : Body) : (wearMeasureOp cls arr idx wear b).mem = b.mem := by
  unfold wearMeasureOp
  dsimp only
  split
  · exact notice_mem ..
  · rfl

/-! ### Saves, engines and watchdogs -/

theorem switchIn_mem (oid : Nat) (b : Body) : (switchIn oid b).mem = b.mem := by
  unfold switchIn
  split <;> rfl

theorem giveUnit_mem (unit inst oid item : Nat) (b : Body) : (giveUnit unit inst oid item b).mem = b.mem := switchIn_mem oid b

theorem takeEngine_mem (oid work : Nat) (b : Body) : (takeEngine oid work b).2.mem = b.mem := by
  unfold takeEngine
  split
  · rfl
  · split
    · exact giveUnit_mem _ _ _ _ _
    · rfl

theorem pathEngine_mem (c on : Nat) (b : Body) : (pathEngine c on b).mem = b.mem := takeEngine_mem _ _ b

theorem releaseUnits_mem (c : Nat) (b : Body) : (releaseUnits c b).mem = b.mem := by
  unfold releaseUnits
  dsimp only
  split <;> rfl

theorem saveStartOp_mem (c : Nat) (b : Body) : (saveStartOp c b).mem = b.mem := by
  unfold saveStartOp
  dsimp only
  split
  · rfl
  · exact (pathEngine_mem _ _ _).trans (releaseUnits_mem _ _)

theorem autoRestoreOp_mem (c : Nat) (b : Body) : (autoRestoreOp c b).mem = b.mem := by
  unfold autoRestoreOp
  dsimp only
  split
  · rfl
  · exact pathEngine_mem _ _ _

theorem reportHang_mem (w : Watch) (b : Body) : (reportHang w b).mem = b.mem := by
  unfold reportHang
  dsimp only
  split
  · rfl
  · split
    · rfl
    · exact notice_mem ..

theorem watchdogOp_mem (b : Body) : (watchdogOp b).mem = b.mem := by
  unfold watchdogOp
  dsimp only
  split
  · rfl
  · exact foldl_field Body.mem (fun b w => reportHang_mem w b) _ _

/-! ### The rows -/

theorem storesNothing_reset {c : Instr} (s : State) (moves : movesInReset c = true) : (resetOp c s).b.mem = s.b.mem := by
  cases c <;> cases moves
  case porstNRelease.refl =>
    show (if s.b.blk.porst then _ else _ : Body).mem = _
    split <;> rfl
  all_goals rfl

theorem storesNothing_whole {c : Instr} (s : State) (h : storesNothing c = true) (whole : wholeRow c = true) :
    (wholeOp c s).b.mem = s.b.mem := by
  cases c <;> cases h <;> cases whole
  case tallyCommitDone.refl.refl => exact talCommitDone_mem s
  case assayEnd.refl.refl => exact (startIfWaiting_mem _).trans (endAssay_mem s)
  all_goals rfl

theorem storesNothing_body {c : Instr} (tal : Tally) (own : Nat) (b : Body) (h : storesNothing c = true) (whole : wholeRow c = false)
    (moves : movesInReset c = false) : (bodyOp c tal own b).mem = b.mem := by
  cases c <;> cases h <;> cases whole <;> cases moves
  case cpRecordIntake.refl.refl.refl xs => exact takeTransfers_mem xs b
  case outwardRecord.refl.refl.refl => exact outwardOp_mem b
  case calSlotDataWrite.refl.refl.refl n d => exact unlessHeld_mem (calDataWrite_mem _ d) b
  case calSlotCommit.refl.refl.refl n d => exact unlessHeld_mem (calCtrlWrite_mem _ _) b
  case xltInvalGo.refl.refl.refl d => exact unlessHeld_mem (xltInvalWrite_mem _) b
  case ctxCreate.refl.refl.refl => exact unlessHeld_mem ctxCreate_mem b
  case ctxDestroy.refl.refl.refl => exact unlessHeld_mem ctxDestroy_mem b
  case obsMarkWrite.refl.refl.refl d => exact unlessHeld_mem (f := markOp none d) (fun _ => rfl) b
  case trigger.refl.refl.refl => exact unlessHeld_mem (f := triggerOp) (fun _ => rfl) b
  case arm.refl.refl.refl => exact unlessHeld_mem armOp_mem b
  case mrlPcEnable.refl.refl.refl d => exact unlessHeld_mem (f := pcCtrlWrite (d ||| 1)) (fun _ => rfl) b
  case pcSample.refl.refl.refl => exact pcSampleOp_mem b
  case paceClr.refl.refl.refl => exact unlessHeld_mem (f := paceClrOp) (fun _ => rfl) b
  case asyGo.refl.refl.refl d => exact unlessHeld_mem (asyCtrlWrite_mem _) b
  case asy1500Shift.refl.refl.refl d => exact unlessHeld_mem (wrapperShift_mem d) b
  case stcrefCycle.refl.refl.refl =>
    show (if b.stc.root then advance 10 b else b).mem = b.mem
    split <;> rfl
  case stcSyncExchange.refl.refl.refl p =>
    show (if _ then sendCtrl _ _ b else b).mem = b.mem
    split
    · exact sendCtrl_mem _ _ _
    · rfl
  case tempReport.refl.refl.refl tj sensor => exact tempOp_mem tj sensor b
  case ceilChange.refl.refl.refl c v => exact ceilChangeOp_mem c v b
  case drawPublish.refl.refl.refl => exact publishOp_mem own b
  case secondEnd.refl.refl.refl => exact secondEndOp_mem b
  case wearMeasure.refl.refl.refl cls arr idx wear =>
    show (if _ then wearMeasureOp _ _ _ _ b else b).mem = b.mem
    split
    · exact wearMeasureOp_mem _ _ _ _ b
    · rfl
  case assaySliceEnd.refl.refl.refl fails => exact sliceEnd_mem fails b
  case sliceBudgetExpiry.refl.refl.refl fails => exact sliceExpire_mem fails b
  case saveStart.refl.refl.refl c => exact saveStartOp_mem _ b
  case autoRestore.refl.refl.refl c => exact autoRestoreOp_mem _ b
  case watchdogLimit.refl.refl.refl => exact watchdogOp_mem b

/-- Settles O14: each row is one of the three forms, and its operation leaves the memory. -/
theorem memoryFrame : Obligations.MemoryFrame := by
  intro c s t run stores a
  suffices mem : t.b.mem = s.b.mem by rw [mem]
  cases moves : movesInReset c with
  | true =>
    rw [exec_reset moves] at run
    cases run
    exact storesNothing_reset s moves
  | false =>
    cases whole : wholeRow c with
    | true =>
      rw [exec_whole whole] at run
      exact onAll_part (fun t => t.b.mem = s.b.mem) run rfl (storesNothing_whole s stores whole)
    | false =>
      rw [exec_body whole moves] at run
      exact onBody_body (fun b => b.mem = s.b.mem) run rfl (storesNothing_body s.tal _ s.b stores whole moves)

end Sys2Proof.Machine
end

section
/-! SUPPORT. The register window by its rows (spec/14 R352, R359, R360, spec/18 R445, spec/19). -/

namespace Sys2Proof.Machine

/-! ### A write of a register, and the rows named after one -/

theorem exec_registerWrite_porst {s : State} (h : s.b.blk.porst = true) (o : BitVec 22) (d : W32) :
    exec (.registerWrite o d) s = .next s :=
  (exec_whole (c := .registerWrite o d) rfl s).trans (onAll_porst _ h)

theorem wholeOp_registerWrite (o : BitVec 22) (d : W32) (s : State) :
    wholeOp (.registerWrite o d) s = if held s.b (wordOff o) then s else (regWrite none (wordOff o) d s).1 := rfl

theorem exec_registerWrite_held {s : State} {o : BitVec 22} (d : W32) (power : powered s) (h : held s.b (wordOff o) = true) :
    exec (.registerWrite o d) s = ran s (fun _ b => b) :=
  exec_ranAll (f := fun s => s) power rfl ((wholeOp_registerWrite o d s).trans (if_pos h))

/-- A row that is the write of a register in its effect is that write as a row, in reset and while a slice holds the unit too. -/
theorem exec_rowWrite {c : Instr} {s : State} {o : BitVec 22} {d : W32} (f : Nat → Body → Body) (whole : wholeRow c = false)
    (moves : movesInReset c = false) (row : bodyOp c s.tal s.addr.own s.b = unlessHeld (wordOff o) (f s.addr.own) s.b)
    (write : (regWrite none (wordOff o) d s).1 = { s with b := f s.addr.own s.b }) : exec c s = exec (.registerWrite o d) s := by
  cases porst : s.b.blk.porst with
  | true => rw [exec_registerWrite_porst porst, exec_body whole moves, onBody_porst _ porst]
  | false =>
    rw [exec_wholeRun (c := .registerWrite o d) porst rfl, exec_bodyRun porst whole moves]
    unfold ran ranAll
    rw [row, wholeOp_registerWrite, write]
    unfold unlessHeld
    split <;> rfl

/-- Settles O30: each row is the write's operation, while no slice holds the unit. -/
theorem registerRowsAreWrites : Obligations.RegisterRowsAreWrites := by
  intro s d
  refine ⟨?_, ?_, ?_, ?_, ?_, ?_, ?_, ?_, ?_, ?_, ?_, ?_, ?_, ?_, ?_⟩
  · exact exec_rowWrite (fun _ => calDataWrite 0 d) rfl rfl rfl rfl
  · exact exec_rowWrite (fun _ => calDataWrite 1 d) rfl rfl rfl rfl
  · exact exec_rowWrite (fun _ => calCtrlWrite 0 (d ||| 0x10000)) rfl rfl rfl rfl
  · exact exec_rowWrite (fun _ => calCtrlWrite 1 (d ||| 0x10000)) rfl rfl rfl rfl
  · exact exec_rowWrite (fun _ => xltInvalWrite (d ||| 0x100)) rfl rfl rfl rfl
  · exact exec_rowWrite (fun _ => ctxCreate) rfl rfl rfl rfl
  · exact exec_rowWrite (fun _ => ctxDestroy) rfl rfl rfl rfl
  · exact exec_rowWrite (fun own => sknCtrlWrite own 1) rfl rfl rfl rfl
  · exact exec_rowWrite (fun _ => markOp none d) rfl rfl rfl rfl
  · exact exec_rowWrite (fun _ => traceCtrlWrite (d ||| 1)) rfl rfl rfl rfl
  · exact exec_rowWrite (fun _ => traceCtrlWrite (d &&& 0xFFFFFFFE)) rfl rfl rfl rfl
  · exact exec_rowWrite (fun _ => pcCtrlWrite (d ||| 1)) rfl rfl rfl rfl
  · exact exec_rowWrite (fun _ => paceClrOp) rfl rfl rfl rfl
  · exact exec_rowWrite (fun _ b => (asyCtrlWrite (d ||| 1) b).1) rfl rfl rfl rfl
  · exact exec_rowWrite (fun _ => wrapperShift d) rfl rfl rfl rfl

/-! ### Offsets past the window's registers (R12) -/

section
variable {off : Nat} (h : 0x240000 ≤ off)
include h

theorem addrWrite_past (d : W32) (a : FabAddr) : addrWrite off d a = a := if_neg (by simp; omega)

theorem talWrite_past (d : W32) (t : Tally) (b : Body) : talWrite off d t b = (t, 0) := by
  unfold talWrite
  iterate 6 rw [if_neg (by simp; omega)]

theorem bodyWrite_past (own : Nat) (mark : Option Nat) (d : W32) (b : Body) : bodyWrite own mark off d b = (b, 0) := by
  unfold bodyWrite
  dsimp only
  rw [if_neg (by simp; omega)]
  iterate 6 rw [if_neg (by simp; omega)]

theorem regWrite_past (mark : Option Nat) (d : W32) (s : State) : regWrite mark off d s = (s, 0) := by
  unfold regWrite
  dsimp only
  rw [addrWrite_past h, talWrite_past h, bodyWrite_past h]
  rfl

theorem famIdx_past {base stride n : Nat} (small : base + stride * n ≤ 0x240000) (pos : 0 < stride) : famIdx base stride n off = none := by
  refine if_neg ?_
  have far : n ≤ (off - base) / stride := (Nat.le_div_iff_mul_le pos).2 (by rw [Nat.mul_comm]; omega)
  simp only [Bool.and_eq_true, decide_eq_true_eq]
  omega

theorem clearRc_past (b : Body) : clearRc off b = b := by
  unfold clearRc
  iterate 8 rw [if_neg (by simp; omega)]
  rw [famIdx_past h (by decide) (by decide)]

theorem regWord_past (s : State) (octx : Nat) (high : off < 0x400000) : regWord s octx off = 0 := by
  obtain ⟨q, hq⟩ : ∃ q, off / 0x10000 = q := ⟨_, rfl⟩
  unfold regWord
  rw [hq]
  have : 0x24 ≤ q := by omega
  have : q < 0x40 := by omega
  interval_cases q <;> rfl

theorem wideBase_past : wideBase off = none := by
  refine if_neg ?_
  simp only [wideFamilies, List.any_cons, List.any_nil, Bool.or_eq_true, Bool.and_eq_true, decide_eq_true_eq, Bool.or_false]
  omega

theorem regRead_past (path octx : Nat) (s : State) (high : off < 0x400000) : regRead path octx off s = (0, s.b) := by
  unfold regRead regPeek
  rw [wideBase_past h]
  dsimp only
  rw [regWord_past h s octx high, clearRc_past h, Nat.zero_mod]

end

theorem wordOff_past {o : BitVec 22} (h : 0x240000 ≤ o.toNat) : 0x240000 ≤ wordOff o ∧ wordOff o < 0x400000 := by
  unfold wordOff
  have := o.isLt
  omega

/-! ### Accesses -/

theorem mgpOp_held {off : Nat} {s : State} (write : Bool) (d : W32) (h : held s.b off = true) :
    mgpOp write off d s = { s with b := charge 7 13 1 { s.b with cp := { s.b.cp with mgRdata := 0, mgErr := true } } } := by
  unfold mgpOp
  rw [if_pos h]
  rfl

theorem mgpOp_write {off : Nat} {s : State} (d : W32) (h : held s.b off = false) :
    mgpOp true off d s = { (regWrite none off d s).1 with b := charge 7 13 1 { (regWrite none off d s).1.b with
      cp := { (regWrite none off d s).1.b.cp with mgErr := false } } } := by
  unfold mgpOp
  rw [if_neg (by simp [h])]
  rfl

theorem mgpOp_read {off : Nat} {s : State} (d : W32) (h : held s.b off = false) :
    mgpOp false off d s = { s with b := charge 7 13 1 { (regRead mgpPath s.b.obs.ctxSel.toNat off s).2 with
      cp := { (regRead mgpPath s.b.obs.ctxSel.toNat off s).2.cp with
        mgRdata := BitVec.ofNat 32 (regRead mgpPath s.b.obs.ctxSel.toNat off s).1, mgErr := false } } } := by
  unfold mgpOp
  rw [if_neg (by simp [h])]
  rfl

theorem clearRc_mem (off : Nat) (b : Body) : (clearRc off b).mem = b.mem := by
  unfold clearRc
  repeat' split
  all_goals rfl

theorem regRead_mem (path octx off : Nat) (s : State) : (regRead path octx off s).2.mem = s.b.mem := by
  unfold regRead
  split
  · exact clearRc_mem _ _
  · dsimp only
    split
    · rfl
    · split <;> rfl

/-- Settles O28: the three cases of an access. -/
theorem mgpAccess : Obligations.MgpAccess := by
  intro s o d
  refine ⟨fun free => exec_ranAll free.power rfl (mgpOp_write d free.held), fun free => ?_,
    fun w power h => exec_ranAll (f := fun s => { s with b := charge 7 13 1 { s.b with cp := { s.b.cp with mgRdata := 0, mgErr := true } } })
      power rfl (mgpOp_held w d h)⟩
  have run := exec_ranAll (c := .mgpAccess false o d) (f := fun s => _) free.power rfl (mgpOp_read d free.held)
  exact ⟨_, run, by simp, by simp, rfl, rfl, regRead_mem _ _ _ _⟩

theorem regCommand_accepted {q code : Nat} {s : State} {r : CmdRec} (f : CmdRec → State → State)
    (h : acceptable s.addr.own q code s.b = some r) : regCommand q code f s = f r s := by
  unfold regCommand
  rw [h]

theorem regReadOp_free {r : CmdRec} {s : State} (h : held s.b r.addr = false) : regReadOp r s
    = { s with b := acceptDone s.addr.own r 0 [(regRead r.queue (obsCtxOf s.b r) r.addr s).1, 0, 0, 0]
                (charge 6 13 1 (regRead r.queue (obsCtxOf s.b r) r.addr s).2) } :=
  if_neg (by simp [h])

theorem regWriteOp_free {r : CmdRec} {s : State} (h : held s.b r.addr = false) : regWriteOp r s
    = { (regWrite r.ctxOpt r.addr (BitVec.ofNat 32 (r.b 0)) s).1 with
        b := acceptDone s.addr.own r (regWrite r.ctxOpt r.addr (BitVec.ofNat 32 (r.b 0)) s).2 []
          (charge 6 13 1 (regWrite r.ctxOpt r.addr (BitVec.ofNat 32 (r.b 0)) s).1.b) } :=
  if_neg (by simp [h])

/-- Settles O29: the equations of the three rows, and that no register stands past 0x24_0000. -/
theorem registerCommandsRun : Obligations.RegisterCommandsRun := by
  refine ⟨fun s o d power past => ?_, fun s q r o d power => ?_⟩
  · obtain ⟨low, high⟩ := wordOff_past past
    have free : held s.b (wordOff o) = false := held_high (by omega)
    refine ⟨?_, ?_, ?_⟩
    · refine exec_ranAll (f := fun s => s) power rfl ((wholeOp_registerWrite o d s).trans ?_)
      rw [free, regWrite_past low]
      rfl
    · refine exec_ranAll (c := .mgpAccess false o d) (f := fun s => { s with b := charge 7 13 1 { s.b with
        cp := { s.b.cp with mgRdata := 0, mgErr := false } } }) power rfl ((mgpOp_read d free).trans ?_)
      rw [regRead_past low _ _ _ high]
      rfl
    · refine exec_ranAll (c := .mgpAccess true o d) (f := fun s => { s with b := charge 7 13 1 { s.b with
        cp := { s.b.cp with mgErr := false } } }) power rfl ((mgpOp_write d free).trans ?_)
      rw [regWrite_past low]
  · refine ⟨fun free accepted => ?_, fun free accepted => ?_, fun free => ?_, fun h => exec_registerWrite_held d power h⟩
    · exact exec_ranAll (c := .regRead q) power rfl ((regCommand_accepted regReadOp accepted).trans (regReadOp_free free))
    · exact exec_ranAll (c := .regWrite q) power rfl ((regCommand_accepted regWriteOp accepted).trans (regWriteOp_free free))
    · exact exec_registerWrite_run d ⟨power, free⟩

end Sys2Proof.Machine
end

section
/-! SUPPORT. The idle step, the reset, and registers with an effect of their own: invalidation, contexts, the program counter's
samples, the tally store's registers (spec/11 R266, spec/12 R287, spec/15 R381, R382, spec/16 R395). -/

namespace Sys2Proof.Machine

/-! ### The idle step -/

theorem drainTrace_short {b : Body} (h : b.obs.stage.length < 15) : drainTrace b = b := if_neg (by omega)

theorem step_idle {s : State} (empty : s.pending = []) (power : powered s) : step s = ran s (fun _ b => tickBody b) := by
  rw [step_nil empty]
  unfold idle
  rw [show s.b.blk.porst = false from power]
  rfl

/-- Settles O2. -/
theorem idleTick : Obligations.IdleTick := by
  intro s empty power short
  rw [step_idle empty power]
  refine ⟨fun root => ran_congr ?_, fun root hold phase => ran_congr ?_⟩
  · unfold tickBody
    rw [if_pos root]
    exact drainTrace_short short
  · have tick : stcTick s.b.stc = { s.b.stc with now := s.b.stc.now + 1, phase := s.b.stc.phase + 1 } := by
      unfold stcTick
      rw [if_neg (by simp [hold]), if_pos phase]
    unfold tickBody
    rw [if_neg (by simp [root]), tick]
    exact drainTrace_short short

/-! ### The reset -/

/-- The records that a reset leaves: those before, and the one of the commit that it cuts short. -/
theorem talCut_recs_eq {t : Tally} (ok : tallyOk t = true) {k : Nat} (hk : k < 4) :
    (∀ ws, t.busy = some (k, ws) → (talCut t).recs k = t.recs k ++ [{ words := ws, good := false }])
    ∧ ((∀ ws, t.busy ≠ some (k, ws)) → (talCut t).recs k = t.recs k) := by
  refine ⟨fun ws busy => talCut_recs busy, fun apart => ?_⟩
  cases busy : t.busy with
  | none => rw [(Tally.ended_idle busy).2]
  | some p =>
    obtain ⟨j, ws⟩ := p
    obtain ⟨small, -⟩ := (commitOk_iff t).1 ((tallyOk_iff t).1 ok).2 j ws busy
    have differ : j ≠ k := fun same => apart ws (same ▸ busy)
    rw [(Tally.ended_recs busy k).2, Tally.append_recs, if_neg (by omega), List.append_nil]

/-- Settles O15. -/
theorem resetRows : Obligations.ResetRows := by
  intro s
  refine ⟨rfl, rfl, fun ok k hk => ?_, fun porst => ?_, fun porst => ?_⟩
  · obtain ⟨same, apart⟩ := talCut_recs_eq ok hk
    cases busy : s.tal.busy with
    | none => rw [apart (by simp [busy]), List.append_nil]
    | some p =>
      obtain ⟨j, ws⟩ := p
      dsimp only
      split
      case isTrue hj =>
        subst hj
        exact same ws busy
      case isFalse hj => rw [apart (by simp [busy, hj]), List.append_nil]
  · rw [exec_porstNRelease, if_pos porst]
  · rw [exec_porstNRelease, if_neg (by simp [porst])]

/-! ### Fields of a written word -/

theorem testBit_bits (x hi lo i : Nat) : (bits x hi lo).testBit i = (decide (i < hi + 1 - lo) && x.testBit (lo + i)) := by
  rw [bits, Nat.testBit_mod_two_pow, Nat.testBit_shiftRight]

/-- A field that a bit set in a word lies beside. -/
theorem bits_or_pow {d e : W32} {k : Nat} (he : e.toNat = 2 ^ k) (hi lo : Nat) (beside : hi < k ∨ k < lo) :
    bits (d ||| e).toNat hi lo = bits d.toNat hi lo := by
  refine Nat.eq_of_testBit_eq fun i => ?_
  rw [testBit_bits, testBit_bits, BitVec.toNat_or, Nat.testBit_or, he, Nat.testBit_two_pow]
  by_cases inside : i < hi + 1 - lo
  · have : k ≠ lo + i := by omega
    simp [this]
  · simp [inside]

/-! ### Invalidation -/

theorem invalScope_go (b : Body) (d : W32) (c vpn : Nat) : invalScope b (d ||| 0x100) c vpn = invalScope b d c vpn := by
  unfold invalScope
  rw [bits_or_pow (k := 8) rfl 7 6 (by decide), bits_or_pow (k := 8) rfl 5 0 (by decide)]

theorem xltInvalWrite_go (d : W32) (b : Body) : xltInvalWrite (d ||| 0x100) b = { b with xlt := { b.xlt with
    cache := b.xlt.cache.filter (fun e => !invalScope b d e.ctx e.vpn),
    inval := b.xlt.inval ++ ((b.xlt.reqs.filter (fun r => invalScope b d r.ctx r.vpn)).map (fun r => (r.line, r.id))).filter
      (fun p => !b.xlt.inval.contains p) } } := by
  unfold xltInvalWrite
  rw [if_neg (by simp)]
  simp only [invalScope_go]

/-- Settles O32. -/
theorem xltInvalidates : Obligations.XltInvalidates := by
  intro s d free
  refine ⟨_, exec_ran (c := .xltInvalGo d) (f := fun _ b => _) free.power rfl rfl
    ((if_neg (by simp [free.held])).trans (xltInvalWrite_go d s.b)), fun e => ?_, fun p => ?_, rfl, rfl, rfl⟩
  · show e ∈ List.filter _ _ ↔ _
    simp
  · refine List.mem_append.trans ?_
    simp only [List.mem_filter, List.mem_map, Bool.not_eq_true', List.contains_eq_mem, decide_eq_false_iff_not]
    constructor
    · rintro (old | ⟨⟨r, ⟨mem, hit⟩, rfl⟩, -⟩)
      · exact .inl old
      · exact .inr ⟨r, mem, hit, rfl⟩
    · rintro (old | ⟨r, mem, hit, rfl⟩)
      · exact .inl old
      · by_cases old : (r.line, r.id) ∈ s.b.xlt.inval
        · exact .inl old
        · exact .inr ⟨⟨r, ⟨mem, hit⟩, rfl⟩, old⟩

/-! ### Contexts -/

theorem unlessHeld_free {off : Nat} {s : State} (f : Body → Body) (h : RegFree s off) : unlessHeld off f s.b = f s.b :=
  if_neg (by simp [h.held])

/-- A context's state stands through a change of others of its fields. -/
theorem chooseVictim_st (b : Body) (d : Nat) : ((chooseVictim b).ctx d).st = (b.ctx d).st := by
  unfold chooseVictim
  split
  · rfl
  · refine foldl_field (fun b => (b.ctx d).st) (fun b r => ?_) _ b
    dsimp only
    split
    · rfl
    · split
      · rfl
      · split
        · rfl
        · exact modCtx_field { b with parts := _ } _ (fun x => { x with evictPending := true }) Ctx.st (fun _ => rfl) d

theorem endEviction_evicting (c : Nat) (b : Body) : ∀ p ∈ (endEviction c b).parts, p.evicting ≠ some c := by
  intro p hp
  obtain ⟨q, -, rfl⟩ := List.mem_map.1 hp
  split
  case isTrue => simp
  case isFalse h => simpa using h

/-- Settles O33. -/
theorem contextsCreatedAndDestroyed : Obligations.ContextsCreatedAndDestroyed := by
  intro s free
  have create := unlessHeld_free ctxCreate free
  have destroy := unlessHeld_free ctxDestroy free
  refine ⟨fun ok => exec_ran free.power rfl rfl (create.trans (if_pos ok)),
    fun bad => exec_ran free.power rfl rfl (create.trans (if_neg (by simp [bad]))),
    fun ok => exec_ran free.power rfl rfl (destroy.trans (if_pos ok)),
    fun b c => ⟨chooseVictim_st b, chooseVictim_mem b, endEviction_evicting c b⟩,
    fun bad => exec_ran free.power rfl rfl (destroy.trans (if_neg (by simp [bad])))⟩

/-! ### Samples of the program counter -/

theorem RegFree.high {s : State} {off : Nat} (power : powered s) (h : 0x1C0000 ≤ off) : RegFree s off := ⟨power, held_high h⟩

theorem pcSampleOp_on {b : Body} (h : b.mrl.pcEn = true) : pcSampleOp b =
    trace 4 (b.mrl.held.map (listCtx b)) 4 ((Config.marlinPc b.freeCtr).toNat + fld 22 19 (stallOf b)
        + fld 28 23 ((b.mrl.held.map (listCtx b)).getD 0) + 2 ^ 31) 0
      { b with freeCtr := b.freeCtr + 1, mrl := { b.mrl with pcSample := BitVec.ofNat 32 ((Config.marlinPc b.freeCtr).toNat
        + fld 22 19 (stallOf b) + fld 28 23 ((b.mrl.held.map (listCtx b)).getD 0) + 2 ^ 31) } } := by
  unfold pcSampleOp
  rw [if_neg (by simp [h])]
  rfl

theorem pcCtrlWrite_on (d : W32) (b : Body) : pcCtrlWrite (d ||| 1) b = { b with mrl := { b.mrl with
    pcEn := true,
    pcShift := if 6 ≤ bits d.toNat 5 1 ∧ bits d.toNat 5 1 ≤ 24 then BitVec.ofNat 5 (bits d.toNat 5 1) else b.mrl.pcShift,
    pcSample := if b.mrl.pcEn then b.mrl.pcSample else b.mrl.pcSample &&& 0x7FFFFFFF } } := by
  have shift : bits (d ||| 1).toNat 5 1 = bits d.toNat 5 1 := bits_or_pow (k := 0) rfl 5 1 (by decide)
  have on : bit (d ||| 1).toNat 0 = true := by simp [bit]
  unfold pcCtrlWrite
  simp only [shift, on, Bool.true_and, Bool.and_eq_true, decide_eq_true_eq]
  by_cases good : 6 ≤ bits d.toNat 5 1 ∧ bits d.toNat 5 1 ≤ 24
  · cases en : b.mrl.pcEn <;> simp [good]
  · cases en : b.mrl.pcEn <;> simp [good, en]

/-- No slice of an assay holds Marlin's registers. -/
theorem held_pcCtrl (b : Body) : held b 0x090010 = false := by
  have free (n : Nat) : sliceHolds n 0x090010 = false := by simp [sliceHolds]
  unfold held
  split
  · split
    · rw [free, Bool.and_false]
    · rfl
  · rfl

/-- Settles O36. -/
theorem pcSampling : Obligations.PcSampling := by
  intro s d power
  refine ⟨exec_ran power rfl rfl ((unlessHeld_free _ ⟨power, held_pcCtrl s.b⟩).trans (pcCtrlWrite_on d s.b)),
    fun off => ?_, fun on => ?_⟩
  · exact exec_ran power rfl rfl (if_pos (by simp [off]))
  · exact ⟨_, _, exec_ran (c := .pcSample) (f := fun _ b => _) power rfl rfl (pcSampleOp_on on), BitVec.isLt _, rfl, rfl, rfl, rfl⟩

/-! ### The tally store's registers -/

theorem talStageOp_stored {t : Tally} (d : W32) (h : t.stageAddr.toNat < talWords t.sel.toNat) :
    talStageOp d t = { t with stage := t.stage.set t.stageAddr.toNat d, stageAddr := t.stageAddr + 1 } := if_neg (by omega)

theorem talStageOp_ignored {t : Tally} (d : W32) (h : talWords t.sel.toNat ≤ t.stageAddr.toNat) : talStageOp d t = t := if_pos h

theorem talGoOp_equal {t : Tally} {b : Body} (check : talGoCheck t b = .ok ()) (same : t.value t.sel.toNat = t.staged) :
    (talGoOp t b).1 = t := by
  unfold talGoOp
  rw [check]
  exact if_pos (by simp [same])

theorem talDone_busy {t : Tally} {k : Nat} {ws : List W32} (busy : t.busy = some (k, ws)) :
    talDone t = { t.append k { words := ws, good := true } with busy := none } := by
  unfold talDone
  rw [busy]

theorem startIfWaiting_idle {s : State} (h : s.b.blk.startWaits = false) : startIfWaiting s = s := if_neg (by simp [h])

theorem talCommitDone_plain {s : State} (busy : s.tal.busy.isSome = true) (after : s.b.blk.afterCommit = none)
    (start : s.b.blk.startWaits = false) : talCommitDone s = { s with tal := talDone s.tal } := by
  unfold talCommitDone
  rw [if_neg (by simpa [Option.isSome_iff_ne_none] using busy)]
  simp only [after, start, Bool.false_eq_true, if_false]
  exact startIfWaiting_idle start

/-- Settles O37. -/
theorem tallyRegisters : Obligations.TallyRegisters := by
  intro s d power
  refine ⟨exec_ranAll power rfl rfl, fun room => exec_ranAll power rfl ?_, fun full => exec_ranAll (f := fun s => s) power rfl ?_,
    fun check changes => exec_talGo_begins power check changes, fun check same => exec_ranAll (f := fun s => s) power rfl ?_,
    fun code check => exec_talGo_refused power check, fun k ws busy after start => exec_ranAll power rfl ?_⟩
  · exact congrArg (fun t => { s with tal := t }) (talStageOp_stored d room)
  · exact congrArg (fun t => { s with tal := t }) (talStageOp_ignored d full)
  · exact congrArg (fun t => { s with tal := t }) (talGoOp_equal check same)
  · refine (talCommitDone_plain (by simp [busy]) after start).trans ?_
    exact congrArg (fun t => { s with tal := t }) (talDone_busy busy)

end Sys2Proof.Machine
end

section
/-! SUPPORT. Control of the trace, and the edges of DX_EN (spec/16 R402, spec/18 R436, R438, R443, R452). -/

namespace Sys2Proof.Machine

/-! ### Triggers -/

/-- A trigger in OFF, where the trace takes no record, leaves ARMED as it is. -/
theorem obsTrigger_off (now source code : Nat) : (obsTrigger now source code { armed := true }).armed = true := rfl

/-- Refutes O35: the statement has every trigger clear ARMED wherever it is 1, but a trigger in STATE 0 (OFF) leaves a body with
ARMED 1 as it is. -/
theorem not_traceControl : ¬ Obligations.TraceControl := by
  intro h
  obtain ⟨-, -, -, -, -, -, -, all⟩ := h {} 0 rfl
  obtain ⟨-, -, -, -, -, cleared, -⟩ := all { obs := { armed := true } }
  exact Bool.noConfusion ((obsTrigger_off _ 0 0).symm.trans (cleared rfl 0 0))

/-! ### DX_EN falls -/

theorem afterHold_same {own : Nat} {old new : Body} (h : frozen new = frozen old) : afterHold own old new = new := by
  unfold afterHold
  rw [h]
  exact if_neg (by simp)

theorem dxEnFallOp_quiet {own : Nat} {b : Body} (on : b.blk.dxEn = true)
    (h : b.blk.shut = true ∨ b.blk.shutting = true ∨ b.blk.dxReady = false) :
    dxEnFallOp own b = { b with blk := { b.blk with dxEn := false, startWaits := false, dxReady := false } } := by
  have quiet : (b.blk.dxReady && !b.blk.shut && !b.blk.shutting) = false := by
    rcases h with h | h | h <;> simp [h]
  unfold dxEnFallOp
  simp only [on, Bool.not_true, Bool.false_eq_true, if_false, quiet]

theorem dxEnFallOp_serving {own : Nat} {b : Body} (on : b.blk.dxEn = true) (ready : b.blk.dxReady = true) (shut : b.blk.shut = false)
    (shutting : b.blk.shutting = false) :
    dxEnFallOp own b =
      let t := shutdownEnd (shutdownBegin own { b with blk := { b.blk with dxEn := false, startWaits := false } })
      { t with blk := { t.blk with dxReady := false } } := by
  unfold dxEnFallOp
  simp only [on, ready, shut, shutting, Bool.not_true, Bool.not_false, Bool.and_self, Bool.false_eq_true, if_false, if_true]

/-- Settles O19. -/
theorem enableFalls : Obligations.EnableFalls := by
  intro s power on
  refine ⟨fun h => ?_, fun ready shut shutting => ?_⟩
  · refine exec_ran power rfl rfl ((congrArg (afterHold s.addr.own s.b) (dxEnFallOp_quiet on h)).trans ?_)
    exact afterHold_same rfl
  · exact exec_ran power rfl rfl (congrArg (afterHold s.addr.own s.b) (dxEnFallOp_serving on ready shut shutting))

/-! ### DX_EN rises -/

theorem dxEnRiseAssay_slice {s : State} {a : Assay} {n : Nat} (fails : List Failure) (off : s.b.blk.dxEn = false)
    (assay : s.b.blk.assay = some a) (cur : a.cur = some n) : dxEnRiseAssay fails s = startIfWaiting (endAssay
      { s with b := nextSlice (slicePartial (logFails n fails (stopSlices (raiseDxEn s.b)))) }) := by
  unfold dxEnRiseAssay
  rw [assay]
  dsimp only
  rw [off, cur]
  rfl

theorem dxEnRiseAssay_done {s : State} {a : Assay} (fails : List Failure) (off : s.b.blk.dxEn = false)
    (assay : s.b.blk.assay = some a) (cur : a.cur = none) : dxEnRiseAssay fails s = startIfWaiting (endAssay
      { s with b := stopSlices (raiseDxEn s.b) }) := by
  unfold dxEnRiseAssay
  rw [assay]
  dsimp only
  rw [off, cur]
  rfl

theorem endAssay_early {t : State} {a : Assay} (assay : t.b.blk.assay = some a) (early : t.b.now < a.start) : endAssay t = t := by
  unfold endAssay
  rw [assay]
  exact if_pos (by simp [early])

/-- Settles O20. -/
theorem riseDuringAssay : Obligations.RiseDuringAssay := by
  intro s fails a power off assay risen stopped
  exact ⟨fun n cur => exec_ranAll power rfl (dxEnRiseAssay_slice fails off assay cur),
    fun cur => exec_ranAll power rfl (dxEnRiseAssay_done fails off assay cur), fun t => endAssay_early⟩

/-! ### A start -/

/-- What decides whether a port carries flits, and its state, is the same in two bodies. -/
structure PortsKept (b b' : Body) : Prop where
  loaded : b'.lay.loaded = b.lay.loaded
  secs : b'.lay.secs = b.lay.secs
  blk : b'.blk = b.blk
  up : ∀ n, (b'.port n).up = (b.port n).up
  down : ∀ n, (b'.port n).down = (b.port n).down
  subst : ∀ n, (b'.port n).subst = (b.port n).subst

theorem PortsKept.refl (b : Body) : PortsKept b b := ⟨rfl, rfl, rfl, fun _ => rfl, fun _ => rfl, fun _ => rfl⟩

theorem PortsKept.trans {a b c : Body} (h : PortsKept a b) (h' : PortsKept b c) : PortsKept a c :=
  ⟨h'.loaded.trans h.loaded, h'.secs.trans h.secs, h'.blk.trans h.blk, fun n => (h'.up n).trans (h.up n), fun n => (h'.down n).trans (h.down n),
    fun n => (h'.subst n).trans (h.subst n)⟩

theorem PortsKept.enabled {b b' : Body} (h : PortsKept b b') (n : Nat) : portEnabled b' n = portEnabled b n := by
  unfold portEnabled portPresent gradeWord Body.layEl
  rw [h.loaded, h.secs, h.blk, h.subst]

theorem PortsKept.modPort {b : Body} (n : Nat) (f : Port → Port) (up : ∀ x, (f x).up = x.up) (down : ∀ x, (f x).down = x.down)
    (subst : ∀ x, (f x).subst = x.subst) : PortsKept b (b.modPort n f) :=
  ⟨rfl, rfl, rfl, modPort_field b n f Port.up up, modPort_field b n f Port.down down, modPort_field b n f Port.subst subst⟩

theorem charge_portsKept (cls unit n : Nat) (b : Body) : PortsKept b (charge cls unit n b) :=
  ⟨rfl, rfl, rfl, fun _ => rfl, fun _ => rfl, fun _ => rfl⟩

theorem sendCtrl_portsKept (n : Nat) (c : CtrlFlit) (b : Body) : PortsKept b (sendCtrl n c b) :=
  (PortsKept.modPort n (fun p => { p with lastCtrl := some c }) (fun _ => rfl) (fun _ => rfl) (fun _ => rfl)).trans
    (charge_portsKept 7 7 1 _)

theorem drainFlits_portsKept (n vc k : Nat) (b : Body) : PortsKept b (drainFlits n vc k b) := by
  unfold drainFlits
  refine PortsKept.trans (PortsKept.modPort n _ (fun x => ?_) (fun x => ?_) (fun x => ?_)) (sendCtrl_portsKept _ _ _)
  all_goals split <;> rfl

theorem consumePacket_portsKept (p : Packet) (b : Body) : PortsKept b (consumePacket p b) := by
  have erased : PortsKept b { b with fab := { b.fab with rx := b.fab.rx.erase p } } :=
    ⟨rfl, rfl, rfl, fun _ => rfl, fun _ => rfl, fun _ => rfl⟩
  unfold consumePacket
  dsimp only
  split
  · exact erased.trans (drainFlits_portsKept _ _ _ _)
  · exact erased

theorem PortsKept.foldl {α : Type} {f : Body → α → Body} (h : ∀ b x, PortsKept b (f b x)) (l : List α) (b : Body) :
    PortsKept b (l.foldl f b) := by
  induction l generalizing b with
  | nil => exact .refl b
  | cons x l ih => exact (h b x).trans (ih _)

theorem workReset_portsKept (b : Body) : PortsKept b (workReset b) :=
  (PortsKept.foldl (fun b p => consumePacket_portsKept p b) b.fab.rx b).trans
    ⟨rfl, rfl, rfl, fun _ => rfl, fun _ => rfl, fun _ => rfl⟩

theorem quarryInit_portsKept (warm : Bool) (b : Body) : PortsKept b (quarryInit warm b) := by
  unfold quarryInit
  split
  · exact .refl b
  · exact ⟨rfl, rfl, rfl, fun _ => rfl, fun _ => rfl, fun _ => rfl⟩

theorem tget_map_range {α : Type} [Inhabited α] (f : Nat → α) (m n : Nat) :
    tget ((List.range m).map f) n = if n < m then f n else default := by
  unfold tget
  split
  case isTrue h => simp [List.getD_eq_getElem?_getD, h]
  case isFalse h => simp [List.getD_eq_getElem?_getD, h]

theorem disablePorts_port (b : Body) (n : Nat) : (disablePorts b).port n = if n < 36
    then (if portEnabled b n then b.port n else { b.port n with up := false, trained := false }) else default := by
  unfold Body.port disablePorts
  dsimp only
  rw [tget_map_range]
  rfl

theorem disablePorts_subst (b : Body) (n : Nat) (hn : n < 36) : ((disablePorts b).port n).subst = (b.port n).subst := by
  rw [disablePorts_port, if_pos hn]
  split <;> rfl

theorem disablePorts_enabled (b : Body) (n : Nat) (hn : n < 36) : portEnabled (disablePorts b) n = portEnabled b n := by
  unfold portEnabled portPresent
  rw [disablePorts_subst b n hn]
  rfl

/-- A port that the grade mask disables is not UP. -/
theorem disablePorts_up {b : Body} {n : Nat} (h : portEnabled (disablePorts b) n = false) : ((disablePorts b).port n).up = false := by
  by_cases hn : n < 36
  · rw [disablePorts_enabled b n hn] at h
    rw [disablePorts_port, if_pos hn, h]
    rfl
  · rw [disablePorts_port, if_neg hn]
    rfl

theorem reservePorts_down (b : Body) (n : Nat) : ((reservePorts b).port n).down = false := by
  unfold Body.port reservePorts
  dsimp only
  rw [tget_map_range]
  split
  · split
    · rfl
    · split <;> rfl
  · rfl

theorem disablePorts_down {b : Body} (h : ∀ n, (b.port n).down = false) (n : Nat) : ((disablePorts b).port n).down = false := by
  rw [disablePorts_port]
  split
  · split <;> exact h n
  · rfl

theorem all_ports {b : Body} {P : Port → Prop} (h : ∀ n, P (b.port n)) : ∀ p ∈ b.fab.ports, P p := by
  intro p hp
  obtain ⟨n, hn, rfl⟩ := List.mem_iff_getElem.1 hp
  have := h n
  unfold Body.port tget at this
  rwa [List.getD_eq_getElem _ _ hn] at this

/-- The block's registers after a start. -/
def startBlk (t : Tally) (b : Body) : Block :=
  { b.blk with
    life := BitVec.ofNat 2 t.life, gradeRead := true, grade := t.value 1,
    substNew := b.blk.started && b.blk.repair != t.value 0, repair := t.value 0,
    kind := b.blk.started, asyPartial := b.blk.started && b.blk.partialLast && b.blk.asyState == 6,
    asyRan := b.blk.started && b.blk.asyState == 6,
    asyState := 0, assay := none, assayNext := false, startWaits := false,
    started := true, shut := false, shutting := false, dxReady := true }

theorem startOp_eq (t : Tally) (b : Body) : startOp t b =
    let w := workReset (quarryInit b.blk.started (disablePorts (reservePorts { b with blk := startBlk t b })))
    { w with lay := { w.lay with pending := true } } := rfl

theorem startOp_ports (t : Tally) (b : Body) :
    PortsKept (disablePorts (reservePorts { b with blk := startBlk t b })) (startOp t b) :=
  (quarryInit_portsKept b.blk.started _).trans ((workReset_portsKept _).trans
    ⟨rfl, rfl, rfl, fun _ => rfl, fun _ => rfl, fun _ => rfl⟩)

theorem startOp_blk (t : Tally) (b : Body) : (startOp t b).blk = startBlk t b := (startOp_ports t b).blk

theorem startOp_up {t : Tally} {b : Body} {n : Nat} (h : portEnabled (startOp t b) n = false) : ((startOp t b).port n).up = false := by
  have kept := startOp_ports t b
  rw [kept.enabled] at h
  rw [kept.up, disablePorts_up h]

theorem startOp_down (t : Tally) (b : Body) (n : Nat) : ((startOp t b).port n).down = false := by
  rw [(startOp_ports t b).down]
  exact disablePorts_down (reservePorts_down _) n

theorem quarryInit_zeroed (warm : Bool) (b : Body) :
    (quarryInit warm b).coil.zeroed = if warm then b.coil.zeroed else BitVec.allOnes 102 := by
  unfold quarryInit
  split <;> rfl

theorem SwitchFrame.coil {b b' : Body} (h : SwitchFrame b b') : b'.coil = b.coil := by
  unfold SwitchFrame at h
  rw [h]

theorem startOp_zeroed (t : Tally) (b : Body) :
    (startOp t b).coil.zeroed = if b.blk.started then b.coil.zeroed else BitVec.allOnes 102 := by
  have kept : ∀ b : Body, (workReset b).coil.zeroed = b.coil.zeroed := fun b =>
    foldl_field (fun b => b.coil.zeroed) (fun b p => congrArg Coil.zeroed (consumePacket_frame p b).coil) b.fab.rx b
  exact (kept _).trans (quarryInit_zeroed _ _)

theorem startOp_parts (t : Tally) (b : Body) : ∀ p ∈ (startOp t b).parts, p.mode = 0 := by
  intro p hp
  obtain ⟨q, -, rfl⟩ := List.mem_map.1 hp
  rfl

theorem dxEnRise_waits {s : State} (off : s.b.blk.dxEn = false) (assay : s.b.blk.assay = none) :
    dxEnRise s = startIfWaiting { s with b := raiseDxEn s.b } := by
  unfold dxEnRise
  simp only [off, assay, Option.isSome_none, Bool.false_eq_true, if_false]

theorem dxEnRise_starts {s : State} (off : s.b.blk.dxEn = false) (assay : s.b.blk.assay = none) (next : s.b.blk.assayNext = false)
    (shutting : s.b.blk.shutting = false) (after : s.b.blk.afterCommit = none) (busy : s.tal.busy = none) :
    dxEnRise s = { s with b := startOp s.tal (raiseDxEn s.b) } := by
  rw [dxEnRise_waits off assay]
  exact if_pos (by simp [raiseDxEn, assay, next, shutting, after, busy])

theorem dxEnRise_held {s : State} (off : s.b.blk.dxEn = false) (assay : s.b.blk.assay = none)
    (h : s.b.blk.shutting = true ∨ s.b.blk.afterCommit ≠ none ∨ s.tal.busy ≠ none) :
    dxEnRise s = { s with b := raiseDxEn s.b } := by
  rw [dxEnRise_waits off assay]
  refine if_neg ?_
  rcases h with h | h | h
  · simp [raiseDxEn, h]
  · simp [raiseDxEn, h]
  · simp [raiseDxEn, h]

/-- Settles O18: the operation of a start, field by field. -/
theorem startRuns : Obligations.StartRuns := by
  intro s power off assay next
  refine ⟨fun shutting after busy => ?_, fun h => exec_ranAll (c := .dxEnRiseStart) (f := fun s => { s with b := raiseDxEn s.b }) power rfl
    (dxEnRise_held off assay h)⟩
  have blk := startOp_blk s.tal (raiseDxEn s.b)
  refine ⟨_, exec_ranAll (c := .dxEnRiseStart) (f := fun s => { s with b := startOp s.tal (raiseDxEn s.b) }) power rfl
    (dxEnRise_starts off assay next shutting after busy), rfl, rfl, congrArg Block.dxEn blk, congrArg Block.dxReady blk,
    congrArg Block.kind blk, congrArg Block.started blk, congrArg Block.repair blk, congrArg Block.grade blk, congrArg Block.life blk,
    rfl, rfl, rfl, rfl, rfl, rfl, rfl, rfl, rfl, startOp_parts _ _, all_ports (startOp_down _ _), fun n h => startOp_up h, startOp_mem _ _,
    startOp_zeroed _ _, rfl, rfl, rfl, rfl⟩

end Sys2Proof.Machine
end

section
/-! SUPPORT. The command port: transfers and records at intake, the outward record, and the commands that a queue or the express path
brings (spec/14 R344 to R357). -/

namespace Sys2Proof.Machine

/-! ### Transfers -/

/-- What a break of framing leaves, but for the event of the record's header (R345). -/
def brokenFrame (b : Body) : Body :=
  { b with cp := { b.cp with partial_ := none, discard := true, frameBad := true, frameBadCnt := b.cp.frameBadCnt + 1 } }

theorem frameBad_nil (b : Body) : frameBad [] b = brokenFrame b := rfl

theorem frameBad_of_ne_nil {ts : List (BitVec 256)} (some_ : ts ≠ []) (b : Body) :
    frameBad ts b = refuse (recordOf (ts.take 1) false) Code.frameBad (brokenFrame b) := by
  cases ts with
  | nil => exact absurd rfl some_
  | cons t ts => rfl

section
variable {ts : List (BitVec 256)} {priv last : Bool} {b : Body}

theorem joinTransfer_done (h : last = true) (n : ts.length = transferCount (ts.headD 0)) :
    joinTransfer ts priv last b = intake (recordOf ts priv) { b with cp := { b.cp with partial_ := none } } := by
  unfold joinTransfer
  simp only [h, beq_iff_eq.2 n, bne_self_eq_false, Bool.false_eq_true, if_false, if_true]

theorem joinTransfer_more (h : last = false) (n : ts.length ≠ transferCount (ts.headD 0)) :
    joinTransfer ts priv last b = { b with cp := { b.cp with partial_ := some (ts, priv) } } := by
  unfold joinTransfer
  simp only [h, beq_eq_false_iff_ne.2 n, bne_self_eq_false, Bool.false_eq_true, if_false]

theorem joinTransfer_broken (h : last = true ∧ ts.length ≠ transferCount (ts.headD 0) ∨ last = false ∧ ts.length = transferCount (ts.headD 0)) :
    joinTransfer ts priv last b = frameBad ts b := by
  unfold joinTransfer
  rcases h with ⟨h, n⟩ | ⟨h, n⟩
  · simp only [h, beq_eq_false_iff_ne.2 n]
    rfl
  · simp only [h, beq_iff_eq.2 n]
    rfl

end

section
variable {b : Body} {x : Transfer}

theorem takeTransfer_first (p : b.cp.partial_ = none) (first : x.first = true) :
    takeTransfer x b = joinTransfer [x.data] x.priv x.last { b with cp := { b.cp with discard := false } } := by
  unfold takeTransfer
  simp only [p, first, if_true]

theorem takeTransfer_stray (p : b.cp.partial_ = none) (first : x.first = false) :
    takeTransfer x b = if b.cp.discard then b else brokenFrame b := by
  unfold takeTransfer
  simp only [p, first, Bool.false_eq_true, if_false]
  rfl

theorem takeTransfer_inside {ts : List (BitVec 256)} {priv : Bool} (p : b.cp.partial_ = some (ts, priv)) :
    takeTransfer x b = if x.first then frameBad ts b else joinTransfer (ts ++ [x.data]) priv x.last b := by
  unfold takeTransfer
  simp only [p]

end

theorem intake_ok {r : CmdRec} {b : Body} (h : intakeCheck r b = .ok ()) : intake r b =
    if expressCode r.code then
      { b with cp := { b.cp with arr := b.cp.arr + 1, express := b.cp.express ++ [{ r with arr := b.cp.arr }] } }
    else { b with cp := { b.cp with arr := b.cp.arr + 1, queue := b.cp.queue ++ [{ r with arr := b.cp.arr }] } } := by
  unfold intake
  rw [h]
  rfl

theorem intake_error {r : CmdRec} {b : Body} {code : Nat} (h : intakeCheck r b = .error code) : intake r b = refuse r code b := by
  unfold intake
  rw [h]

/-- Settles O21: the cases of a transfer by the record that it continues, and the two ends of intake. -/
theorem intakeTakesRecords : Obligations.IntakeTakesRecords := by
  refine ⟨fun s xs power => ⟨fun ready => exec_ran power rfl rfl (if_pos ready), fun off => exec_ran power rfl rfl (if_neg (by simp [off]))⟩,
    fun r b => ⟨intake_ok, fun code => intake_error⟩, ?_⟩
  intro b x ts priv broken after
  refine ⟨fun p first => ?_, fun p first => ?_, fun p some_ first => ?_, fun p some_ first => ?_⟩
  · have head : [x.data].headD 0 = x.data := rfl
    have length : [x.data].length = 1 := rfl
    rw [takeTransfer_first p first]
    refine ⟨fun last n => joinTransfer_done last ?_, fun last n => joinTransfer_more last ?_, fun h => ?_⟩
    · rw [head, length, n]
    · rw [head, length]
      exact n.symm
    · refine (joinTransfer_broken ?_).trans (frameBad_of_ne_nil (List.cons_ne_nil _ _) _)
      rw [head, length]
      exact h.imp (And.imp_right Ne.symm) (And.imp_right Eq.symm)
  · rw [takeTransfer_stray p first]
    exact ⟨fun on => if_pos on, fun off => if_neg (by simp [off])⟩
  · rw [takeTransfer_inside p, if_pos first]
    exact frameBad_of_ne_nil some_ b
  · have head : (ts ++ [x.data]).headD 0 = ts.headD 0 := by
      obtain ⟨t, rest, rfl⟩ := List.exists_cons_of_ne_nil some_
      rfl
    have length : (ts ++ [x.data]).length = ts.length + 1 := by simp
    have one : (ts ++ [x.data]).take 1 = ts.take 1 := by
      obtain ⟨t, rest, rfl⟩ := List.exists_cons_of_ne_nil some_
      rfl
    rw [takeTransfer_inside p, first, if_neg Bool.false_ne_true]
    intro n
    refine ⟨fun last full => joinTransfer_done last ?_, fun last more => joinTransfer_more last ?_, fun h => ?_⟩
    · rw [head, length, full]
    · rwa [head, length]
    · refine (joinTransfer_broken (by rwa [head, length])).trans ?_
      rw [frameBad_of_ne_nil (by simp), one]
      rfl

/-! ### The outward record -/

/-- The bits of the hanks of a record, one after the other. -/
def hankStream (hs : List Hank) : Nat := hs.foldr (fun h acc => h.toNat + 2 ^ 136 * acc) 0

theorem testBit_hankStream (hs : List Hank) (k i : Nat) (hi : i < 136) :
    (hankStream hs).testBit (136 * k + i) = (hs.getD k 0).toNat.testBit i := by
  induction hs generalizing k with
  | nil => simp [hankStream]
  | cons h hs ih =>
    have step : hankStream (h :: hs) = 2 ^ 136 * hankStream hs + h.toNat := Nat.add_comm _ _
    rw [step, Nat.testBit_two_pow_mul_add _ h.isLt]
    cases k with
    | zero => simp [hi]
    | succ k =>
      rw [if_neg (by omega), show 136 * (k + 1) + i - 136 = 136 * k + i by omega, ih k]
      rfl

theorem outTransfers_length (hs : List Hank) : (outTransfers hs).length = cdiv (17 * hs.length) 32 := by
  simp [outTransfers]

theorem outTransfers_data {hs : List Hank} {q : Nat} (h : q < cdiv (17 * hs.length) 32) :
    ((outTransfers hs).getD q {}).data = BitVec.ofNat 256 (hankStream hs >>> (256 * q)) := by
  unfold outTransfers
  rw [List.getD_eq_getElem _ _ (by simpa using h), List.getElem_map, List.getElem_range]
  rfl

/-- Byte j of hank h is byte 17h + j of the transfers (R344). -/
theorem outTransfers_byte {hs : List Hank} {h j : Nat} (hh : h < hs.length) (hj : j < 17) :
    bits ((outTransfers hs).getD ((17 * h + j) / 32) {}).data.toNat (8 * ((17 * h + j) % 32) + 7) (8 * ((17 * h + j) % 32))
      = bits (hs.getD h 0).toNat (8 * j + 7) (8 * j) := by
  have inside : (17 * h + j) / 32 < cdiv (17 * hs.length) 32 := by
    unfold cdiv
    omega
  rw [outTransfers_data inside]
  refine Nat.eq_of_testBit_eq fun t => ?_
  rw [testBit_bits, testBit_bits]
  by_cases ht : t < 8
  · have place : 256 * ((17 * h + j) / 32) + (8 * ((17 * h + j) % 32) + t) = 136 * h + (8 * j + t) := by omega
    have low : 8 * ((17 * h + j) % 32) + t < 256 := by omega
    rw [BitVec.toNat_ofNat, Nat.testBit_mod_two_pow, Nat.testBit_shiftRight, place, testBit_hankStream _ _ _ (by omega)]
    have width (x : Nat) : t < x + 7 + 1 - x := by omega
    simp [low, width]
  · have width (x : Nat) : ¬ t < x + 7 + 1 - x := by omega
    simp [width]

theorem outwardOp_alone {b : Body} {r : OutRec} {rest : List OutRec} (out : b.cp.out = r :: rest) (wait : b.cp.waitOut = []) :
    outwardOp b = act 7 13 0 { b with cp := { b.cp with
      out := rest, oseq := b.cp.oseq + 1, lostFlag := b.cp.lostFlag && !(r.notice && b.cp.lostFlag),
      cpo := some (sentRec (outWords b.cp.oseq.toNat (r.notice && b.cp.lostFlag) r)) } } := by
  unfold outwardOp
  simp only [out, wait, List.length_nil]
  rfl

/-- Settles O22. -/
theorem outwardRecordLeaves : Obligations.OutwardRecordLeaves := by
  intro s r rest power out wait
  exact ⟨exec_ran power rfl rfl (outwardOp_alone out wait),
    fun ws => ⟨rfl, rfl, outTransfers_length _, fun h j hh hj => outTransfers_byte hh hj⟩⟩

end Sys2Proof.Machine
end

section
/-! SUPPORT. Commands at the head of a queue and on the express path (spec/14 R349 to R352), and what the steps of a hold leave of the
hold. -/

namespace Sys2Proof.Machine

/-! ### What leaves the block stopped or not -/

theorem SwitchFrame.frozen {b b' : Body} (h : SwitchFrame b b') : frozen b' = frozen b := by
  unfold SwitchFrame at h
  rw [h]
  rfl

theorem charge_frozen (cls unit n : Nat) (b : Body) : frozen (charge cls unit n b) = frozen b := (charge_frame cls unit n b).frozen

theorem count_frozen (k n : Nat) (c : Option Nat) (b : Body) : frozen (count k n c b) = frozen b := (count_switch k n c b).frozen

theorem pushReply_frozen (r : OutRec) (b : Body) : frozen (pushReply r b) = frozen b := by
  rw [pushReply_frame]
  rfl

theorem refuse_frozen (r : CmdRec) (code : Nat) (b : Body) : frozen (refuse r code b) = frozen b := by
  rw [refuse_frame]
  rfl

theorem refuseRec_frozen (r : CmdRec) (code : Nat) (b : Body) : frozen (refuseRec r code b) = frozen b := refuse_frozen _ _ _

theorem nextSlice_frozen (b : Body) : frozen (nextSlice b) = frozen b := by
  unfold nextSlice
  split
  · rfl
  · dsimp only
    split
    · rfl
    · exact charge_frozen _ _ _ _

theorem startShutdownAssay_frozen (b : Body) : frozen (startShutdownAssay b) = frozen b := by
  unfold startShutdownAssay
  split
  · rfl
  · exact nextSlice_frozen _

theorem globalReply_frozen (r : CmdRec) (status : Nat) (body : List Nat) (b : Body) :
    frozen (globalReply r status body b) = frozen b := (count_frozen _ _ _ _).trans (pushReply_frozen _ _)

theorem shutdownEnd_frozen (b : Body) : frozen (shutdownEnd b) = frozen b := by
  unfold shutdownEnd
  split
  · rfl
  · dsimp only
    split
    · exact (startShutdownAssay_frozen _).trans (globalReply_frozen _ _ _ _)
    · rfl

/-! ### A record at the head of its queue -/

section
variable {own q k : Nat} {b : Body} {r : CmdRec} (f : CmdRec → Body → Body)

theorem withHead_waits (head : headRec b q = some r) (h : headWaits b r = true ∨ holdStops b k = true) :
    withHead own q k f b = b := by
  unfold withHead
  rw [head]
  rcases h with h | h
  · simp [h]
  · simp [h]

theorem withHead_refused {code : Nat} (head : headRec b q = some r) (kind : r.code = k) (wait : headWaits b r = false)
    (hold : holdStops b k = false) (check : acceptCheck own r b = .error code) : withHead own q k f b = refuseRec r code b := by
  unfold withHead
  simp [head, kind, wait, hold, check]

theorem withExpress_refused {code : Nat} (first : b.cp.express.find? (fun x => x.code == k) = some r) (hold : holdStops b k = false)
    (check : acceptCheck own r b = .error code) : withExpress own k f b = refuseRec r code b := by
  unfold withExpress
  simp [first, hold, check]

theorem acceptable_waits (head : headRec b q = some r) (h : headWaits b r = true ∨ holdStops b k = true) :
    acceptable own q k b = none := by
  unfold acceptable
  rw [head]
  rcases h with h | h
  · simp [h]
  · simp [h]

theorem acceptable_refused {code : Nat} (head : headRec b q = some r) (check : acceptCheck own r b = .error code) :
    acceptable own q k b = none := by
  unfold acceptable
  simp [head, check]

theorem commandRow_head {c : Nat} (none_ : heldReady b c k = none) : commandRow own c k f b = withHead own c k f b := by
  unfold commandRow
  rw [none_]

theorem commandRow_held {c : Nat} {o : Open} (held : heldReady b c k = some o) : commandRow own c k f b = startHeld o.oid b := by
  unfold commandRow
  rw [held]

end

/-- A row of a register command that is not accepted has the effect of its head. -/
theorem regCommand_head {q code : Nat} {s : State} (f : CmdRec → State → State) (h : acceptable s.addr.own q code s.b = none) :
    regCommand q code f s = { s with b := withHead s.addr.own q code (fun _ b => b) s.b } := by
  unfold regCommand
  rw [h]

/-- A head that is not accepted, for a row of any command that a queue brings: what becomes of the head, and the end of the row. -/
theorem headRow_unaccepted {s : State} {i : Instr} {q k : Nat} {t : Body} (power : powered s) (row : headRow i = some (q, k))
    (held : ∀ c, i = .routeStep c ∨ i = .combine c ∨ i = .copy c → heldReady s.b c.toNat k = none)
    (head : ∀ f, withHead s.addr.own q k f s.b = t) (not_ : acceptable s.addr.own q k s.b = none) (stopped : frozen t = frozen s.b) :
    exec i s = ran s (fun own _ => rowEnd i own t) := by
  have one : ∀ (own : Nat) (f : CmdRec → Body → Body), heldReady s.b q k = none → own = s.addr.own →
      driveAll own (commandRow own q k f s.b) = driveAll own t := fun own f none_ same => by
    rw [commandRow_head f none_, same, head]
  cases i <;> cases row
  case loadLay.refl => exact exec_ran power rfl rfl (head _)
  case applySplice.refl => exact exec_ran power rfl rfl (head _)
  case shutdown.refl =>
    refine exec_ran power rfl rfl ((congrArg (fun x => afterHold s.addr.own s.b (shutdownEnd x)) (head _)).trans ?_)
    exact afterHold_same ((shutdownEnd_frozen t).trans stopped)
  case routeStep.refl c => exact exec_ran power rfl rfl (one _ _ (held c (.inl rfl)) rfl)
  case combine.refl c => exact exec_ran power rfl rfl (one _ _ (held c (.inr (.inl rfl))) rfl)
  case copy.refl c => exact exec_ran power rfl rfl (one _ _ (held c (.inr (.inr rfl))) rfl)
  case collect.refl c => exact exec_ran power rfl rfl (head _)
  case muster.refl c => exact exec_ran power rfl rfl (head _)
  case saveContext.refl c => exact exec_ran power rfl rfl (head _)
  case regRead.refl q =>
    refine exec_ranAll (c := .regRead q) (f := fun s => { s with b := t }) power rfl ((regCommand_head regReadOp not_).trans ?_)
    rw [head]
  case regWrite.refl q =>
    refine exec_ranAll (c := .regWrite q) (f := fun s => { s with b := t }) power rfl ((regCommand_head regWriteOp not_).trans ?_)
    rw [head]

theorem dumpReady_refused {own code : Nat} {b : Body} {r : CmdRec} (first : b.cp.express.find? (fun x => x.code == Cmd.dump) = some r)
    (check : acceptCheck own r b = .error code) : dumpReady own b = none := by
  unfold dumpReady
  simp [first, check]

theorem wholeOp_dump_waits {s : State} (h : dumpReady s.addr.own s.b = none) :
    wholeOp .dump s = { s with b := withExpress s.addr.own Cmd.dump (fun _ b => b) s.b } := by
  show (match dumpReady s.addr.own s.b with | some r => dumpOp r s | none => _) = _
  rw [h]

theorem wholeOp_dump_runs {s : State} {r : CmdRec} (h : dumpReady s.addr.own s.b = some r) : wholeOp .dump s = dumpOp r s := by
  show (match dumpReady s.addr.own s.b with | some r => dumpOp r s | none => _) = _
  rw [h]

/-- A record off the express path that is refused, for a row of any command that joins no queue. -/
theorem expressRow_refused {s : State} {i : Instr} {k code : Nat} {r : CmdRec} (power : powered s) (row : expressRow i = some k)
    (first : s.b.cp.express.find? (fun x => x.code == k) = some r) (hold : holdStops s.b k = false)
    (check : acceptCheck s.addr.own r s.b = .error code) : exec i s = ran s (fun own b => rowEnd i own (refuseRec r code b)) := by
  have refused := fun f => withExpress_refused f first hold check
  cases i <;> cases row
  case dispatch.refl => exact exec_ran power rfl rfl (congrArg (driveAll s.addr.own) (refused _))
  case cancelBatch.refl => exact exec_ran power rfl rfl (congrArg (driveAll s.addr.own) (refused _))
  case resume.refl => exact exec_ran power rfl rfl (congrArg (driveAll s.addr.own) (refused _))
  case dump.refl =>
    refine exec_ranAll (c := .dump) (f := fun s => { s with b := refuseRec r code s.b }) power rfl
      ((wholeOp_dump_waits (dumpReady_refused first check)).trans ?_)
    rw [refused]

/-- The reply of a refused record, where the outward store has room. -/
theorem refuse_reply {r : CmdRec} {code : Nat} {b : Body} (wait : b.cp.waitOut = []) (room : replyHeld b + 1 ≤ replyRoom) :
    (refuse r code b).cp.out = b.cp.out ++ [{
      kind := r.code, ctx := if r.isGlobal then none else some r.ctx, shown := r.ctx, seq := r.seq, status := code }] := by
  have counted : ∀ (n k : Nat) (c : Option Nat) (b : Body), (count n k c b).cp = b.cp := fun n k c b => by rw [count_frame]
  have taken : (layErr r.code code b).cp = b.cp := by rw [layErr_frame]
  unfold refuse
  rw [counted]
  show (pushReply _ (layErr r.code code b)).cp.out = _
  have held : replyHeld (layErr r.code code b) = replyHeld b := by
    unfold replyHeld outHeld
    rw [taken]
  rw [pushReply_room (taken ▸ wait) (by rw [held]; simpa [OutRec.size] using room) rfl]
  show (layErr r.code code b).cp.out ++ _ = _
  rw [taken]
  rfl

/-- Settles O24. -/
theorem headsRefusedOrWait : Obligations.HeadsRefusedOrWait := by
  refine ⟨fun r code b wait room => ⟨refuse_reply wait room, refuse_mem r code b, by rw [refuse_frame]⟩,
    fun s i q k r power row head kind held => ⟨fun h => ?_, fun code wait hold check => ?_⟩,
    fun s i k r power row first hold code check => expressRow_refused power row first hold check⟩
  · exact headRow_unaccepted power row held (fun f => withHead_waits f head h) (acceptable_waits head h) rfl
  · exact headRow_unaccepted power row held (fun f => withHead_refused f head kind wait hold check) (acceptable_refused head check)
      (refuseRec_frozen r code s.b)

/-- Settles O25. -/
theorem headCommandsRun : Obligations.HeadCommandsRun := by
  intro s c r
  refine ⟨fun h => ?_, fun h => ?_, fun h => ?_, fun h => ?_, fun h => ?_, fun h => ?_⟩
  · exact exec_ran h.power rfl rfl (withHead_run _ h)
  · exact exec_ran h.power rfl rfl (withHead_run _ h)
  · exact exec_ran h.power rfl rfl (withHead_run _ h)
  · exact exec_ran h.power rfl rfl (withHead_run _ h)
  · exact exec_ran h.power rfl rfl (withHead_run _ h)
  · exact exec_ran h.power rfl rfl (congrArg (fun x => afterHold s.addr.own s.b (shutdownEnd x)) (withHead_run _ h))

theorem startHeld_plain {oid : Nat} {b : Body} (h : (routeOf b oid).bind RouteWork.gen = none) : startHeld oid b = unhold oid b := by
  unfold startHeld
  rw [h]

theorem startHeld_homed {oid u : Nat} {b : Body} (h : (routeOf b oid).bind RouteWork.gen = some u) :
    startHeld oid b = (unhold oid b).modGen u (fun g => { g with home := { g.home with opened := true } }) := by
  unfold startHeld
  rw [h]

/-- Settles O26. -/
theorem contextCommandsRun : Obligations.ContextCommandsRun := by
  intro s c power
  have held {k : Nat} {o : Open} (f : CmdRec → Body → Body) (h : heldReady s.b c.toNat k = some o) :
      driveAll s.addr.own (commandRow s.addr.own c.toNat k f s.b) = driveAll s.addr.own (startHeld o.oid s.b) :=
    congrArg (driveAll s.addr.own) (commandRow_held f h)
  have head {k : Nat} {r : CmdRec} (f : CmdRec → Body → Body) (h : HeadRuns s c.toNat k r) (none_ : heldReady s.b c.toNat k = none) :
      driveAll s.addr.own (commandRow s.addr.own c.toNat k f s.b) = driveAll s.addr.own (f r s.b) :=
    congrArg (driveAll s.addr.own) ((commandRow_head f none_).trans (withHead_run f h))
  exact ⟨fun o h => exec_ran power rfl rfl (held _ h), fun o h => exec_ran power rfl rfl (held _ h),
    fun o h => exec_ran power rfl rfl (held _ h), fun r h none_ => exec_ran power rfl rfl (head _ h none_),
    fun r h none_ => exec_ran power rfl rfl (head _ h none_), fun r h none_ => exec_ran power rfl rfl (head _ h none_),
    fun oid b => ⟨startHeld_plain, fun u => startHeld_homed⟩⟩

theorem resumeOp_run {own : Nat} {r : CmdRec} {b : Body} (h : (b.ctx r.ctx).st = .run) :
    resumeOp own r b = acceptDoneAs own r Code.notFaulted 0 [0, 0, 0, 0] b := by
  unfold resumeOp
  dsimp only
  rw [h]

/-- Settles O27. -/
theorem expressCommandsRun : Obligations.ExpressCommandsRun := by
  intro s r
  refine ⟨fun h => ?_, fun h => ?_, fun h => ?_, fun h run => ?_, fun power ready => ?_⟩
  · exact exec_ran h.power rfl rfl (congrArg (driveAll s.addr.own) (withExpress_run _ h))
  · exact exec_ran h.power rfl rfl (congrArg (driveAll s.addr.own) (withExpress_run _ h))
  · exact exec_ran h.power rfl rfl (congrArg (driveAll s.addr.own) (withExpress_run _ h))
  · exact exec_ran h.power rfl rfl (congrArg (driveAll s.addr.own) ((withExpress_run _ h).trans (resumeOp_run run)))
  · exact exec_ranAll power rfl (wholeOp_dump_runs ready)

end Sys2Proof.Machine
end

section
/-! SUPPORT. The control register of a group (spec/10 R224, R231). -/

namespace Sys2Proof.Machine

/-- What a write of GRP_CTRL leaves of the group's fields before OPEN or ABORT acts (R231, log 26). -/
def groupFields (n : Nat) (d : W32) (b : Body) : Body := b.modGroup n (fun g => { g with
  openBad := g.openBad && !d.getLsbD 1,
  quota := if groupBusy b n then g.quota else BitVec.ofNat 6 (bits d.toNat 7 2),
  part := if groupBusy b n then g.part else BitVec.ofNat 2 (bits d.toNat 9 8) })

theorem bits_eq_of_testBit {x y hi lo : Nat} (same : ∀ i, lo ≤ i → i ≤ hi → x.testBit i = y.testBit i) : bits x hi lo = bits y hi lo := by
  refine Nat.eq_of_testBit_eq fun i => ?_
  rw [testBit_bits, testBit_bits]
  by_cases inside : i < hi + 1 - lo
  · rw [same (lo + i) (by omega) (by omega)]
  · simp [inside]

/-- The write of a word that agrees with `d` in bits 1 to 9. -/
theorem groupCtrlWrite_fields (own n : Nat) {d e : W32} (b : Body) (same : ∀ i, 1 ≤ i → i ≤ 9 → e.getLsbD i = d.getLsbD i) :
    groupCtrlWrite own n e b =
      if e.getLsbD 11 then (if groupLive (b.group n) then abortGroup own n (groupFields n d b) else b)
      else if e.getLsbD 0 then
        if groupBusy b n then openBad n (groupFields n d b)
        else openGroup own n ((groupFields n d b).modGroup n (fun g => { g with opened := false, closing := false }))
      else closeGroup n (groupFields n d b) := by
  have clear : bit e.toNat 1 = d.getLsbD 1 := same 1 (by decide) (by decide)
  have quota : bits e.toNat 7 2 = bits d.toNat 7 2 := bits_eq_of_testBit fun i _ _ => same i (by omega) (by omega)
  have part : bits e.toNat 9 8 = bits d.toNat 9 8 := bits_eq_of_testBit fun i _ _ => same i (by omega) (by omega)
  unfold groupCtrlWrite groupFields
  dsimp only
  rw [clear, quota, part]
  rfl

theorem getLsbD_or_one (d : W32) {i : Nat} (h : i ≠ 0) : (d ||| 1).getLsbD i = d.getLsbD i := by
  rw [BitVec.getLsbD_or]
  simp [BitVec.getLsbD_one, h]

theorem getLsbD_or_abort (d : W32) {i : Nat} (h : i ≠ 11) : (d ||| 0x800).getLsbD i = d.getLsbD i := by
  rw [BitVec.getLsbD_or, show (0x800 : W32) = BitVec.twoPow 32 11 from rfl, BitVec.getLsbD_twoPow]
  simp [h.symm]

theorem getLsbD_and_close (d : W32) {i : Nat} (h : 1 ≤ i) (below : i < 32) : (d &&& 0xFFFFFFFE).getLsbD i = d.getLsbD i := by
  have ones : ∀ i : Fin 32, 1 ≤ i.val → (0xFFFFFFFE : W32).getLsbD i.val = true := by decide
  rw [BitVec.getLsbD_and, ones ⟨i, below⟩ h, Bool.and_true]

/-- A write with OPEN 1 and ABORT 0. -/
theorem groupCtrlWrite_open (own n : Nat) {d : W32} (b : Body) (abort : d.getLsbD 11 = false) :
    groupCtrlWrite own n (d ||| 1) b =
      if groupBusy b n then openBad n (groupFields n d b)
      else openGroup own n ((groupFields n d b).modGroup n (fun g => { g with opened := false, closing := false })) := by
  rw [groupCtrlWrite_fields own n b (fun i _ _ => getLsbD_or_one d (by omega)), getLsbD_or_one d (by decide), abort,
    if_neg Bool.false_ne_true, if_pos (by simp)]

/-- A write with OPEN 0 and ABORT 0. -/
theorem groupCtrlWrite_close (own n : Nat) {d : W32} (b : Body) (abort : d.getLsbD 11 = false) :
    groupCtrlWrite own n (d &&& 0xFFFFFFFE) b = closeGroup n (groupFields n d b) := by
  rw [groupCtrlWrite_fields own n b (fun i _ _ => getLsbD_and_close d (by omega) (by omega)),
    getLsbD_and_close d (by decide) (by decide), abort, if_neg Bool.false_ne_true, if_neg (by simp)]

/-- A write with ABORT 1. -/
theorem groupCtrlWrite_abort (own n : Nat) (d : W32) (b : Body) :
    groupCtrlWrite own n (d ||| 0x800) b = if groupLive (b.group n) then abortGroup own n (groupFields n d b) else b := by
  rw [groupCtrlWrite_fields own n b (fun i _ _ => getLsbD_or_abort d (by omega)), if_pos (by simp)]

theorem openGroup_bad_quota {own n : Nat} {b : Body}
    (h : (b.group n).quota.toNat = 0 ∨ 48 < otherQuotas b n + (b.group n).quota.toNat) : openGroup own n b = openBad n b := by
  unfold openGroup
  refine if_pos ?_
  rcases h with zero | large
  · have : (b.group n).quota = 0 := BitVec.eq_of_toNat_eq zero
    simp [this]
  · simp [large]

theorem quota_fits {g : Group} {others : Nat} (quota : g.quota.toNat ≠ 0) (room : others + g.quota.toNat ≤ 48) :
    ¬ (g.quota == 0 || others + g.quota.toNat > 48) = true := by
  have nonzero : (g.quota == 0) = false := beq_false_of_ne fun h => quota (congrArg BitVec.toNat h)
  rw [nonzero, Bool.false_or, decide_eq_true_eq]
  omega

/-- OPEN with quotas that fit, where the member table reads. -/
theorem openGroup_members {own n : Nat} {b b' : Body} {ms : List Nat} (quota : (b.group n).quota.toNat ≠ 0)
    (room : otherQuotas b n + (b.group n).quota.toNat ≤ 48) (read : Io.on (readMembers (b.group n)) b = (.ok (some ms), b')) :
    openGroup own n b = if ascending ms && ms.contains own then openWith own n ms b' else openBad n b' := by
  unfold openGroup
  dsimp only
  rw [if_neg (quota_fits quota room), read]

/-- OPEN with quotas that fit, where the member table lies outside the memory or its read fails. -/
theorem openGroup_unread {own n : Nat} {b b' : Body} {x : Stop} (quota : (b.group n).quota.toNat ≠ 0)
    (room : otherQuotas b n + (b.group n).quota.toNat ≤ 48)
    (read : Io.on (readMembers (b.group n)) b = (.ok none, b') ∨ Io.on (readMembers (b.group n)) b = (.error x, b')) :
    openGroup own n b = openBad n b' := by
  unfold openGroup
  dsimp only
  rw [if_neg (quota_fits quota room)]
  rcases read with read | read <;> rw [read]

/-- Settles O34. -/
theorem groupControl : Obligations.GroupControl := by
  intro s n d free
  have row := fun (f : Body → Body) => unlessHeld_free (off := 0x101000 + 0x20 * n.toNat) (fun b => shutdownEnd (f b)) free
  refine ⟨fun abort idle => ?_, fun abort busy => ?_, fun abort => ?_, fun live => ?_, fun dead => ?_, fun own b => ⟨?_, ?_, ?_⟩⟩
  · exact exec_ran free.power rfl rfl ((row _).trans (congrArg shutdownEnd
      ((groupCtrlWrite_open _ _ s.b abort).trans (if_neg (by simp [idle])))))
  · exact exec_ran free.power rfl rfl ((row _).trans (congrArg shutdownEnd
      ((groupCtrlWrite_open _ _ s.b abort).trans (if_pos busy))))
  · exact exec_ran free.power rfl rfl ((row _).trans (congrArg shutdownEnd (groupCtrlWrite_close _ _ s.b abort)))
  · exact exec_ran free.power rfl rfl ((row _).trans (congrArg shutdownEnd
      ((groupCtrlWrite_abort _ _ d s.b).trans (if_pos live))))
  · exact exec_ran free.power rfl rfl ((row _).trans (congrArg shutdownEnd
      ((groupCtrlWrite_abort _ _ d s.b).trans (if_neg (by simp [dead])))))
  · exact openGroup_bad_quota
  · exact fun b' x quota room read => openGroup_unread quota room read
  · intro b' ms quota room read
    have opens := openGroup_members (own := own) quota room read
    refine ⟨fun sorted mine => opens.trans (if_pos ?_), fun bad => opens.trans (if_neg ?_)⟩
    · rw [sorted, mine]
      rfl
    · rcases bad with bad | bad <;> rw [bad] <;> simp

end Sys2Proof.Machine
end

section
/-! SUPPORT. The assay by command, its slices and its end (spec/18 R444 to R456). -/

namespace Sys2Proof.Machine

/-! ### GO and the wrapper -/

/-- The fields of a write of ASY_CTRL (Table 18.10, log 26). -/
def assayFields (d : W32) (b : Body) : Body := { b with blk := { b.blk with
  autoCommit := d.getLsbD 1, first := BitVec.ofNat 7 (bits d.toNat 8 2), last := BitVec.ofNat 7 (bits d.toNat 15 9) } }

theorem asyCtrlWrite_go (d : W32) (b : Body) : asyCtrlWrite (d ||| 1) b = asyGoOp (assayFields d b) := by
  unfold asyCtrlWrite assayFields
  rw [getLsbD_or_one d (by decide), bits_or_pow (k := 0) rfl 8 2 (by decide), bits_or_pow (k := 0) rfl 15 9 (by decide)]
  exact if_pos (by simp)

theorem bits_lt (x hi lo : Nat) : bits x hi lo < 2 ^ (hi + 1 - lo) := Nat.mod_lt _ (Nat.two_pow_pos _)

theorem asyGoOp_starts {d : W32} {b : Body} (check : asyGoCheck b = .ok ()) :
    (asyGoOp (assayFields d b)).1 = startAssay true (bits d.toNat 8 2)
      ((List.range 122).filter (fun n => bits d.toNat 8 2 ≤ n && n ≤ bits d.toNat 15 9)) (assayFields d b) := by
  have first : (BitVec.ofNat 7 (bits d.toNat 8 2)).toNat = bits d.toNat 8 2 := Nat.mod_eq_of_lt (bits_lt _ 8 2)
  have last : (BitVec.ofNat 7 (bits d.toNat 15 9)).toNat = bits d.toNat 15 9 := Nat.mod_eq_of_lt (bits_lt _ 15 9)
  have same : asyGoCheck (assayFields d b) = .ok () := check
  unfold asyGoOp
  rw [same]
  show startAssay true (BitVec.ofNat 7 (bits d.toNat 8 2)).toNat ((List.range 122).filter (fun n =>
    (BitVec.ofNat 7 (bits d.toNat 8 2)).toNat ≤ n && n ≤ (BitVec.ofNat 7 (bits d.toNat 15 9)).toNat)) _ = _
  rw [first, last]

theorem asyGoOp_refused {d : W32} {b : Body} {code : Nat} (check : asyGoCheck b = .error code) :
    (asyGoOp (assayFields d b)).1 = assayFields d b := by
  have same : asyGoCheck (assayFields d b) = .error code := check
  unfold asyGoOp
  rw [same]

theorem wrapperShift_open {b : Body} (d : W32) (h : wrapperOpen b = true) : wrapperShift d b =
    { b with blk := { b.blk with data1500 := Config.wrapperOut b.blk.ctrl1500.toNat d.toNat b.freeCtr }, freeCtr := b.freeCtr + 1 } :=
  if_neg (by simp [h])

theorem wrapperShift_shut {b : Body} (d : W32) (h : wrapperOpen b = false) : wrapperShift d b = b := if_pos (by simp [h])

/-! ### Slices -/

theorem sliceEnd_cur {b : Body} {n t : Nat} (fails : List Failure) (cur : curSlice b = some (n, t)) (hold : b.pwr.holding = false) :
    sliceEnd fails b = if t + (Config.saveTicks n).toNat ≤ b.now && b.now - t < b.blk.budget.toNat then
      nextSlice (sliceComplete n (logFails n fails b)) else b := by
  unfold sliceEnd
  rw [cur]
  exact if_neg (by simp [hold])

theorem sliceExpire_cur {b : Body} {n t : Nat} (fails : List Failure) (cur : curSlice b = some (n, t)) (hold : b.pwr.holding = false) :
    sliceExpire fails b = if t ≤ b.now && b.blk.budget.toNat ≤ b.now - t then nextSlice (slicePartial (logFails n fails b)) else b := by
  unfold sliceExpire
  rw [cur]
  exact if_neg (by simp [hold])

theorem sliceEnd_holding {b : Body} (fails : List Failure) (hold : b.pwr.holding = true) : sliceEnd fails b = b := by
  unfold sliceEnd
  split
  · rfl
  · exact if_pos hold

theorem sliceExpire_holding {b : Body} (fails : List Failure) (hold : b.pwr.holding = true) : sliceExpire fails b = b := by
  unfold sliceExpire
  split
  · rfl
  · exact if_pos hold

/-! ### The end of an assay -/

/-- The choice at the end of an assay changes the repair map, and the assay is to commit its choice (R450). -/
def assayWants (s : State) (a : Assay) : Bool :=
  (chooseMap (s.tal.value 0) s.b).words != s.tal.value 0 && (!a.byCommand || s.b.blk.autoCommit)

/-- The block as an assay leaves it (R449, R450). -/
def assayOver (s : State) (a : Assay) : Block := { s.b.blk with
  assay := none, next := BitVec.ofNat 7 (nextAfter a), unrepaired := (chooseMap (s.tal.value 0) s.b).unrepaired,
  noBudget := assayWants s a && decide (s.tal.used 0 ≥ talBudget 0), partialLast := assayIncomplete a }

/-- The words of its N_ASSAY (R451). -/
def assayWords (s : State) (a : Assay) : List Nat :=
  assayNotice { s.b with blk := assayOver s a } a (chooseMap (s.tal.value 0) s.b)
    ((chooseMap (s.tal.value 0) s.b).words != s.tal.value 0) (assayWants s a && !decide (s.tal.used 0 ≥ talBudget 0))
    (assayWants s a && decide (s.tal.used 0 ≥ talBudget 0))

theorem raiseAssay_blk {ws : List Nat} {b : Body} (h : b.blk.assayNext = false) :
    (raiseAssay ws b).blk = { b.blk with asyState := 6, afterCommit := none } := by
  have blk : ∀ code c seq status hanks body unit (b : Body), (notice code c seq status hanks body unit b).blk = b.blk := by
    intro code c seq status hanks body unit b
    rw [notice_frame]
  unfold raiseAssay
  dsimp only
  rw [blk, if_neg (by simp [h]), blk]

section
variable {s : State} {a : Assay} (running : s.b.blk.assay = some a) (last : a.cur = none) (restored : a.start ≤ s.b.now)
  (idle : s.tal.busy = none)
include running last restored idle

/-- An assay that commits its choice. -/
theorem endAssay_commits (wants : assayWants s a = true) (budget : s.tal.used 0 < talBudget 0) :
    endAssay s = { s with
      tal := s.tal.begin 0 (chooseMap (s.tal.value 0) s.b).words,
      b := { s.b with blk := { assayOver s a with afterCommit := some (assayWords s a) } } } := by
  have spent : ¬ s.tal.used 0 ≥ talBudget 0 := by omega
  unfold endAssay
  rw [running]
  dsimp only
  rw [if_neg (by simp [last, idle, restored])]
  exact if_pos (by simpa [assayWants, spent] using wants)

/-- An assay that commits nothing. -/
theorem endAssay_raises (keeps : assayWants s a = false ∨ talBudget 0 ≤ s.tal.used 0) :
    endAssay s = { s with b := raiseAssay (assayWords s a) { s.b with blk := assayOver s a } } := by
  unfold endAssay
  rw [running]
  dsimp only
  rw [if_neg (by simp [last, idle, restored])]
  refine if_neg ?_
  show ¬ (assayWants s a && !decide (s.tal.used 0 ≥ talBudget 0)) = true
  rcases keeps with keeps | keeps <;> simp [keeps]

/-- What an assay leaves of the block. -/
theorem endAssay_blk (next : s.b.blk.assayNext = false) :
    ∃ (st : BitVec 3) (ws : Option (List Nat)), (endAssay s).b.blk = { assayOver s a with asyState := st, afterCommit := ws } := by
  by_cases commits : assayWants s a = true ∧ s.tal.used 0 < talBudget 0
  · exact ⟨_, _, congrArg (fun t => t.b.blk) (endAssay_commits running last restored idle commits.1 commits.2)⟩
  · have keeps : assayWants s a = false ∨ talBudget 0 ≤ s.tal.used 0 := by
      rcases Bool.eq_false_or_eq_true (assayWants s a) with wants | wants
      · exact .inr (by simpa [wants] using commits)
      · exact .inl wants
    exact ⟨6, none, (congrArg (fun t => t.b.blk) (endAssay_raises running last restored idle keeps)).trans
      (raiseAssay_blk (b := { s.b with blk := assayOver s a }) next)⟩

end

theorem begin_changed {t : Tally} {k : Nat} {ws : List W32} (h : ws ≠ t.value k) : t.begin k ws = { t with busy := some (k, ws) } :=
  if_neg (by simpa using h.symm)

/-- ASSAY_END of an assay by command or at a shutdown, once its last slice is restored. -/
theorem exec_assayEnd_over {s : State} {a : Assay} (power : powered s) (running : s.b.blk.assay = some a) (last : a.cur = none)
    (restored : a.start ≤ s.b.now) (idle : s.tal.busy = none) (waits : s.b.blk.startWaits = false) (next : s.b.blk.assayNext = false) :
    exec .assayEnd s = ranAll s endAssay := by
  refine exec_ranAll power rfl (startIfWaiting_idle ?_)
  obtain ⟨st, ws, h⟩ := endAssay_blk running last restored idle next
  rw [h]
  exact waits

/-- Settles O39. -/
theorem assayRuns : Obligations.AssayRuns := by
  intro s d fails power
  have go := unlessHeld_free (off := 0x200204) (fun b => (asyCtrlWrite (d ||| 1) b).1) (RegFree.high power (by decide))
  have go' := go.trans (congrArg Prod.fst (asyCtrlWrite_go d s.b))
  have shift := unlessHeld_free (off := 0x200264) (wrapperShift d) (RegFree.high power (by decide))
  refine ⟨fun check => ?_, fun code check => ?_, fun opened => ?_, fun shut => ?_, fun n t cur hold => ⟨fun early => ?_,
    fun saved within => ?_, fun begun spent => ?_⟩, fun hold => ⟨?_, ?_⟩, fun a running last restored idle waits next => ?_⟩
  · exact exec_ran power rfl rfl (go'.trans (asyGoOp_starts check))
  · exact exec_ran power rfl rfl (go'.trans (asyGoOp_refused check))
  · exact ⟨_, _, exec_ran (c := .asy1500Shift d) (f := fun _ b => _) power rfl rfl (shift.trans (wrapperShift_open d opened)),
      rfl, rfl, rfl⟩
  · exact exec_ran power rfl rfl (shift.trans (wrapperShift_shut d shut))
  · exact exec_ran power rfl rfl ((sliceEnd_cur fails cur hold).trans (if_neg (by simp; omega)))
  · exact exec_ran power rfl rfl ((sliceEnd_cur fails cur hold).trans (if_pos (by simp [saved, within])))
  · exact exec_ran power rfl rfl ((sliceExpire_cur fails cur hold).trans (if_pos (by simp [begun, spent])))
  · exact exec_ran power rfl rfl (sliceEnd_holding fails hold)
  · exact exec_ran power rfl rfl (sliceExpire_holding fails hold)
  · obtain ⟨st, ws, blk⟩ := endAssay_blk running last restored idle next
    refine ⟨_, exec_assayEnd_over power running last restored idle waits next, endAssay_addr s, ?_, endAssay_mem s, ?_, ?_, ?_,
      fun changed asked budget => ?_, fun same => ?_⟩
    · exact congrArg Block.assay blk
    · exact congrArg Block.unrepaired blk
    · exact congrArg Block.next blk
    · exact congrArg Block.partialLast blk
    · have wants : assayWants s a = true := by simpa [assayWants, changed] using asked
      have ends := endAssay_commits running last restored idle wants budget
      refine ⟨?_, ?_⟩
      · exact (congrArg State.tal ends).trans (begin_changed changed)
      · exact (congrArg Block.noBudget blk).trans (by simp [assayOver, budget])
    · have wants : assayWants s a = false := by simp [assayWants, same]
      have ends := endAssay_raises running last restored idle (.inl wants)
      have tal : (endAssay s).tal = s.tal := by rw [ends]
      exact ⟨tal, (congrArg Block.noBudget blk).trans (by simp [assayOver, wants])⟩

end Sys2Proof.Machine
end

section
/-! SUPPORT. Rails, temperature, pace, the ceiling and the throttle (spec/17 R415 to R431). -/

namespace Sys2Proof.Machine

/-! ### What steps of power leave of the work -/

/-- The memory, the states of the contexts and the open commands stand. -/
structure WorkKept (b b' : Body) : Prop where
  mem : b'.mem = b.mem
  states : b'.ctxs.map Ctx.st = b.ctxs.map Ctx.st
  opens : b'.opens = b.opens

theorem WorkKept.refl (b : Body) : WorkKept b b := ⟨rfl, rfl, rfl⟩

theorem WorkKept.trans {a b c : Body} (h : WorkKept a b) (h' : WorkKept b c) : WorkKept a c :=
  ⟨h'.mem.trans h.mem, h'.states.trans h.states, h'.opens.trans h.opens⟩

theorem WorkKept.foldl {α : Type} {f : Body → α → Body} (h : ∀ b x, WorkKept b (f b x)) (l : List α) (b : Body) :
    WorkKept b (l.foldl f b) :=
  ⟨foldl_field Body.mem (fun b x => (h b x).mem) l b, foldl_field (fun b => b.ctxs.map Ctx.st) (fun b x => (h b x).states) l b,
    foldl_field Body.opens (fun b x => (h b x).opens) l b⟩

theorem map_tmod_of_field {α β : Type} [Inhabited α] (l : List α) (i : Nat) (f : α → α) (g : α → β) (h : ∀ x, g (f x) = g x) :
    (tmod l i f).map g = l.map g := by
  unfold tmod tget
  rw [List.map_set, h]
  refine List.ext_getElem (by simp) fun k h1 h2 => ?_
  rw [List.getElem_set]
  split
  case isTrue same =>
    subst same
    simp only [List.length_map] at h2
    simp [h2]
  case isFalse => rfl

theorem count_workKept (k n : Nat) (c : Option Nat) (b : Body) : WorkKept b (count k n c b) := by
  cases c with
  | none => exact ⟨rfl, rfl, rfl⟩
  | some c =>
    unfold count
    dsimp only
    split
    · exact ⟨rfl, map_tmod_of_field _ _ _ _ (fun _ => rfl), rfl⟩
    · exact ⟨rfl, rfl, rfl⟩

theorem pwr_workKept (p : Pwr) (b : Body) : WorkKept b { b with pwr := p } := ⟨rfl, rfl, rfl⟩

theorem modPort_workKept (n : Nat) (f : Port → Port) (b : Body) : WorkKept b (b.modPort n f) := ⟨rfl, rfl, rfl⟩

theorem charge_workKept (cls unit n : Nat) (b : Body) : WorkKept b (charge cls unit n b) := ⟨rfl, rfl, rfl⟩

theorem act_workKept (cls unit inst : Nat) (b : Body) : WorkKept b (act cls unit inst b) := ⟨rfl, rfl, rfl⟩

theorem pumpPort_workKept (n fuel : Nat) (b : Body) : WorkKept b (pumpPort n fuel b) := by
  induction fuel generalizing b with
  | zero => exact .refl b
  | succ fuel ih =>
    unfold pumpPort
    dsimp only
    split
    · exact .refl b
    · split
      · exact .refl b
      · refine WorkKept.trans ?_ ((act_workKept _ _ _ _).trans (ih _))
        split
        · exact (modPort_workKept n _ b).trans (count_workKept _ _ _ _)
        · exact ⟨rfl, rfl, rfl⟩

theorem drainFlits_workKept (n vc k : Nat) (b : Body) : WorkKept b (drainFlits n vc k b) := by
  unfold drainFlits sendCtrl
  dsimp only
  exact (modPort_workKept n _ b).trans ((modPort_workKept n _ _).trans (charge_workKept 7 7 1 _))

theorem pump_workKept (n : Nat) (b : Body) : WorkKept b (pump n b) :=
  (modPort_workKept n _ b).trans (pumpPort_workKept n _ _)

theorem thaw_workKept (b : Body) : WorkKept b (thaw b) := by
  refine WorkKept.foldl (fun b n => WorkKept.trans (WorkKept.foldl (fun b v => ?_) _ _) (pump_workKept n _)) _ _
  split
  · exact .refl b
  · exact drainFlits_workKept _ _ _ _

theorem raiseDraw_workKept (cause w2 w3 : Nat) (b : Body) : WorkKept b (raiseDraw cause w2 w3 b) := by
  rw [raiseDraw_frame]
  exact ⟨rfl, rfl, rfl⟩

/-! ### A change of the causes of a hold -/

theorem changeHold_workKept (f : Pwr → Pwr) (b : Body) : WorkKept b (changeHold f b) := by
  unfold changeHold
  dsimp only
  split
  · exact pwr_workKept _ b
  · split
    · exact (pwr_workKept _ b).trans (raiseDraw_workKept _ _ _ _)
    · exact (pwr_workKept _ b).trans (thaw_workKept _)

theorem changeHold_same {f : Pwr → Pwr} {b : Body} (h : b.pwr.holding = (f b.pwr).holding) : changeHold f b = { b with pwr := f b.pwr } :=
  if_pos (by simp [h])

theorem changeHold_begins {f : Pwr → Pwr} {b : Body} (was : b.pwr.holding = false) (holds : (f b.pwr).holding = true) :
    changeHold f b = raiseDraw 0 b.pwr.c (staticP b / 1000) { b with pwr := { f b.pwr with heldSince := b.now } } := by
  unfold changeHold
  dsimp only
  rw [if_neg (by simp [was, holds]), if_pos holds]

/-! ### Rails, temperature and pace -/

/-- The rails as read, before the hold of a low VZS (R415). -/
def railRead (vzc vzs : BitVec 10) (b : Body) : Body := { accrue b with pwr := { (accrue b).pwr with
  vzc := vzc, vzs := vzs, railLow := b.pwr.railLow || (vzc.toNat < 650 || vzs.toNat < 750),
  railHigh := b.pwr.railHigh || (vzc.toNat > 850 || vzs.toNat > 900) } }

/-- The hold of a low VZS (R415). -/
def railHold (vzs : BitVec 10) (b : Body) : Body :=
  if vzs.toNat < 740 then changeHold (fun p => { p with sramHold := true }) b
  else if 750 ≤ vzs.toNat then changeHold (fun p => { p with sramHold := false }) b else b

theorem railOp_eq (vzc vzs : BitVec 10) (b : Body) : railOp vzc vzs b =
    if (vzc.toNat < 650 || vzs.toNat < 750) || (vzc.toNat > 850 || vzs.toNat > 900) then
      raiseDraw 5 vzc.toNat vzs.toNat (railHold vzs (railRead vzc vzs b))
    else railHold vzs (railRead vzc vzs b) := by
  have low : (accrue b).pwr.railLow = b.pwr.railLow := by rw [accrue_frame]
  have high : (accrue b).pwr.railHigh = b.pwr.railHigh := by rw [accrue_frame]
  unfold railOp railRead
  dsimp only
  rw [low, high]
  rfl

theorem railHold_workKept (vzs : BitVec 10) (b : Body) : WorkKept b (railHold vzs b) := by
  unfold railHold
  split
  · exact changeHold_workKept _ _
  · split
    · exact changeHold_workKept _ _
    · exact .refl b

/-- The hold of a low VZS keeps the rails and their flags. -/
theorem railHold_pwr (vzs : BitVec 10) (b : Body) :
    (railHold vzs b).pwr.vzc = b.pwr.vzc ∧ (railHold vzs b).pwr.vzs = b.pwr.vzs ∧ (railHold vzs b).pwr.railLow = b.pwr.railLow
      ∧ (railHold vzs b).pwr.railHigh = b.pwr.railHigh
      ∧ (railHold vzs b).pwr.sramHold = if vzs.toNat < 740 then true else if 750 ≤ vzs.toNat then false else b.pwr.sramHold := by
  unfold railHold
  split
  · rw [changeHold_pwr]
    exact ⟨rfl, rfl, rfl, rfl, rfl⟩
  · split
    · rw [changeHold_pwr]
      exact ⟨rfl, rfl, rfl, rfl, rfl⟩
    · exact ⟨rfl, rfl, rfl, rfl, rfl⟩

/-- N_DRAW of RAIL keeps the power registers but what has been raised. -/
theorem railOp_pwr (vzc vzs : BitVec 10) (b : Body) : (railOp vzc vzs b).pwr = { (railHold vzs (railRead vzc vzs b)).pwr with
    raised := (railOp vzc vzs b).pwr.raised } := by
  rw [railOp_eq]
  split
  · rw [raiseDraw_frame]
  · rfl

theorem railOp_workKept (vzc vzs : BitVec 10) (b : Body) : WorkKept b (railOp vzc vzs b) := by
  have held : WorkKept b (railHold vzs (railRead vzc vzs b)) :=
    WorkKept.trans (b := railRead vzc vzs b) ⟨rfl, rfl, rfl⟩ (railHold_workKept vzs _)
  rw [railOp_eq]
  split
  · exact held.trans (raiseDraw_workKept _ _ _ _)
  · exact held

theorem railOp_registers (vzc vzs : BitVec 10) (b : Body) :
    (railOp vzc vzs b).pwr.vzc = vzc ∧ (railOp vzc vzs b).pwr.vzs = vzs
      ∧ (railOp vzc vzs b).pwr.railLow = (b.pwr.railLow || decide (vzc.toNat < 650 ∨ vzs.toNat < 750))
      ∧ (railOp vzc vzs b).pwr.railHigh = (b.pwr.railHigh || decide (850 < vzc.toNat ∨ 900 < vzs.toNat))
      ∧ (railOp vzc vzs b).pwr.sramHold
        = (if vzs.toNat < 740 then true else if 750 ≤ vzs.toNat then false else b.pwr.sramHold) := by
  have sram : (railRead vzc vzs b).pwr.sramHold = b.pwr.sramHold := by
    show (accrue b).pwr.sramHold = _
    rw [accrue_frame]
  obtain ⟨c, s, low, high, hold⟩ := railHold_pwr vzs (railRead vzc vzs b)
  rw [railOp_pwr]
  refine ⟨c, s, low.trans ?_, high.trans ?_, hold.trans (by rw [sram])⟩
  · rw [Bool.decide_or]
    rfl
  · rw [Bool.decide_or]
    rfl

theorem accrue_tj (b : Body) : (accrue b).pwr.tj = b.pwr.tj := by rw [accrue_frame]

theorem tempOp_below {tj : BitVec 8} {sensor : BitVec 4} {b : Body} (h : 105 ≤ b.pwr.tj.toNat ∨ tj.toNat < 105) :
    tempOp tj sensor b = { accrue b with pwr := { (accrue b).pwr with tj := tj, sensor := sensor } } := by
  unfold tempOp
  dsimp only
  rw [accrue_tj]
  exact if_neg (by simp; omega)

theorem tempOp_rises {tj : BitVec 8} {sensor : BitVec 4} {b : Body} (was : b.pwr.tj.toNat < 105) (rise : 105 ≤ tj.toNat) :
    tempOp tj sensor b = raiseDraw 6 tj.toNat sensor.toNat
      { accrue b with pwr := { (accrue b).pwr with tj := tj, sensor := sensor, hot := true } } := by
  unfold tempOp
  dsimp only
  rw [accrue_tj]
  exact if_pos (by simp [was, rise])

/-- Away from a tie the pace is the count scaled and rounded to nearest (R417). -/
theorem paceRate_nearest {count : Nat} (k : Nat) (h : count * 10000 % 65536 ≠ 32768) :
    paceRate count k = (count * 10000 + 32768) / 65536 := by
  unfold paceRate
  dsimp only
  rcases Nat.lt_trichotomy (count * 10000 % 65536) 32768 with below | tie | above
  · rw [if_pos below]
    omega
  · exact absurd tie h
  · rw [if_neg (by omega), if_pos above]
    omega

theorem paceEndOp_new {count : BitVec 32} {b : Body} (tie : count.toNat * 10000 % 65536 ≠ 32768) (window : b.now / 65536 ≠ 0)
    (new : b.pwr.paceWin ≠ some (b.now / 65536)) : paceEndOp count b =
      let r := BitVec.ofNat 16 ((count.toNat * 10000 + 32768) / 65536)
      { b with freeCtr := b.freeCtr + 1, pwr := { b.pwr with
          rate := r, min := if r < b.pwr.min then r else b.pwr.min, max := if b.pwr.max < r then r else b.pwr.max,
          paceWin := some (b.now / 65536) } } := by
  rw [← paceRate_nearest b.freeCtr tie]
  exact if_neg (by simp [window, new])

theorem paceEndOp_old {count : BitVec 32} {b : Body} (h : b.now / 65536 = 0 ∨ b.pwr.paceWin = some (b.now / 65536)) :
    paceEndOp count b = b := if_pos (by rcases h with h | h <;> simp [h])

/-- Settles O40. -/
theorem powerReadings : Obligations.PowerReadings := by
  intro s vzc vzs tj sensor count power
  refine ⟨exec_ran power rfl rfl rfl, fun b => ?_, fun h => exec_ran power rfl rfl (tempOp_below h),
    fun was rise => exec_ran power rfl rfl (tempOp_rises was rise), fun tie window new => ?_,
    fun h => exec_ran power rfl rfl (paceEndOp_old h), ?_⟩
  · obtain ⟨c, v, low, high, hold⟩ := railOp_registers vzc vzs b
    obtain ⟨mem, states, opens⟩ := railOp_workKept vzc vzs b
    exact ⟨c, v, low, high, hold, mem, states, opens⟩
  · exact exec_ran power rfl rfl (paceEndOp_new tie window new)
  · exact exec_ran power rfl rfl (unlessHeld_free paceClrOp (RegFree.high power (by decide)))

/-! ### The ceiling and the throttle -/

theorem effectiveCeil_accrue (b : Body) : effectiveCeil (accrue b) = effectiveCeil b := by
  conv_lhs => rw [accrue_frame]
  rfl

theorem staticP_accrue (b : Body) : staticP (accrue b) = staticP b := by
  conv_lhs => rw [accrue_frame]
  rfl

/-- The bucket after a window's gain and cap, from which what the window has drawn then comes off (R8, R427). -/
theorem windowBucket_accrue (b : Body) (c : Nat) : windowBucket (accrue b) c =
    let spent := if (accrue b).pwr.winAt = b.now / 1024 then (accrue b).pwr.winSpent else 0
    min ((accrue b).pwr.bucket + spent + (c * 1024000 : Nat)) (2 * (c * 1024000 : Nat)) - spent := by
  have spent : windowSpent (accrue b) = if (accrue b).pwr.winAt = b.now / 1024 then (accrue b).pwr.winSpent else 0 := by
    unfold windowSpent
    simp only [beq_iff_eq]
    rfl
  unfold windowBucket
  rw [spent]
  rfl

/-- The registers of a window, before a hold ends and N_DRAW is raised (R427, R431). -/
def windowSet (b : Body) : Body := { accrue b with pwr := { (accrue b).pwr with
  c := (effectiveCeil b).1, source := (effectiveCeil b).2, bucket := windowBucket (accrue b) (effectiveCeil b).1,
  floor := (effectiveCeil b).1 * 1000 ≤ staticP (accrue b), ceilLost := !(accrue b).pwr.ceilValid, win := some (windowOf b.now) } }

/-- A window that leaves the bucket above 0 ends the throttle's hold (R427). -/
def windowFree (b : Body) : Body :=
  if 0 < windowBucket (accrue b) (effectiveCeil b).1 then changeHold (fun p => { p with binding := false }) (windowSet b)
  else windowSet b

theorem windowOp_same {b : Body} (h : b.pwr.win = some (b.now / 1024)) : windowOp b = b := if_pos (by simp [h, windowOf])

theorem windowOp_new {b : Body} (h : b.pwr.win ≠ some (b.now / 1024)) : windowOp b =
    if (effectiveCeil b).1 * 1000 ≤ staticP (windowFree b) then
      raiseDraw 4 (effectiveCeil b).1 (staticP (windowFree b) / 1000) (windowFree b)
    else windowFree b := by
  unfold windowOp
  rw [if_neg (by simp [h, windowOf])]
  unfold windowFree windowSet
  rw [← effectiveCeil_accrue b]
  rfl

theorem windowFree_workKept (b : Body) : WorkKept b (windowFree b) := by
  have set : WorkKept b (windowSet b) := ⟨rfl, rfl, rfl⟩
  unfold windowFree
  split
  · exact set.trans (changeHold_workKept _ _)
  · exact set

/-- A window keeps its registers when a hold ends and N_DRAW is raised. -/
theorem windowOp_pwr {b : Body} (h : b.pwr.win ≠ some (b.now / 1024)) :
    (windowOp b).pwr = { (windowFree b).pwr with raised := (windowOp b).pwr.raised } := by
  rw [windowOp_new h]
  split
  · rw [raiseDraw_frame]
  · rfl

theorem windowOp_workKept (b : Body) : WorkKept b (windowOp b) := by
  by_cases h : b.pwr.win = some (b.now / 1024)
  · rw [windowOp_same h]
    exact .refl b
  · rw [windowOp_new h]
    split
    · exact (windowFree_workKept b).trans (raiseDraw_workKept _ _ _ _)
    · exact windowFree_workKept b

theorem windowFree_registers (b : Body) :
    (windowFree b).pwr.win = some (b.now / 1024) ∧ (windowFree b).pwr.c = (effectiveCeil b).1
      ∧ (windowFree b).pwr.source = (effectiveCeil b).2 ∧ (windowFree b).pwr.floor = (windowSet b).pwr.floor := by
  unfold windowFree
  split
  · rw [changeHold_pwr]
    exact ⟨rfl, rfl, rfl, rfl⟩
  · exact ⟨rfl, rfl, rfl, rfl⟩

theorem windowSet_binding (b : Body) : (windowSet b).pwr.binding = b.pwr.binding := by
  show (accrue b).pwr.binding = _
  rw [accrue_frame]

theorem windowSet_sramHold (b : Body) : (windowSet b).pwr.sramHold = b.pwr.sramHold := by
  show (accrue b).pwr.sramHold = _
  rw [accrue_frame]

theorem windowFree_binding (b : Body) : (windowFree b).pwr.binding
    = (b.pwr.binding && decide (windowBucket (accrue b) (effectiveCeil b).1 ≤ 0)) := by
  unfold windowFree
  split
  case isTrue filled =>
    rw [changeHold_pwr]
    simp [filled]
  case isFalse empty =>
    rw [windowSet_binding]
    simp [Int.not_lt.1 empty]

/-- A window that ends no hold leaves the bucket as filled. -/
theorem windowFree_bucket {b : Body} (h : b.pwr.binding = false ∨ b.pwr.sramHold = true
      ∨ windowBucket (accrue b) (effectiveCeil b).1 ≤ 0) :
    (windowFree b).pwr.bucket = windowBucket (accrue b) (effectiveCeil b).1 := by
  unfold windowFree
  split
  case isTrue filled =>
    have same : (windowSet b).pwr.holding = ({ (windowSet b).pwr with binding := false } : Pwr).holding := by
      unfold Pwr.holding
      rw [windowSet_binding, windowSet_sramHold]
      rcases h with h | h | h
      · simp [h]
      · simp [h]
      · omega
    rw [changeHold_same same]
    rfl
  case isFalse => rfl

theorem ceilChangeOp_plain {c : BitVec 12} {v : Bool} {b : Body} (h : b.pwr.ceilValid = false ∨ v = true) :
    ceilChangeOp c v b = { b with
      pwr := changeCeil b.now (fun p => { p with ceilIn := c, ceilValid := v, ceilLost := !v }) b.pwr } :=
  if_neg (by rcases h with h | h <;> simp [h])

theorem ceilChangeOp_lost {c : BitVec 12} {b : Body} (h : b.pwr.ceilValid = true) :
    ceilChangeOp c false b = raiseDraw 3 b.pwr.ceilFail.toNat b.pwr.ceilIn.toNat { b with
      pwr := changeCeil b.now (fun p => { p with ceilIn := c, ceilValid := false, ceilLost := true }) b.pwr } :=
  if_pos (by simp [h])

theorem holdStartOp_none {b : Body} (h : b.pwr.binding = true ∨ 0 < (accrue b).pwr.bucket) : holdStartOp b = accrue b := by
  have binding : (accrue b).pwr.binding = b.pwr.binding := by rw [accrue_frame]
  refine if_neg ?_
  rw [binding]
  rcases h with h | h
  · rw [h, Bool.not_true, Bool.and_false]
    exact Bool.false_ne_true
  · rw [decide_eq_false (Int.not_le.2 h)]
    exact Bool.false_ne_true

theorem holdStartOp_starts {b : Body} (was : b.pwr.binding = false) (empty : (accrue b).pwr.bucket ≤ 0) :
    holdStartOp b = changeHold (fun p => { p with binding := true }) (accrue b) := by
  have binding : (accrue b).pwr.binding = b.pwr.binding := by rw [accrue_frame]
  refine if_pos ?_
  rw [binding, was, decide_eq_true empty]
  rfl

/-- A hold that starts keeps the bucket and the contexts. -/
theorem changeHold_binding (b : Body) :
    (changeHold (fun p => { p with binding := true }) b).pwr.binding = true
      ∧ (changeHold (fun p => { p with binding := true }) b).pwr.bucket = b.pwr.bucket
      ∧ (changeHold (fun p => { p with binding := true }) b).mem = b.mem
      ∧ (changeHold (fun p => { p with binding := true }) b).ctxs = b.ctxs := by
  rcases Bool.eq_false_or_eq_true b.pwr.holding with was | was
  · rw [changeHold_same (was.trans rfl)]
    exact ⟨rfl, rfl, rfl, rfl⟩
  · rw [changeHold_begins was rfl, raiseDraw_frame]
    exact ⟨rfl, rfl, rfl, rfl⟩

/-- Settles O41. -/
theorem ceilingAndThrottle : Obligations.CeilingAndThrottle := by
  intro s c v power
  refine ⟨fun h => exec_ran power rfl rfl (ceilChangeOp_plain h), fun h => exec_ran power rfl rfl (ceilChangeOp_lost h),
    exec_ran power rfl rfl rfl, fun b => ⟨windowOp_same, fun new => ?_⟩, fun was empty => ?_,
    fun h => exec_ran power rfl rfl (holdStartOp_none h)⟩
  · obtain ⟨win, ceil, source, floor⟩ := windowFree_registers b
    obtain ⟨mem, states, opens⟩ := windowOp_workKept b
    have pwr := windowOp_pwr new
    refine ⟨(congrArg Pwr.win pwr).trans win, (congrArg Pwr.c pwr).trans ceil, (congrArg Pwr.source pwr).trans source,
      (congrArg Pwr.floor pwr).trans (floor.trans ?_), (congrArg Pwr.binding pwr).trans ?_, fun keeps => ?_, mem, states, opens⟩
    · show decide ((effectiveCeil b).1 * 1000 ≤ staticP (accrue b)) = _
      rw [staticP_accrue]
    · rw [windowFree_binding, windowBucket_accrue]
    · rw [← windowBucket_accrue] at keeps
      exact (congrArg Pwr.bucket pwr).trans ((windowFree_bucket keeps).trans (windowBucket_accrue b _))
  · have holds := changeHold_binding (accrue s.b)
    rw [← holdStartOp_starts was empty] at holds
    obtain ⟨binding, bucket, mem, ctxs⟩ := holds
    exact ⟨_, exec_ran (c := .throttleHoldStart) (f := fun _ b => holdStartOp b) power rfl rfl rfl, binding, bucket, rfl, rfl, mem, ctxs⟩

end Sys2Proof.Machine
end

section
/-! SUPPORT. The published draw, the account of a second, and wear (spec/17 R422 to R425, spec/18 R453, R454). -/

namespace Sys2Proof.Machine

/-! ### The account of a second -/

theorem secondEndOp_old {b : Body} (h : secondOf b = 0 ∨ b.pwr.ended = some (secondOf b - 1)) : secondEndOp b = b :=
  if_pos (by rcases h with h | h <;> simp [h])

/-- The account of the second that has ended, before BREACH (R425). -/
def secondOver (b : Body) : Body := { accrue b with pwr := { (accrue b).pwr with
  actLast := (accrue b).pwr.endEnergy / 10 ^ 12, ended := some (secondOf b - 1) } }

theorem secondEndOp_new {b : Body} (second : secondOf b ≠ 0) (new : b.pwr.ended ≠ some (secondOf b - 1)) : secondEndOp b =
    if declOf (accrue b) (secondOf b - 1) * 10 ^ 12 < (accrue b).pwr.endEnergy then
      raiseDraw 1 ((accrue b).pwr.endEnergy / 10 ^ 12) (declOf (accrue b) (secondOf b - 1))
        { secondOver b with pwr := { (secondOver b).pwr with breached := true } }
    else secondOver b :=
  if_neg (by simp [second, new])

theorem declOf_accrue (b : Body) (s : Nat) : declOf (accrue b) s = declOf b s := by
  conv_lhs => rw [accrue_frame]
  rfl

theorem secondOver_breached (b : Body) : (secondOver b).pwr.breached = b.pwr.breached := by
  show (accrue b).pwr.breached = _
  rw [accrue_frame]

theorem secondEndOp_registers {b : Body} (second : secondOf b ≠ 0) (new : b.pwr.ended ≠ some (secondOf b - 1)) :
    (secondEndOp b).pwr.ended = some (secondOf b - 1) ∧ (secondEndOp b).pwr.actLast = (accrue b).pwr.endEnergy / 10 ^ 12
      ∧ (secondEndOp b).pwr.breached
        = (b.pwr.breached || decide (declOf b (secondOf b - 1) * 10 ^ 12 < (accrue b).pwr.endEnergy)) := by
  rw [secondEndOp_new second new, declOf_accrue]
  split
  case isTrue breach =>
    rw [raiseDraw_frame, decide_eq_true breach]
    exact ⟨rfl, rfl, (Bool.or_true _).symm⟩
  case isFalse kept =>
    rw [decide_eq_false kept, secondOver_breached]
    exact ⟨rfl, rfl, (Bool.or_false _).symm⟩

/-- The account of a second touches the power registers, the command port and the observation unit. -/
theorem secondEndOp_frame (b : Body) : secondEndOp b = { b with
    pwr := (secondEndOp b).pwr, cp := (secondEndOp b).cp, obs := (secondEndOp b).obs } := by
  by_cases h : secondOf b = 0 ∨ b.pwr.ended = some (secondOf b - 1)
  · rw [secondEndOp_old h]
  · rw [not_or] at h
    rw [secondEndOp_new h.1 h.2]
    split
    · rw [raiseDraw_frame]
      rfl
    · rfl

/-- It keeps what is published and the hints. -/
theorem secondEndOp_hints (b : Body) : (secondEndOp b).pwr.hint = b.pwr.hint ∧ (secondEndOp b).pwr.hintAt = b.pwr.hintAt
    ∧ (secondEndOp b).pwr.hintDefault = b.pwr.hintDefault ∧ (secondEndOp b).pwr.strobes = b.pwr.strobes := by
  have kept : (accrue b).pwr.hint = b.pwr.hint ∧ (accrue b).pwr.hintAt = b.pwr.hintAt
      ∧ (accrue b).pwr.hintDefault = b.pwr.hintDefault ∧ (accrue b).pwr.strobes = b.pwr.strobes := by
    rw [accrue_frame]
    exact ⟨rfl, rfl, rfl, rfl⟩
  by_cases h : secondOf b = 0 ∨ b.pwr.ended = some (secondOf b - 1)
  · rw [secondEndOp_old h]
    exact ⟨rfl, rfl, rfl, rfl⟩
  · rw [not_or] at h
    rw [secondEndOp_new h.1 h.2]
    split
    · rw [raiseDraw_frame]
      exact kept
    · exact kept

theorem secondEndOp_ended {b : Body} (h : 0 < secondOf b) : (secondEndOp b).pwr.ended = some (secondOf b - 1) := by
  by_cases done : b.pwr.ended = some (secondOf b - 1)
  · rw [secondEndOp_old (.inr done)]
    exact done
  · exact (secondEndOp_registers (by omega) done).1

/-! ### The publication -/

theorem drawAt_hint (b : Body) : (drawAt b).pwr.hint =
    if b.pwr.hintAt = some (secondOf b) then b.pwr.hint else b.pwr.hint.drop 1 ++ [b.pwr.hintDefault.toNat] := by
  obtain ⟨hint, hintAt, default_, -⟩ := secondEndOp_hints b
  show ((secondEndOp b).pwr.shiftOnce (secondOf b)).hint = _
  unfold Pwr.shiftOnce
  rw [hintAt]
  simp only [beq_iff_eq]
  split
  · exact hint
  · show shiftHints _ = _
    unfold shiftHints
    rw [hint, default_]

/-- The power registers that the shift of the hints leaves. -/
theorem shiftOnce_kept (s : Nat) (p : Pwr) : (p.shiftOnce s).ended = p.ended ∧ (p.shiftOnce s).strobes = p.strobes := by
  unfold Pwr.shiftOnce
  split <;> exact ⟨rfl, rfl⟩

theorem raiseOver_frame (bins : List Nat) (b : Body) : raiseOver bins b = { b with
    pwr := { b.pwr with raised := (raiseOver bins b).pwr.raised }, cp := (raiseOver bins b).cp, obs := (raiseOver bins b).obs } := by
  unfold raiseOver
  split
  · rw [raiseDraw_frame]
  · rfl

theorem le_cdiv {h x n : Nat} (pos : 0 < n) (le : h * n ≤ x) : h ≤ cdiv x n := by
  unfold cdiv
  rw [Nat.le_div_iff_mul_le pos]
  omega

/-- A bin at any scale of its fractions, so that the model's scale need not be evaluated. -/
def binWith (scale own : Nat) (b : Body) (i : Nat) : Nat :=
  min 1180 (cdiv ((staticP b + 1000 * b.pwr.hint.getD i 0) * scale + queuedNj own b i * b.pwr.vzc.toNat ^ 2) (1000 * scale))

theorem binOf_scale (own : Nat) (b : Body) (i : Nat) : binOf own b i = binWith (750 ^ 2 * 10 ^ 5) own b i := rfl

theorem binScale_pos : 0 < 750 ^ 2 * 10 ^ 5 := by norm_num

theorem binOf_scaled (own : Nat) (b : Body) (i : Nat) : ∃ scale, 0 < scale ∧ binOf own b i = binWith scale own b i :=
  ⟨750 ^ 2 * 10 ^ 5, binScale_pos, binOf_scale own b i⟩

theorem binWith_bounds {scale : Nat} (pos : 0 < scale) (own : Nat) (b : Body) (i : Nat) :
    binWith scale own b i ≤ 1180 ∧ min 1180 (b.pwr.hint.getD i 0) ≤ binWith scale own b i := by
  unfold binWith
  refine ⟨Nat.min_le_left _ _, min_le_min_left 1180 (le_cdiv (by omega) ?_)⟩
  calc b.pwr.hint.getD i 0 * (1000 * scale) = 1000 * b.pwr.hint.getD i 0 * scale := by ring
    _ ≤ (staticP b + 1000 * b.pwr.hint.getD i 0) * scale + queuedNj own b i * b.pwr.vzc.toNat ^ 2 :=
      (Nat.mul_le_mul_right scale (Nat.le_add_left _ _)).trans (Nat.le_add_right _ _)

/-- A bin is at most 118.0 W (R422). -/
theorem binOf_le (own : Nat) (b : Body) (i : Nat) : binOf own b i ≤ 1180 := by
  obtain ⟨scale, pos, bin⟩ := binOf_scaled own b i
  exact bin.trans_le (binWith_bounds pos own b i).1

/-- A bin is at least the hint, up to 118.0 W (R424). -/
theorem hint_le_binOf (own : Nat) (b : Body) (i : Nat) : min 1180 (b.pwr.hint.getD i 0) ≤ binOf own b i := by
  obtain ⟨scale, pos, bin⟩ := binOf_scaled own b i
  exact (binWith_bounds pos own b i).2.trans_eq bin.symm

theorem getD_map_range (f : Nat → Nat) {n i : Nat} (h : i < n) : ((List.range n).map f).getD i 0 = f i := by
  simp [h]

theorem drawBins_getD (own : Nat) (b : Body) {i : Nat} (h : i < 60) : (drawBins own b).getD i 0 = binOf own (drawAt b) i :=
  getD_map_range (binOf own (drawAt b)) h

/-- What DRAW_PUBLISH publishes, once for each second. -/
theorem publishOp_new (own : Nat) {b : Body} (new : b.pwr.published ≠ some (secondOf b)) :
    publishOp own b = raiseOver (drawBins own b) (publication (secondOf b) (drawBins own b) (drawAt b)) :=
  (publishOp_eq own b).trans (if_neg (by simp [new]))

theorem publication_registers (s : Nat) (bins : List Nat) (b : Body) :
    (publication s bins b).pwr.published = some s ∧ (publication s bins b).pwr.fcSeq = BitVec.ofNat 32 s
      ∧ (publication s bins b).pwr.strobes = b.pwr.strobes + 1 ∧ (publication s bins b).pwr.hint = b.pwr.hint
      ∧ (publication s bins b).pwr.ended = b.pwr.ended ∧ (publication s bins b).pwr.fc = bins
      ∧ (publication s bins b).ctxs = b.ctxs := ⟨rfl, rfl, rfl, rfl, rfl, rfl, rfl⟩

/-- OVER keeps what is published. -/
theorem raiseOver_registers (bins : List Nat) (b : Body) :
    (raiseOver bins b).pwr.published = b.pwr.published ∧ (raiseOver bins b).pwr.fcSeq = b.pwr.fcSeq
      ∧ (raiseOver bins b).pwr.strobes = b.pwr.strobes ∧ (raiseOver bins b).pwr.hint = b.pwr.hint
      ∧ (raiseOver bins b).pwr.ended = b.pwr.ended ∧ (raiseOver bins b).pwr.fc = b.pwr.fc
      ∧ (raiseOver bins b).ctxs = b.ctxs := by
  rw [raiseOver_frame]
  exact ⟨rfl, rfl, rfl, rfl, rfl, rfl, rfl⟩

/-- The power registers after a publication. -/
theorem publishOp_registers (own : Nat) {b : Body} (new : b.pwr.published ≠ some (secondOf b)) :
    (publishOp own b).pwr.published = some (secondOf b) ∧ (publishOp own b).pwr.fcSeq = BitVec.ofNat 32 (secondOf b)
      ∧ (publishOp own b).pwr.strobes = b.pwr.strobes + 1 ∧ (publishOp own b).pwr.hint = (drawAt b).pwr.hint
      ∧ (publishOp own b).pwr.ended = (secondEndOp b).pwr.ended ∧ (publishOp own b).pwr.fc = drawBins own b
      ∧ (publishOp own b).ctxs = b.ctxs := by
  obtain ⟨published, seq, strobes, hint, ended, fc, ctxs⟩ := raiseOver_registers (drawBins own b)
    (publication (secondOf b) (drawBins own b) (drawAt b))
  obtain ⟨published', seq', strobes', hint', ended', fc', ctxs'⟩ := publication_registers (secondOf b) (drawBins own b) (drawAt b)
  obtain ⟨shifted, counted⟩ := shiftOnce_kept (secondOf b) (secondEndOp b).pwr
  obtain ⟨-, -, -, struck⟩ := secondEndOp_hints b
  have drawn : (drawAt b).pwr.strobes = b.pwr.strobes := counted.trans struck
  have same : (drawAt b).ctxs = b.ctxs := by
    show (secondEndOp b).ctxs = _
    rw [secondEndOp_frame]
  rw [publishOp_new own new]
  refine ⟨published.trans published', seq.trans seq', strobes.trans (strobes'.trans ?_), hint.trans hint',
    ended.trans (ended'.trans shifted), fc.trans fc', ctxs.trans (ctxs'.trans same)⟩
  rw [drawn]

/-- Settles O42. -/
theorem drawAndSeconds : Obligations.DrawAndSeconds := by
  intro s power
  refine ⟨fun new => ?_, fun old => ?_, fun second new => ?_, fun old => exec_ran power rfl rfl (secondEndOp_old old)⟩
  · obtain ⟨published, seq, strobes, hint, ended, fc, ctxs⟩ := publishOp_registers s.addr.own new
    have bins : (drawBins s.addr.own s.b).length = 60 := by
      unfold drawBins
      rw [List.length_map, List.length_range]
    refine ⟨_, exec_ran (c := .drawPublish) (f := publishOp) power rfl rfl rfl, published, seq, strobes,
      hint.trans (drawAt_hint s.b), fun second => ended.trans (secondEndOp_ended second), (congrArg List.length fc).trans bins,
      fun i inside => ?_, fun i inside => ?_, rfl, rfl, publishOp_mem s.addr.own s.b, ctxs⟩
    · show (publishOp s.addr.own s.b).pwr.fc.getD i 0 ≤ 1180
      rw [fc, drawBins_getD _ _ inside]
      exact binOf_le _ _ i
    · show _ ≤ (publishOp s.addr.own s.b).pwr.fc.getD i 0
      rw [fc, drawBins_getD _ _ inside, ← drawAt_hint]
      exact hint_le_binOf _ _ i
  · exact exec_ran power rfl rfl ((publishOp_eq _ _).trans (if_pos (by simp [old])))
  · obtain ⟨ended, last, breached⟩ := secondEndOp_registers (by omega) new
    have ctxs : (secondEndOp s.b).ctxs = s.b.ctxs := by rw [secondEndOp_frame]
    exact ⟨_, exec_ran (c := .secondEnd) (f := fun _ b => secondEndOp b) power rfl rfl rfl, ended, last, breached, rfl, rfl,
      secondEndOp_mem s.b, ctxs⟩

/-! ### Wear -/

theorem is_iff (m : Monitor) (cls arr idx : Nat) : m.is cls arr idx = true ↔ m.cls = cls ∧ m.arr = arr ∧ m.idx = idx := by
  unfold Monitor.is
  simp [and_assoc]

/-- The monitors once one of them has measured. -/
theorem find_measured (l : List Monitor) (m : Monitor) (a b c : Nat) :
    (((l.filter (fun x => !x.is m.cls m.arr m.idx) ++ [m]).find? (Monitor.is a b c)).map Monitor.wear).getD 0
      = if a = m.cls ∧ b = m.arr ∧ c = m.idx then m.wear else ((l.find? (Monitor.is a b c)).map Monitor.wear).getD 0 := by
  rw [List.find?_append, List.find?_filter]
  split
  case isTrue same =>
    obtain ⟨rfl, rfl, rfl⟩ := same
    have own : m.is m.cls m.arr m.idx = true := (is_iff ..).2 ⟨rfl, rfl, rfl⟩
    rw [List.find?_eq_none.2 fun x _ => by simp]
    simp [own]
  case isFalse other =>
    have apart : (fun x : Monitor => !x.is m.cls m.arr m.idx && x.is a b c) = Monitor.is a b c := by
      funext x
      by_cases asked : x.is a b c = true
      · have : x.is m.cls m.arr m.idx = false := by
          rw [Bool.eq_false_iff, ne_eq, is_iff]
          rintro ⟨h1, h2, h3⟩
          obtain ⟨a1, a2, a3⟩ := (is_iff ..).1 asked
          exact other ⟨a1.symm.trans h1, a2.symm.trans h2, a3.symm.trans h3⟩
        simp [this]
      · simp [asked]
    have not_ : m.is a b c = false := by
      rw [Bool.eq_false_iff, ne_eq, is_iff]
      rintro ⟨h1, h2, h3⟩
      exact other ⟨h1.symm, h2.symm, h3.symm⟩
    simp [apart, not_]

theorem wearMeasureOp_plain {cls arr idx wear : Nat} {b : Body}
    (h : b.blk.wearWarn.toNat ≤ wearOf b cls arr idx ∨ wear < b.blk.wearWarn.toNat) :
    (wearMeasureOp cls arr idx wear b).cp = b.cp := by
  unfold wearMeasureOp
  dsimp only
  rw [if_neg (by simp; omega)]

/-- A measurement touches the monitors, the command port and the observation unit. -/
theorem wearMeasureOp_frame (cls arr idx wear : Nat) (b : Body) : wearMeasureOp cls arr idx wear b = { b with
    cp := (wearMeasureOp cls arr idx wear b).cp, obs := (wearMeasureOp cls arr idx wear b).obs,
    blk := { b.blk with wear := b.blk.wear.filter (fun m => !m.is cls arr idx)
      ++ [{ cls := cls, arr := arr, idx := idx, wear := wear, sec := b.now / 10 ^ 9 }] } } := by
  unfold wearMeasureOp
  dsimp only
  split
  · rw [notice_frame]
  · rfl

theorem wearOf_measured (cls arr idx wear : Nat) (b : Body) (x y z : Nat) : wearOf (wearMeasureOp cls arr idx wear b) x y z
    = if x = cls ∧ y = arr ∧ z = idx then wear else wearOf b x y z := by
  rw [wearMeasureOp_frame]
  exact find_measured b.blk.wear { cls := cls, arr := arr, idx := idx, wear := wear, sec := b.now / 10 ^ 9 } x y z

theorem settle_wear (old : Body) {new : Body} {c : CmdPort} {o : Obs} {w : List Monitor}
    (h : new = { old with cp := c, obs := o, blk := { old.blk with wear := w } }) :
    settle old new = { old with cp := (settle old new).cp, obs := (settle old new).obs,
                                blk := { old.blk with wear := (settle old new).blk.wear } } := by
  subst h
  rfl

/-- Settles O43. -/
theorem wearMeasured : Obligations.WearMeasured := by
  intro s cls arr idx w power
  refine ⟨fun place cls6 array started shut first => ?_, fun early => ?_⟩
  · have due : wearDue cls.toNat arr.toNat idx.toNat s.b = true := by
      unfold wearDue
      simp only [started, shut, Bool.not_false, Bool.true_and, Bool.not_eq_true', List.any_eq_false, Bool.and_eq_true, is_iff,
        beq_iff_eq, not_and]
      rintro m known ⟨h1, h2, h3⟩
      exact first m known h1 h2 h3
    have there : (idx.toNat ≤ logicalMax cls.toNat + spareLimit cls.toNat && cls.toNat ≤ 6 && (cls.toNat ≤ 1 || arr == 0)
        && wearDue cls.toNat arr.toNat idx.toNat s.b) = true := by
      simp only [place, cls6, due, decide_true, Bool.true_and, Bool.and_true, Bool.or_eq_true, decide_eq_true_eq, beq_iff_eq]
      exact array
    exact ⟨_, exec_ran (f := fun _ b => wearMeasureOp cls.toNat arr.toNat idx.toNat w.toNat b) power rfl rfl (if_pos there),
      wearOf_measured _ _ _ _ s.b, rfl, rfl, settle_wear s.b (wearMeasureOp_frame ..), wearMeasureOp_plain⟩
  · exact exec_ran power rfl rfl (if_neg (by simp [early]))

end Sys2Proof.Machine
end

section
/-! SUPPORT. Link ports (spec/10 R221 to R223). -/

namespace Sys2Proof.Machine

theorem portLive_iff (b : Body) (n : Nat) : portLive b n = true ↔ (b.port n).up = true ∧ (b.port n).down = false := by
  unfold portLive
  simp

theorem linkTrainedOp_up {own n : Nat} {b : Body} (enabled : portEnabled b n = true) (up : (b.port n).up = false)
    (down : (b.port n).down = false) : linkTrainedOp own n b = retryUnrouted own (pump n (settleStaging
      (b.modPort n (fun p => { alignPort p with up := true, trained := true })))) := if_pos (by simp [enabled, up, down])

section
variable {own n : Nat} {b : Body}

theorem flitReceived_dead (f : BitVec 640) (dead : portLive b n = false) : flitReceived own n f b = b := by
  refine if_pos ?_
  unfold portLive at dead
  cases up : (b.port n).up <;> simp_all

theorem flitHdr_kind (f : BitVec 640) : bit (flitHdr f) 39 = f.getLsbD 39 := by
  unfold bit flitHdr
  rw [Nat.testBit_mod_two_pow]
  exact Bool.true_and _

/-- A data flit on a port that carries flits. -/
theorem flitReceived_live {f : BitVec 640} (live : portLive b n = true) (data : f.getLsbD 39 = false) : flitReceived own n f b =
    if flitCrcOk f && hdrLseq (flitHdr f) == (b.port n).rxSeq then
      settleStaging (pump n (assemble own n f
        (b.modPort n (fun p => { takeLack (hdrLack (flitHdr f)) p with rxSeq := (p.rxSeq + 1) % 1024, nakSent := false }))))
    else if (b.port n).nakSent then b
    else sendCtrl n (.nak (b.port n).rxSeq (b.port n).rxSeq) (b.modPort n (fun p => { p with nakSent := true })) := by
  obtain ⟨up, down⟩ := (portLive_iff b n).1 live
  unfold flitReceived
  dsimp only
  rw [if_neg (by simp [up, down]), flitHdr_kind, data]
  exact if_neg Bool.false_ne_true

/-- The flit expected is taken. -/
theorem flitReceived_taken {f : BitVec 640} (live : portLive b n = true) (data : f.getLsbD 39 = false) (crc : flitCrcOk f = true)
    (seq : hdrLseq (flitHdr f) = (b.port n).rxSeq) :
    flitReceived own n f b = settleStaging (pump n (assemble own n f
      (b.modPort n (fun p => { takeLack (hdrLack (flitHdr f)) p with rxSeq := (p.rxSeq + 1) % 1024, nakSent := false })))) :=
  (flitReceived_live live data).trans (if_pos (by simp [crc, seq]))

/-- Any other is discarded. -/
theorem flitReceived_discarded {f : BitVec 640} (live : portLive b n = true) (data : f.getLsbD 39 = false)
    (bad : flitCrcOk f = false ∨ hdrLseq (flitHdr f) ≠ (b.port n).rxSeq) :
    flitReceived own n f b = if (b.port n).nakSent then b
      else sendCtrl n (.nak (b.port n).rxSeq (b.port n).rxSeq) (b.modPort n (fun p => { p with nakSent := true })) :=
  (flitReceived_live live data).trans (if_neg (by rcases bad with bad | bad <;> simp [bad]))

theorem nakOp_live {lack x : Nat} (live : portLive b n = true) : nakOp own n true lack x b = settleStaging (pumpOn n
    (afterDown own (resendOrDown own n x ((clearOut n b).modPort n (takeLack lack))))) := if_neg (by simp [live])

theorem creditOp_live {lack : Nat} {drained : BitVec 96} (live : portLive b n = true) : creditOp n true lack drained b =
    settleStaging (pump n (b.modPort n (fun p => { takeLack lack p with
      credit := (List.range 6).map (fun v => bits drained.toNat (16 * v + 15) (16 * v)) }))) := if_neg (by simp [live])

theorem retryOp_live (live : portLive b n = true) (unacked : (b.port n).replay ≠ []) :
    retryOp own n b = settleStaging (afterDown own (resendOrDown own n (b.port n).acked b)) := if_neg (by simp [live, unacked])

theorem retryOp_empty (acked : (b.port n).replay = []) : retryOp own n b = b := if_pos (by simp [acked])

end

/-! ### Staging buffers (Table 8.8) -/

theorem mem_stagingInUse (b : Body) (i : Nat) : i ∈ stagingInUse b ↔ (∃ q ∈ b.fab.unrouted, q.stg = some i)
    ∨ (∃ q ∈ b.fab.ports, (∃ k ∈ q.queue, k.stg = some i) ∨ ∃ k ∈ q.replay, k.stg = some i)
    ∨ ∃ g ∈ b.gens, ∃ k ∈ g.sendQ ++ g.early, k.stg = some i := by
  unfold stagingInUse
  simp only [List.mem_append, List.mem_flatMap, List.mem_filterMap, or_assoc]

theorem settleStaging_kept {b : Body} {y : Staging} (known : y ∈ b.coil.staging) (used : y.id ∈ stagingInUse b) :
    y ∈ (settleStaging b).coil.staging := List.mem_filter.2 ⟨known, by simpa using used⟩

theorem settleStaging_freed {b : Body} {y : Staging} (known : y ∈ b.coil.staging) (free : y.id ∉ stagingInUse b) :
    y ∉ (settleStaging b).coil.staging ∧ y.buf ∉ (settleStaging b).coil.bufs := by
  refine ⟨fun kept => free (by simpa using (List.mem_filter.1 kept).2), fun held => ?_⟩
  have stays := (List.mem_filter.1 held).2
  have gone : y ∈ b.coil.staging.filter (fun x => !(stagingInUse b).contains x.id) :=
    List.mem_filter.2 ⟨known, by simpa using free⟩
  have freed : (b.coil.staging.filter (fun x => !(stagingInUse b).contains x.id)).any (fun s => s.buf == y.buf) = true :=
    List.any_eq_true.2 ⟨y, gone, beq_self_eq_true _⟩
  rw [freed] at stays
  exact absurd stays Bool.false_ne_true

/-- Settles O44. -/
theorem linkPorts : Obligations.LinkPorts := by
  intro s p f lack x dr power
  have drive {t u : Body} (h : t = u) : driveAll s.addr.own t = driveAll s.addr.own u := congrArg _ h
  refine ⟨fun enabled up down => exec_ran power rfl rfl (drive (linkTrainedOp_up enabled up down)),
    fun y => ⟨rfl, rfl, rfl, rfl, rfl, rfl, rfl⟩,
    fun live data => ⟨fun crc seq => exec_ran power rfl rfl (drive (flitReceived_taken live data crc seq)), fun bad => ?_⟩,
    fun live => ⟨exec_ran power rfl rfl (drive (nakOp_live live)), exec_ran power rfl rfl (drive (creditOp_live live)),
      fun unacked => exec_ran power rfl rfl (drive (retryOp_live live unacked)),
      fun acked => exec_ran power rfl rfl (drive (retryOp_empty acked))⟩,
    exec_ran power rfl rfl rfl, exec_ran power rfl rfl rfl,
    fun dead => ⟨exec_ran power rfl rfl (drive (flitReceived_dead f dead)), exec_ran power rfl rfl (drive (if_pos (by simp [dead]))),
      exec_ran power rfl rfl (drive (if_pos (by simp [dead]))), exec_ran power rfl rfl (drive (if_pos (by simp [dead])))⟩,
    fun b y known => ⟨fun packets ports sends => settleStaging_freed known ?_, fun acks => settleStaging_kept known ?_⟩⟩
  · have discarded := flitReceived_discarded (own := s.addr.own) live data bad
    exact ⟨fun sent => exec_ran power rfl rfl (drive (discarded.trans (if_pos sent))),
      fun unsent => exec_ran power rfl rfl (drive (discarded.trans (if_neg (by simp [unsent]))))⟩
  · rw [mem_stagingInUse]
    rintro (⟨q, hq, held⟩ | ⟨q, hq, ⟨k, hk, held⟩ | ⟨k, hk, held⟩⟩ | ⟨g, hg, k, hk, held⟩)
    · exact packets q hq held
    · exact (ports q hq).1 k hk held
    · exact (ports q hq).2 k hk held
    · exact sends g hg k hk held
  · obtain ⟨q, hq, k, hk, held⟩ := acks
    exact (mem_stagingInUse b y.id).2 (.inr (.inl ⟨q, hq, .inr ⟨k, hk, held⟩⟩))

end Sys2Proof.Machine
end

section
/-! SUPPORT. The end of a command, the rules of faults and a teardown leave the memory and the shared time counter (spec/12 R280 to
R282, spec/13 R330 to R333). -/

namespace Sys2Proof.Machine

/-- The memory and the shared time counter stand. -/
structure MemStcKept (b b' : Body) : Prop where
  mem : b'.mem = b.mem
  stc : b'.stc = b.stc

namespace MemStcKept

theorem refl (b : Body) : MemStcKept b b := ⟨rfl, rfl⟩

theorem trans {a b c : Body} (h : MemStcKept a b) (h' : MemStcKept b c) : MemStcKept a c := ⟨h'.mem.trans h.mem, h'.stc.trans h.stc⟩

theorem foldl {α : Type} {f : Body → α → Body} (h : ∀ b x, MemStcKept b (f b x)) (l : List α) (b : Body) :
    MemStcKept b (l.foldl f b) :=
  ⟨foldl_field Body.mem (fun b x => (h b x).mem) l b, foldl_field Body.stc (fun b x => (h b x).stc) l b⟩

theorem modCtx (c : Nat) (f : Ctx → Ctx) (b : Body) : MemStcKept b (b.modCtx c f) := ⟨rfl, rfl⟩

theorem modGroup (n : Nat) (f : Group → Group) (b : Body) : MemStcKept b (b.modGroup n f) := ⟨rfl, rfl⟩

theorem modGen (u : Nat) (f : GenEnt → GenEnt) (b : Body) : MemStcKept b (b.modGen u f) := ⟨rfl, rfl⟩

theorem modOpen (i : Nat) (f : Open → Open) (b : Body) : MemStcKept b (b.modOpen i f) := ⟨rfl, rfl⟩

theorem modPiece (i n : Nat) (f : Piece → Piece) (b : Body) : MemStcKept b (b.modPiece i n f) := ⟨rfl, rfl⟩

theorem modMuster (i : Nat) (f : MusterWork → MusterWork) (b : Body) : MemStcKept b (b.modMuster i f) := ⟨rfl, rfl⟩

theorem fab (f : Fabric) (b : Body) : MemStcKept b { b with fab := f } := ⟨rfl, rfl⟩

theorem thm (t : Thimble) (b : Body) : MemStcKept b { b with thm := t } := ⟨rfl, rfl⟩

theorem parts (p : List Part) (b : Body) : MemStcKept b { b with parts := p } := ⟨rfl, rfl⟩

end MemStcKept

theorem SwitchFrame.memStc {b b' : Body} (h : SwitchFrame b b') : MemStcKept b b' := by
  unfold SwitchFrame at h
  rw [h]
  exact ⟨rfl, rfl⟩

theorem notice_memStc (code : Nat) (c : Option Nat) (seq status hanks : Nat) (body : List Nat) (unit : Nat) (b : Body) :
    MemStcKept b (notice code c seq status hanks body unit b) := by
  rw [notice_frame]
  exact ⟨rfl, rfl⟩

/-! ### Replies and tandem records -/

theorem pushReply_memStc (r : OutRec) (b : Body) : MemStcKept b (pushReply r b) := by
  rw [pushReply_frame]
  exact ⟨rfl, rfl⟩

/-- The end latch of a command, once it replies (R393). -/
def replyLatched (o : Open) (status : Nat) (b : Body) : Body :=
  match o.cmd.ctxOpt with
  | some c => b.modCtx c (fun x => { x with latch :=
      { valid := true, seq := o.cmd.seq, code := o.cmd.code, status := status, stampS := o.stamp, stampE := b.now,
        start := o.start, fin := (b.ctx o.ctx).before b.now } })
  | none => b

/-- The trace of the end of a command (R394, R396). -/
def replyTraced (o : Open) (status : Nat) (fin : List Nat) (b : Body) : Body :=
  if o.cmd.ctxOpt.isSome then
    traceCounts 13 o.cmd.ctxOpt o.start fin (trace 13 o.cmd.ctxOpt 1 o.cmd.seq (o.cmd.code + 2 ^ 16 * status) b)
  else trace 13 o.cmd.ctxOpt 1 o.cmd.seq (o.cmd.code + 2 ^ 16 * status) b

/-- A reply before it enters the store: the latch and the trace. -/
def replyNoted (o : Open) (status : Nat) (traced : Bool) (b : Body) : Body :=
  if traced then replyTraced o status ((b.ctx o.ctx).before b.now) (replyLatched o status b) else replyLatched o status b

theorem sendReply_eq (o : Open) (r : OutRec) (traced : Bool) (b : Body) : sendReply o r traced b =
    let t := count Cnt.cmdDone 1 o.cmd.ctxOpt (pushReply { r with acc := true } (replyNoted o r.status traced b))
    { t with opens := t.opens.filter (fun x => x.oid != o.oid) } := rfl

theorem replyTraced_frame (o : Open) (status : Nat) (fin : List Nat) (b : Body) :
    replyTraced o status fin b = { b with obs := (replyTraced o status fin b).obs } := by
  unfold replyTraced
  split
  · rw [traceCounts_frame]
    rfl
  · rfl

theorem replyNoted_memStc (o : Open) (status : Nat) (traced : Bool) (b : Body) : MemStcKept b (replyNoted o status traced b) := by
  have latched : MemStcKept b (replyLatched o status b) := by
    unfold replyLatched
    split
    · exact .modCtx _ _ b
    · exact .refl b
  unfold replyNoted
  split
  · rw [replyTraced_frame]
    exact latched.trans ⟨rfl, rfl⟩
  · exact latched

theorem sendReply_memStc (o : Open) (r : OutRec) (traced : Bool) (b : Body) : MemStcKept b (sendReply o r traced b) := by
  rw [sendReply_eq]
  exact (replyNoted_memStc o r.status traced b).trans ((pushReply_memStc _ _).trans
    ((count_switch Cnt.cmdDone 1 o.cmd.ctxOpt _).memStc.trans ⟨rfl, rfl⟩))

theorem sendTandem_memStc (own : Nat) (t : Tandem) (b : Body) : MemStcKept b (sendTandem own t b) := (sendPacket_frame _ _ _).memStc

theorem latchDiv_memStc (t : Tandem) (lost : Bool) (b : Body) : MemStcKept b (latchDiv t lost b) := by
  unfold latchDiv
  dsimp only
  split
  · exact (count_switch _ _ _ _).memStc
  · exact (count_switch _ _ _ _).memStc.trans (.fab _ _)

theorem releaseHeld_memStc (b : Body) : MemStcKept b (releaseHeld b) := by
  unfold releaseHeld
  split
  · exact .refl b
  · refine MemStcKept.foldl (fun b o => ?_) _ b
    split
    · exact sendReply_memStc _ _ _ _
    · exact .refl b

/-! ### Collectives and MUSTERs -/

theorem sendColl_memStc (own dst vc kind : Nat) (p : Piece) (hs : List Hank) (b : Body) :
    MemStcKept b (sendColl own dst vc kind p hs b) := ((sendPacket_frame _ _ _).trans (act_frame _ _ _ _)).memStc

theorem sendMuster_memStc (own dst kind : Nat) (m : MusterWork) (t : Nat) (b : Body) :
    MemStcKept b (sendMuster own dst kind m t b) := ((sendPacket_frame _ _ _).trans (act_frame _ _ _ _)).memStc

theorem endPiece_memStc (p : Piece) (void : Bool) (b : Body) : MemStcKept b (endPiece p void b) := by
  unfold endPiece
  dsimp only
  split <;> split <;> exact ⟨rfl, rfl⟩

theorem settlePiece_memStc (own : Nat) (p : Piece) (v : Input) (b : Body) : MemStcKept b (settlePiece own p v b) := by
  unfold settlePiece
  dsimp only
  split
  · exact (MemStcKept.foldl (fun b k => sendColl_memStc _ _ _ _ _ _ b) _ b).trans (endPiece_memStc _ _ _)
  · split
    · exact (MemStcKept.foldl (fun b k => sendColl_memStc _ _ _ _ _ _ b) _ b).trans
        ((count_switch _ _ _ _).memStc.trans (.modPiece _ _ _ _))
    · exact (MemStcKept.foldl (fun b k => sendColl_memStc _ _ _ _ _ _ b) _ b).trans (endPiece_memStc _ _ _)

theorem releaseRoot_memStc (own oid n : Nat) (b : Body) : MemStcKept b (releaseRoot own oid n b) := by
  induction n generalizing b with
  | zero => exact .refl b
  | succ n ih =>
    unfold releaseRoot
    split
    · exact .refl b
    · split
      · exact .refl b
      · refine MemStcKept.trans ?_ ((settlePiece_memStc _ _ _ _).trans (ih _))
        split
        · exact .thm _ b
        · exact .refl b

theorem progressPiece_memStc (own oid pos : Nat) (b : Body) : MemStcKept b (progressPiece own oid pos b) := by
  unfold progressPiece
  split
  · exact .refl b
  · dsimp only
    split
    · exact .refl b
    · split
      · exact .refl b
      · split
        · exact (MemStcKept.modPiece _ _ _ b).trans (releaseRoot_memStc _ _ _ _)
        · split
          · exact .refl b
          · split
            · exact (MemStcKept.modPiece _ _ _ b).trans (sendColl_memStc _ _ _ _ _ _ _)
            · exact (MemStcKept.modPiece _ _ _ b).trans (sendColl_memStc _ _ _ _ _ _ _)
            · refine MemStcKept.trans ?_ (sendColl_memStc _ _ _ _ _ _ _)
              split <;> exact ⟨rfl, rfl⟩

theorem orphanPieces_memStc (own c : Nat) (b : Body) : MemStcKept b (orphanPieces own c b) := by
  unfold orphanPieces
  exact (MemStcKept.thm _ b).trans ((MemStcKept.foldl (fun b p => endPiece_memStc _ _ b) _ _).trans
    (MemStcKept.foldl (fun b p => progressPiece_memStc _ _ _ b) _ _))

theorem endMuster_memStc (m : MusterWork) (void : Bool) (b : Body) : MemStcKept b (endMuster m void b) := by
  unfold endMuster
  dsimp only
  split <;> exact ⟨rfl, rfl⟩

theorem orphanMusters_memStc (own c : Nat) (b : Body) : MemStcKept b (orphanMusters own c b) := by
  refine MemStcKept.foldl (fun b m => (MemStcKept.modMuster m.oid (fun m => { m with orphan := true }) b).trans ?_) _ b
  dsimp only
  split
  · exact endMuster_memStc _ _ _
  · split
    · exact .refl _
    · split
      · exact (sendMuster_memStc _ _ _ _ _ _).trans (.modMuster _ _ _)
      · exact (MemStcKept.foldl (fun b k => sendMuster_memStc _ _ _ _ _ b) _ _).trans (endMuster_memStc _ _ _)

/-! ### Teardown and hard faults -/

theorem releaseUnits_memStc (c : Nat) (b : Body) : MemStcKept b (releaseUnits c b) := by
  unfold releaseUnits
  dsimp only
  split <;> exact ⟨rfl, rfl⟩

theorem chooseVictim_memStc (b : Body) : MemStcKept b (chooseVictim b) := by
  unfold chooseVictim
  split
  · exact .refl b
  · refine MemStcKept.foldl (fun b r => ?_) _ b
    dsimp only
    split
    · exact .refl b
    · split
      · exact .refl b
      · split <;> exact ⟨rfl, rfl⟩

theorem voidGen_memStc (own uid : Nat) (b : Body) : MemStcKept b (voidGen own uid b) := by
  unfold voidGen
  split
  · exact .refl b
  · split
    · exact .refl b
    · exact (MemStcKept.foldl (fun b e => ((sendPacket_frame _ _ b).trans (act_frame _ _ _ _)).memStc) _ b).trans ⟨rfl, rfl⟩

theorem endHome_memStc (uid : Nat) (b : Body) : MemStcKept b (endHome uid b) := by
  unfold endHome
  split
  · exact .refl b
  · exact ⟨rfl, rfl⟩

theorem dropMarlin_memStc (b : Body) : MemStcKept b (dropMarlin b) := by
  unfold dropMarlin
  split
  · split <;> exact ⟨rfl, rfl⟩
  · exact .refl b

theorem replyTorn_memStc (own c : Nat) (faulting : Option Nat) (code : Nat) (fh : List Nat) (b : Body) :
    MemStcKept b (replyTorn own c faulting code fh b) := by
  refine MemStcKept.foldl (fun b o => ?_) _ b
  dsimp only
  refine MemStcKept.trans ?_ (sendReply_memStc _ _ _ _)
  split
  · exact sendTandem_memStc _ _ _
  · exact .refl b

theorem forgetBuffers_memStc (c : Nat) (b : Body) : MemStcKept b (sknForget c (forgetParked c (coilFreeCtx c b))) := ⟨rfl, rfl⟩

theorem retireGen_memStc (uid : Nat) (b : Body) : MemStcKept b (retireGen uid b) := ⟨rfl, rfl⟩

theorem deadCards_memStc (c : Nat) (b : Body) : MemStcKept b (deadCards c b) := ⟨rfl, rfl⟩

theorem leaveSave_memStc (c : Nat) (b : Body) : MemStcKept b (leaveSave c b) := ⟨rfl, rfl⟩

theorem pruneGens_memStc (b : Body) : MemStcKept b (pruneGens b) := ⟨rfl, rfl⟩

theorem teardown_memStc (own c : Nat) (faulting : Option Nat) (code : Nat) (fh : List Nat) (b : Body) :
    MemStcKept b (teardown own c faulting code fh b) := by
  unfold teardown
  extract_lets x unbuffered gs ungenned pieces musters cards torn thm tiles thm' header fab records
  split
  · exact .refl b
  · have buffers : MemStcKept b unbuffered := (releaseUnits_memStc c b).trans (forgetBuffers_memStc c _)
    have exchanges : MemStcKept unbuffered ungenned :=
      .foldl (fun b u => (voidGen_memStc own u b).trans ((endHome_memStc u _).trans (retireGen_memStc u _))) _ _
    have work : MemStcKept ungenned torn := (orphanPieces_memStc own c _).trans ((orphanMusters_memStc own c _).trans
      ((deadCards_memStc c _).trans (.modCtx _ _ _)))
    have tile : MemStcKept torn tiles := .thm _ _
    have head : MemStcKept tiles header := by
      show MemStcKept tiles (if _ then _ else _)
      split
      · exact .thm _ _
      · exact .refl _
    have record : MemStcKept header records := .fab _ _
    exact buffers.trans <| exchanges.trans <| work.trans <| tile.trans <| head.trans <| record.trans <|
      (replyTorn_memStc own c faulting code fh _).trans <| (leaveSave_memStc c _).trans <| (dropMarlin_memStc _).trans <|
      (pruneGens_memStc _).trans (chooseVictim_memStc _)

theorem closeGroup_memStc (n : Nat) (b : Body) : MemStcKept b (closeGroup n b) := ⟨rfl, rfl⟩

theorem hardFault_memStc (own c : Nat) (faulting : Option Nat) (seq code unit kind addr : Nat) (extra : List Nat) (b : Body) :
    MemStcKept b (hardFault own c faulting seq code unit kind addr extra b) := by
  unfold hardFault
  extract_lets x p reset fh told rh torn all ways coil freed closed
  split
  · exact .refl b
  · have one : MemStcKept b torn := (notice_memStc ..).trans (teardown_memStc ..)
    split
    · have each : MemStcKept torn all := .foldl (fun b d => teardown_memStc own d none code rh b) _ _
      have ways : MemStcKept all freed := ⟨rfl, rfl⟩
      have groups : MemStcKept freed closed := by
        refine .foldl (fun b n => ?_) _ _
        split
        · exact closeGroup_memStc _ _
        · exact .refl b
      exact one.trans (each.trans (ways.trans (groups.trans (.parts _ _))))
    · exact one.trans (.thm _ _)

/-! ### The end of a command -/

theorem compareTandem_memStc (own : Nat) (mine theirs : Tandem) (oid : Option Nat) (b : Body) :
    MemStcKept b (compareTandem own mine theirs oid b) := by
  unfold compareTandem
  split
  · split
    · split
      · exact sendReply_memStc _ _ _ _
      · exact .refl b
    · exact .refl b
  · exact (latchDiv_memStc mine false b).trans (hardFault_memStc ..)

theorem meetPartner_memStc (own oid : Nat) (r : OutRec) (mine theirs : Tandem) (b : Body) :
    MemStcKept b (meetPartner own oid r mine theirs b) := by
  unfold meetPartner
  split
  · exact (MemStcKept.modOpen _ _ b).trans (compareTandem_memStc ..)
  · split
    · exact (sendReply_memStc _ _ _ _).trans (compareTandem_memStc ..)
    · exact .refl b

theorem lostRecord_memStc (own : Nat) (e : TandemEnt) (b : Body) : MemStcKept b (lostRecord own e b) := by
  unfold lostRecord
  split
  · exact .refl b
  · exact MemStcKept.trans (b := { b with fab := { b.fab with compare := b.fab.compare.erase e }, freeCtr := b.freeCtr + 1 }) ⟨rfl, rfl⟩
      ((latchDiv_memStc e.r true _).trans (hardFault_memStc ..))

theorem awaitPartner_memStc (own oid : Nat) (o : Open) (r : OutRec) (t : Tandem) (b : Body) :
    MemStcKept b (awaitPartner own oid o r t b) := by
  unfold awaitPartner
  extract_lets room hold e fab kept told
  have replied : MemStcKept b told := by
    refine MemStcKept.trans (b := kept) (.fab _ _) ?_
    show MemStcKept kept (if _ then _ else _)
    split
    · exact .modOpen _ _ _
    · exact sendReply_memStc _ _ _ _
  split
  · exact replied.trans ((lostRecord_memStc own e _).trans (releaseHeld_memStc _))
  · exact replied

theorem complete_memStc (own oid status flags outcome : Nat) (b : Body) : MemStcKept b (complete own oid status flags outcome b) := by
  unfold complete completeWith
  split
  · exact .refl b
  · split
    · exact .refl b
    · split
      · dsimp only
        split
        · exact (sendTandem_memStc own _ b).trans (MemStcKept.trans (.fab _ _) ((meetPartner_memStc ..).trans (releaseHeld_memStc _)))
        · exact (sendTandem_memStc own _ b).trans (awaitPartner_memStc ..)
      · exact sendReply_memStc _ _ _ _

theorem startSaves_memStc (c : Nat) (b : Body) : MemStcKept b (startSaves c b) := by
  unfold startSaves
  dsimp only
  split <;> exact ⟨rfl, rfl⟩

theorem releaseMuster_memStc (own : Nat) (m : MusterWork) (b : Body) : MemStcKept b (releaseMuster own m b) := by
  unfold releaseMuster
  dsimp only
  split
  · exact endMuster_memStc m false b
  · exact (endMuster_memStc m false b).trans (MemStcKept.trans (.modOpen _ _ _) ((complete_memStc ..).trans (startSaves_memStc _ _)))

end Sys2Proof.Machine
end

section
/-! SUPPORT. The sync tree and the syncs of the shared time counter (spec/10 R251, R252). -/

namespace Sys2Proof.Machine

/-! ### The tree of R238 names members only -/

theorem pairLevel_mem (l : List Nat) : (∀ e ∈ (pairLevel l).1, e.2 ∈ l) ∧ ∀ a ∈ (pairLevel l).2, a ∈ l := by
  fun_induction pairLevel l with
  | case1 a b rest es up eq ih =>
    rw [eq] at ih
    obtain ⟨edges, inputs⟩ := ih
    refine ⟨fun e he => ?_, fun x hx => ?_⟩
    · rcases List.mem_cons.1 he with rfl | he
      · exact List.mem_cons_self
      · exact List.mem_cons_of_mem _ (List.mem_cons_of_mem _ (edges e he))
    · rcases List.mem_cons.1 hx with rfl | hx
      · exact List.mem_cons_self
      · exact List.mem_cons_of_mem _ (List.mem_cons_of_mem _ (inputs x hx))
  | case2 l => exact ⟨fun e he => absurd he List.not_mem_nil, fun x hx => hx⟩

theorem pairTree_mem (n : Nat) (l : List Nat) : ∀ e ∈ pairTree n l, e.2 ∈ l := by
  induction n generalizing l with
  | zero => exact fun e he => absurd he List.not_mem_nil
  | succ n ih =>
    intro e he
    unfold pairTree at he
    split at he
    · exact absurd he List.not_mem_nil
    · obtain ⟨edges, inputs⟩ := pairLevel_mem l
      rcases List.mem_append.1 he with he | he
      · exact edges e he
      · exact inputs e.2 (ih _ e he)

theorem cutBy_mem (key : Nat → Nat) (l : List Nat) : ∀ g ∈ cutBy key l, ∀ a ∈ g, a ∈ l := by
  induction l with
  | nil => exact fun g hg => absurd hg List.not_mem_nil
  | cons a rest ih =>
    unfold cutBy
    split
    case h_1 b l more eq =>
      rw [eq] at ih
      have first : ∀ x ∈ b :: l, x ∈ rest := ih _ List.mem_cons_self
      have later : ∀ g ∈ more, ∀ x ∈ g, x ∈ rest := fun g hg => ih g (List.mem_cons_of_mem _ hg)
      split
      · intro g hg x hx
        rcases List.mem_cons.1 hg with rfl | hg
        · rcases List.mem_cons.1 hx with rfl | hx
          · exact List.mem_cons_self
          · exact List.mem_cons_of_mem _ (first x hx)
        · exact List.mem_cons_of_mem _ (later g hg x hx)
      · intro g hg x hx
        rcases List.mem_cons.1 hg with rfl | hg
        · exact List.mem_cons.2 (.inl (List.mem_singleton.1 hx))
        · exact List.mem_cons_of_mem _ (ih g hg x hx)
    case h_2 =>
      intro g hg x hx
      rcases List.mem_cons.1 hg with rfl | hg
      · exact List.mem_cons.2 (.inl (List.mem_singleton.1 hx))
      · exact List.mem_cons_of_mem _ (ih g hg x hx)

theorem heads_mem (gs : List (List Nat)) {a : Nat} (h : a ∈ gs.filterMap List.head?) : ∃ g ∈ gs, a ∈ g := by
  obtain ⟨g, hg, head⟩ := List.mem_filterMap.1 h
  exact ⟨g, hg, List.mem_of_mem_head? head⟩

theorem treeEdges_mem (members : List Nat) : ∀ e ∈ treeEdges members, e.2 ∈ members := by
  unfold treeEdges
  refine (List.foldlRecOn stageKeys _ (motive := fun (acc : List (Nat × Nat) × List Nat) => (∀ e ∈ acc.1, e.2 ∈ members) ∧ ∀ a ∈ acc.2, a ∈ members)
    ⟨fun e he => absurd he List.not_mem_nil, fun a ha => ha⟩ ?_).1
  intro acc known key _
  obtain ⟨edges, inputs⟩ := known
  refine ⟨fun e he => ?_, fun a ha => ?_⟩
  · rcases List.mem_append.1 he with he | he
    · exact edges e he
    · obtain ⟨g, hg, he⟩ := List.mem_flatMap.1 he
      exact inputs _ (cutBy_mem key acc.2 g hg _ (pairTree_mem _ g e he))
  · obtain ⟨g, hg, head⟩ := heads_mem _ ha
    exact inputs a (cutBy_mem key acc.2 g hg a head)

theorem treeParent_mem {members : List Nat} {own a : Nat} (h : treeParent members own = some a) : a ∈ members := by
  obtain ⟨e, found, rfl⟩ := Option.map_eq_some_iff.1 h
  exact treeEdges_mem members e (List.mem_of_find?_eq_some found)

/-! ### Syncs -/

theorem parentPorts_some {own a : Nat} {b : Body} (h : syncParent own b = some a) : parentPorts own b = candidates b own a := by
  unfold parentPorts
  rw [h]

theorem parentPorts_none {own : Nat} {b : Body} (h : syncParent own b = none) : parentPorts own b = [] := by
  unfold parentPorts
  rw [h]

/-- The error of a sync (R251). -/
theorem syncError_eq (now parentNow : W64) (roundTrip : Nat) :
    syncError now.toNat parentNow.toNat roundTrip = (now - (parentNow + BitVec.ofNat 64 (roundTrip / 2))).toInt := by
  unfold syncError
  congr 1
  refine BitVec.eq_of_toNat_eq ?_
  rw [BitVec.toNat_ofNat, BitVec.toNat_sub, BitVec.toNat_add, BitVec.toNat_ofNat, Nat.add_mod_mod]
  congr 1
  omega

theorem unlockStc_stc (b : Body) :
    (unlockStc b).stc = { b.stc with locked := false, lostLock := b.stc.lostLock || b.stc.locked } := by
  unfold unlockStc
  split
  case isTrue h =>
    have unlocked : b.stc.locked = false := by simpa using h
    rw [unlocked, Bool.or_false]
    conv_lhs => rw [show b.stc = { b.stc with locked := b.stc.locked } from rfl, unlocked]
  case isFalse h =>
    have locked : b.stc.locked = true := by simpa using h
    rw [locked, Bool.or_true]

theorem unlockStc_mem (b : Body) : (unlockStc b).mem = b.mem := by
  unfold unlockStc
  split <;> rfl

theorem releaseUnbound_memStc (own : Nat) (b : Body) : MemStcKept b (releaseUnbound own b) :=
  .foldl (fun b m => releaseMuster_memStc own m b) _ b

section
variable {own n : Nat} {e : Int} {b : Body} (live : portLive b n = true) (parent : (parentPorts own b).contains n = true)
  (leaf : b.stc.root = false)
include live parent leaf

/-- A sync of the parent within 64 ticks slews. -/
theorem syncOp_slews (near : e.natAbs ≤ 64) : syncOp own n true e b =
    let good := if e.natAbs ≤ 4 then b.stc.good + 1 else 0
    { b with stc := { b.stc with
      err := BitVec.ofInt 16 e, good := good, slew := -e, hold := 0, locked := b.stc.locked || decide (8 ≤ good) } } := by
  unfold syncOp
  rw [if_neg (by rw [live, leaf, parent]; decide)]
  dsimp only
  rw [if_neg (by omega)]

/-- A sync of the parent beyond 64 ticks steps the count or holds it. -/
theorem syncOp_steps (far : 64 < e.natAbs) : syncOp own n true e b =
    let t := releaseUnbound own (unlockStc { b with stc := { b.stc with err := BitVec.ofInt 16 e } })
    if e < 0 then { t with stc := { t.stc with
      good := 0, slew := 0, phase := 0, now := t.stc.now + BitVec.ofNat 64 e.natAbs, hold := 0 } }
    else { t with stc := { t.stc with good := 0, slew := -64, phase := 0, hold := e.natAbs - 64 } } := by
  unfold syncOp
  rw [if_neg (by rw [live, leaf, parent]; decide)]
  dsimp only
  rw [if_pos far]

theorem syncOp_far (far : 64 < e.natAbs) :
    (syncOp own n true e b).stc.locked = false ∧ (syncOp own n true e b).stc.err = BitVec.ofInt 16 e
      ∧ (syncOp own n true e b).stc.lostLock = (b.stc.lostLock || b.stc.locked) ∧ (syncOp own n true e b).stc.good = 0
      ∧ (syncOp own n true e b).mem = b.mem
      ∧ (e < 0 → (syncOp own n true e b).stc.now = b.stc.now + BitVec.ofNat 64 e.natAbs)
      ∧ (0 < e → (syncOp own n true e b).stc.now = b.stc.now ∧ (syncOp own n true e b).stc.hold = e.natAbs - 64) := by
  have kept := releaseUnbound_memStc own (unlockStc { b with stc := { b.stc with err := BitVec.ofInt 16 e } })
  have stc := kept.stc.trans (unlockStc_stc _)
  have mem := kept.mem.trans (unlockStc_mem _)
  rw [syncOp_steps live parent leaf far]
  generalize releaseUnbound own (unlockStc { b with stc := { b.stc with err := BitVec.ofInt 16 e } }) = t at *
  dsimp only
  split
  case isTrue behind =>
    dsimp only
    rw [stc]
    exact ⟨rfl, rfl, rfl, rfl, mem, fun _ => rfl, fun ahead => by omega⟩
  case isFalse ahead =>
    dsimp only
    rw [stc]
    exact ⟨rfl, rfl, rfl, rfl, mem, fun behind => absurd behind ahead, fun _ => ⟨rfl, rfl⟩⟩

end

/-- Settles O45. -/
theorem stcCounts : Obligations.StcCounts := by
  intro s p x power e
  have error : syncError s.b.now x.parentNow.toNat x.roundTrip.toNat = e := syncError_eq _ _ _
  have receive (good : Bool) (e' : Int) (same : e' = e) : bodyOp (.stcSyncReceive p good x) s.tal s.addr.own s.b
      = syncOp s.addr.own p.toNat good e' s.b := same ▸ error ▸ rfl
  refine ⟨fun root => exec_ran power rfl rfl (if_pos root), fun leaf => exec_ran power rfl rfl (if_neg (by simp [leaf])),
    fun live inTree => exec_ran power rfl rfl (if_pos (by rw [live, inTree]; rfl)), fun out => exec_ran power rfl rfl (if_neg ?_),
    fun a parent => ⟨parentPorts_some parent, treeParent_mem parent⟩, parentPorts_none,
    fun live parent leaf near => exec_ran power rfl rfl ((receive true e rfl).trans (syncOp_slews live parent leaf near)),
    fun live parent leaf far => ?_, fun out => exec_ran power rfl rfl (if_pos ?_), exec_ran power rfl rfl rfl⟩
  · rcases out with out | out <;> rw [out] <;> simp
  · obtain ⟨locked, err, lost, good, mem, behind, ahead⟩ := syncOp_far live parent leaf far
    exact ⟨_, exec_ran (f := fun own b => syncOp own p.toNat true e b) power rfl rfl (receive true e rfl), locked, err, lost, good,
      rfl, rfl, mem, behind, ahead⟩
  · rcases out with out | out | out <;> rw [out] <;> simp

end Sys2Proof.Machine
end

section
/-! SUPPORT. Records of the tandem partner (spec/13 R331 to R333). -/

namespace Sys2Proof.Machine

/-- A record for a torn context, or of a block that is shut, is discarded (R442, log 48). -/
theorem tandemOp_dropped {own : Nat} {p : Packet} {b : Body}
    (h : (b.ctx (tandemOf p.hanks).ctx).st = .torn ∨ b.blk.shut = true) : tandemOp own p b = b :=
  if_pos (by rcases h with h | h <;> simp [h])

section
variable {own : Nat} {p : Packet} {b : Body} (whole : (b.ctx (tandemOf p.hanks).ctx).st ≠ .torn) (opened : b.blk.shut = false)
include whole opened

theorem tandemOp_keeps (first : b.fab.compare.find? (fun e => e.own && e.r.ctx == (tandemOf p.hanks).ctx
      && e.r.tseq == (tandemOf p.hanks).tseq) = none) :
    tandemOp own p b = { b with fab := { b.fab with
      compare := b.fab.compare ++ [{ own := false, r := tandemOf p.hanks, since := b.now }] } } := by
  unfold tandemOp
  dsimp only
  rw [if_neg (by simp [whole, opened]), first]

theorem tandemOp_meets {e : TandemEnt} (own_ : b.fab.compare.find? (fun e => e.own && e.r.ctx == (tandemOf p.hanks).ctx
      && e.r.tseq == (tandemOf p.hanks).tseq) = some e) :
    tandemOp own p b = releaseHeld (compareTandem own e.r (tandemOf p.hanks) e.oid
      { b with fab := { b.fab with compare := b.fab.compare.erase e } }) := by
  unfold tandemOp
  dsimp only
  rw [if_neg (by simp [whole, opened]), own_]

end

theorem compareTandem_silent {own : Nat} {mine theirs : Tandem} {oid : Option Nat} {b : Body} (same : mine = theirs)
    (none_ : (oid.bind b.openOf).bind Open.reply = none) : compareTandem own mine theirs oid b = b := by
  unfold compareTandem
  rw [if_pos same]
  split
  case h_1 o found =>
    rw [found] at none_
    rw [show o.reply = none from none_]
  case h_2 => rfl

theorem compareTandem_replies {own : Nat} {mine theirs : Tandem} {oid : Option Nat} {b : Body} {o : Open} {r : OutRec}
    (same : mine = theirs) (open_ : oid.bind b.openOf = some o) (reply : o.reply = some r) :
    compareTandem own mine theirs oid b = sendReply o r true b := by
  unfold compareTandem
  rw [if_pos same, open_]
  dsimp only
  rw [reply]

theorem latchDiv_opens (t : Tandem) (lost : Bool) (b : Body) : (latchDiv t lost b).opens = b.opens := by
  have counted : (count Cnt.tandemDiv 1 (some t.ctx) b).opens = b.opens := by rw [count_frame]
  unfold latchDiv
  dsimp only
  split <;> exact counted

theorem compareTandem_differ {own : Nat} {mine theirs : Tandem} {oid : Option Nat} {b : Body} (differ : mine ≠ theirs) :
    compareTandem own mine theirs oid b = hardFault own mine.ctx oid (((oid.bind b.openOf).map (fun o => o.cmd.seq)).getD 0)
      Code.tandemDiverge 7 0 0 (tandemWords mine mine.digest theirs.digest) (latchDiv mine false b) := by
  have open_ : (latchDiv mine false b).openOf = b.openOf := by
    unfold Body.openOf
    rw [latchDiv_opens]
  unfold compareTandem
  rw [if_neg differ]
  dsimp only
  rw [open_]

/-- Settles O46. -/
theorem tandemRows : Obligations.TandemRows := by
  intro s p power
  refine ⟨fun waits => exec_ran power rfl rfl (withPacket_run (tandemOp s.addr.own) waits), exec_ran power rfl rfl rfl,
    fun own b h => tandemOp_dropped h,
    fun own b whole opened => ⟨tandemOp_keeps whole opened, fun e first => ⟨fun same silent => ?_, fun o r same open_ reply => ?_,
      fun differ => ?_⟩⟩⟩
  · exact (tandemOp_meets whole opened first).trans (congrArg releaseHeld (compareTandem_silent same silent))
  · exact (tandemOp_meets whole opened first).trans (congrArg releaseHeld (compareTandem_replies same open_ reply))
  · exact (tandemOp_meets whole opened first).trans (congrArg releaseHeld (compareTandem_differ differ))

end Sys2Proof.Machine
end

section
/-! SUPPORT. Packets of an exchange and reads of the skein (spec/08 R175 to R185). -/

namespace Sys2Proof.Machine

/-! ### Rows -/

theorem ite_of_false {α : Type} {c : Bool} {x y : α} (h : c = false) : (if c then x else y) = y := by
  rw [h]
  rfl

theorem expire_none {own : Nat} {b : Body} (h : b.gens.any (fun g => windowOver b g && (sendMisses g || homeMisses g)) = false) :
    expire own b = b := ite_of_false h

theorem expire_some {own : Nat} {b : Body} (h : b.gens.any (fun g => windowOver b g && (sendMisses g || homeMisses g)) = true) :
    expire own b = homedDeadlineOp own b := if_pos h

theorem onBody_congr {s : State} {f g : Nat → Body → Body} (h : f s.addr.own s.b = g s.addr.own s.b) : s.onBody f = s.onBody g := by
  unfold State.onBody
  rw [h]

theorem tokenRow_front {own : Nat} {b : Body} {p : Packet} (free : frozen b = false) (front : frontPacket (forHome b 0) b = some p) :
    tokenRow own b = tokenOp own p b := by
  unfold tokenRow
  rw [ite_of_false free, front]

theorem withPacket_front {b : Body} {f : Packet → Bool} {p : Packet} (use : Packet → Body → Body) (free : frozen b = false)
    (front : frontPacket f b = some p) : withPacket f use b = use p (consumePacket p b) := by
  unfold withPacket
  rw [ite_of_false free, front]

theorem answerRow_front {own : Nat} {b : Body} {p : Packet} (free : frozen b = false) (front : frontPacket isAnswer b = some p) :
    answerRow own b = if b.blk.shut then consumePacket p b else pruneSkn (answerOp own p b) := by
  unfold answerRow
  rw [ite_of_false free, front]

theorem homeSortOp_ready {own : Nat} {b : Body} {g : GenEnt} (free : frozen b = false) (ready : sortReady b = some g) :
    homeSortOp own b = driveHomeWrites own g.uid (b.modGen g.uid (sortHalf ((nextHalf g).getD 0))) := by
  unfold homeSortOp
  rw [ite_of_false free, ready]

theorem readDoneOp_free {own : Nat} {b : Body} (free : frozen b = false) : readDoneOp own b = spliceAll own (readDone own b) :=
  ite_of_false free

/-- HOMED_DEADLINE is what an event of the exchange settles before it (R8). -/
theorem exec_homedDeadline_expire {s : State} {b : Body}
    (h : b.gens.any (fun g => windowOver b g && (sendMisses g || homeMisses g)) = true) :
    exec .homedDeadline { s with b := b } = State.goOn { s with b := b } expire := by
  show State.goOn { s with b := b } homedDeadlineOp = _
  have same : driveAll s.addr.own (homedDeadlineOp s.addr.own b) = driveAll s.addr.own (expire s.addr.own b) := by
    rw [expire_some h]
  exact onBody_congr (s := { s with b := b }) same

/-! ### Answers -/

theorem answerOp_stray {own : Nat} {p : Packet} {b : Body} (dead : liveGen b (exXg p) (exGeneration p) = none) :
    answerOp own p b = addStray (consumePacket p b) := by
  unfold answerOp
  rw [dead]

theorem answerOp_gone {own : Nat} {p : Packet} {b : Body} {g : GenEnt} (live : liveGen b (exXg p) (exGeneration p) = some g)
    (gone : g.void = true ∨ g.combineDone = true) :
    answerOp own p b = goneAnswer g.uid (addDiscard (consumePacket p b)) := by
  unfold answerOp
  rw [live]
  exact if_pos (by rcases gone with gone | gone <;> simp [gone])

theorem SwitchFrame.skn {b b' : Body} (h : SwitchFrame b b') : b'.skn = b.skn := by
  unfold SwitchFrame at h
  rw [h]

theorem goneAnswer_frame (uid : Nat) (b : Body) : goneAnswer uid b = { b with gens := (goneAnswer uid b).gens } := by
  unfold goneAnswer settleGen
  split
  · rfl
  · split <;> rfl

theorem answerOp_gone_skn {own : Nat} {p : Packet} {b : Body} {g : GenEnt} (live : liveGen b (exXg p) (exGeneration p) = some g)
    (gone : g.void = true ∨ g.combineDone = true) :
    (answerOp own p b).skn = { b.skn with discard := b.skn.discard + 1 } ∧ (answerOp own p b).mem = b.mem := by
  have frame := consumePacket_frame p b
  rw [answerOp_gone live gone, goneAnswer_frame]
  refine ⟨?_, frame.mem⟩
  show { (consumePacket p b).skn with discard := (consumePacket p b).skn.discard + 1 } = _
  rw [frame.skn]

/-- Settles O47. -/
theorem exchangePackets : Obligations.ExchangePackets := by
  intro s p g k
  refine ⟨fun power => ⟨exec_ran power rfl rfl rfl, exec_ran power rfl rfl rfl, exec_ran power rfl rfl rfl⟩,
    fun own b => ⟨expire_none, exec_homedDeadline_expire, tokenRow_front,
      withPacket_front endOp, fun free front => ⟨fun opened => ?_, fun shut => ?_⟩⟩,
    fun units ready => ?_, fun units reading => ?_, fun free reading => ?_, fun own b => ⟨answerOp_stray, answerOp_gone_skn⟩⟩
  · exact (answerRow_front free front).trans (ite_of_false opened)
  · exact (answerRow_front free front).trans (if_pos shut)
  · exact exec_ran units.power rfl rfl (congrArg (driveAll s.addr.own) (homeSortOp_ready units.free ready))
  · exact exec_ran units.power rfl rfl (congrArg (driveAll s.addr.own) (readDoneOp_free units.free))
  · exact exec_ran free.power rfl rfl (unlessHeld_free (sknCtrlWrite s.addr.own 1) free)

end Sys2Proof.Machine
end

section
/-! SUPPORT. Rows of collectives and MUSTERs (spec/10 R239 to R250, spec/13 R334 to R339). -/

namespace Sys2Proof.Machine

theorem pieceAdmitOp_next {own n : Nat} {b : Body} {x : Piece} (free : frozen b = false) (next : nextPiece b n = some x)
    (room : slotsHeld b n < (b.group n).quota.toNat) (opened : admitOpen b x = true) : pieceAdmitOp own n b = admitPiece own x b := by
  unfold pieceAdmitOp
  rw [ite_of_false free, next]
  exact if_pos (by simp [room, opened])

/-- A COLLECT of the context whose pieces are all over, and that has not replied. -/
def collectEnded (c : Nat) (o : Open) : Bool :=
  o.ctx == c && o.reply.isNone && (match o.work with
    | .collect w => w.ended == w.names.length
    | _ => false)

theorem collectDoneOp_first {own c : Nat} {b : Body} {o : Open} {w : CollectWork} (work : o.work = .collect w)
    (first : b.opens.find? (collectEnded c) = some o) : collectDoneOp own c b = finishCollect own o w b := by
  have found : collectDoneOp own c b = (match b.opens.find? (collectEnded c) with
    | some o => (match o.work with
      | .collect w => finishCollect own o w b
      | _ => b)
    | none => b) := rfl
  rw [found, first]
  dsimp only
  rw [work]

/-- Settles O48. -/
theorem collectiveRows : Obligations.CollectiveRows := by
  intro s n c p
  refine ⟨fun x units next room opened => ?_, fun o w units work first => ?_, fun units => ?_, fun waits => ?_, fun waits => ?_,
    fun waits => ?_, fun waits => ?_⟩
  · exact exec_ran units.power rfl rfl (congrArg shutdownEnd (pieceAdmitOp_next units.free next room opened))
  · exact exec_ran units.power rfl rfl ((ite_of_false units.free).trans (collectDoneOp_first work first))
  · exact exec_ran units.power rfl rfl (ite_of_false units.free)
  · exact exec_ran waits.power rfl rfl (congrArg (fun x => shutdownEnd (driveResults s.addr.own x)) (withPacket_run _ waits))
  · exact exec_ran waits.power rfl rfl (congrArg (fun x => shutdownEnd (driveResults s.addr.own x)) (withPacket_run _ waits))
  · exact exec_ran waits.power rfl rfl (congrArg (fun x => shutdownEnd (driveResults s.addr.own x)) (withPacket_run _ waits))
  · exact exec_ran waits.power rfl rfl (congrArg (fun x => shutdownEnd (driveResults s.addr.own x)) (withPacket_run _ waits))

/-! ### MUSTERs -/

theorem musterArriveLocal_first {own n : Nat} {b : Body} {m : MusterWork}
    (first : b.thm.musters.find? (fun m => m.group == n && !m.arrived && !m.orphan
        && (b.ctx m.ctx).st == .run && earlierReplied b m && lowerSettled b m) = some m) :
    musterArriveLocal own n b = progressMuster own m.oid (b.modMuster m.oid (fun m => { m with arrived := true })) := by
  unfold musterArriveLocal
  dsimp only
  rw [first]

/-- The release tick of a MUSTER of the group has come. -/
def releaseDue (n now : Nat) (m : MusterWork) : Bool :=
  m.group == n && (match m.release with
    | some t => t ≤ now
    | none => false)

theorem releaseTickOp_first {own n : Nat} {b : Body} {m : MusterWork} (first : b.thm.musters.find? (releaseDue n b.now) = some m) :
    releaseTickOp own n b = releaseMuster own m b := by
  have found : releaseTickOp own n b = (match b.thm.musters.find? (releaseDue n b.now) with
    | some m => releaseMuster own m b
    | none => b) := rfl
  rw [found, first]

/-- Settles O50. -/
theorem musterRows : Obligations.MusterRows := by
  intro s n m p
  refine ⟨fun units first => ?_, fun power running first => ?_, fun units => ?_, fun waits => ?_, fun waits => ?_, fun waits => ?_⟩
  · exact exec_ran units.power rfl rfl ((ite_of_false units.free).trans (congrArg settleGroups (musterArriveLocal_first first)))
  · exact exec_ran power rfl rfl ((ite_of_false running).trans
      (congrArg (fun x => shutdownEnd (settleGroups x)) (releaseTickOp_first first)))
  · exact exec_ran units.power rfl rfl (ite_of_false units.free)
  · exact exec_ran waits.power rfl rfl (congrArg (fun x => shutdownEnd (settleGroups x)) (withPacket_run _ waits))
  · exact exec_ran waits.power rfl rfl (congrArg (fun x => shutdownEnd (settleGroups x)) (withPacket_run _ waits))
  · exact exec_ran waits.power rfl rfl (congrArg (fun x => shutdownEnd (settleGroups x)) (withPacket_run _ waits))

end Sys2Proof.Machine
end

section
/-! SUPPORT. The work port (spec/06 R136 to R142, spec/12 R296). -/

namespace Sys2Proof.Machine

theorem cardAckOp_card {own : Nat} {b : Body} {l : CardList} {k x : Nat} {w : List WalkItem} (free : frozen b = false)
    (held : heldList (marlinGo own b) = some l) (walk : l.walk = .card k x :: w)
    (room : tableBlocks (marlinGo own b) l.ctx = false) (buffer : (marlinGo own b).mrl.buf.isSome = true) :
    cardAckOp own b = marlinGo own (emitCard l k x (marlinGo own b)) := by
  unfold cardAckOp
  rw [ite_of_false free]
  dsimp only
  rw [held]
  dsimp only
  rw [walk]
  refine if_neg ?_
  rw [room, Option.isNone_eq_false_iff.2 buffer]
  exact Bool.false_ne_true

/-- The list's end and the last failure, once a completion has a live entry (R142). -/
def cplNoted (h : Hank) (b : Body) : Body :=
  if cplStatus h = 0 then b else { b with mrl := { b.mrl with failed := true, lastStatus := cplStatus h } }

section
variable {h : Hank} {b : Body} (free : frozen b = false)
include free

theorem completionOp_stray (none_ : cplEntry b h = none) : completionOp h b = strayCpl b := by
  unfold completionOp
  rw [ite_of_false free, none_]

theorem completionOp_dead {e : CardEnt} (entry : cplEntry b h = some e) (dead : e.dead = true) :
    completionOp h b = strayCpl { b with mrl := { b.mrl with cards := b.mrl.cards.erase e } } := by
  unfold completionOp
  rw [ite_of_false free, entry]
  exact if_pos dead

/-- A completion of a work card of this block's own step. -/
theorem completionOp_own {e : CardEnt} (entry : cplEntry b h = some e) (live : e.dead = false) (gen : e.gen = none) :
    completionOp h b = cplNoted h (ledgerCpl e (cplStatus h) { b with mrl := { b.mrl with cards := b.mrl.cards.erase e } }) := by
  unfold completionOp cplNoted
  rw [ite_of_false free, entry]
  dsimp only
  rw [ite_of_false live, gen]
  simp only [beq_iff_eq]

/-- A completion of a work card of a home role. -/
theorem completionOp_home {e : CardEnt} {u : Nat} (entry : cplEntry b h = some e) (live : e.dead = false) (gen : e.gen = some u) :
    completionOp h b = (cplNoted h (ledgerCpl e (cplStatus h)
      { b with mrl := { b.mrl with cards := b.mrl.cards.erase e } })).modHome u (homeTasks e (cplStatus h)) := by
  unfold completionOp cplNoted
  rw [ite_of_false free, entry]
  dsimp only
  rw [ite_of_false live, gen]
  simp only [beq_iff_eq]

end

theorem yieldOp_next {own u k : Nat} {b : Body} (free : frozen b = false) (next : nextYield b = some (u, k)) :
    yieldOp own b = if (parkUnit own u k b).1 then driveAll own (giveBack u k (parkUnit own u k b).2) else (parkUnit own u k b).2 := by
  unfold yieldOp
  rw [ite_of_false free, next]

theorem yieldOp_none {own : Nat} {b : Body} (next : nextYield b = none) : yieldOp own b = b := by
  unfold yieldOp
  rw [next]
  split <;> rfl

/-- A holder that yields serves a best-effort context (R296). -/
theorem nextYield_best {b : Body} {u k : Nat} (next : nextYield b = some (u, k)) : (b.ctx (ctxOfOid b k)).cls = false := by
  obtain ⟨v, -, found⟩ := List.exists_of_findSome?_eq_some next
  obtain ⟨j, holder, pair⟩ := Option.map_eq_some_iff.1 found
  have yields := List.find?_some holder
  unfold mustYield at yields
  cases pair
  simpa using (Bool.and_eq_true_iff.1 yields).1

/-- Settles O51. -/
theorem workPort : Obligations.WorkPort := by
  intro s h units
  refine ⟨fun l k x w held walk room buffer => exec_ran units.power rfl rfl
      (congrArg (driveAll s.addr.own) (cardAckOp_card units.free held walk room buffer)),
    exec_ran units.power rfl rfl rfl,
    fun b free => ⟨completionOp_stray free, fun e entry => ⟨completionOp_dead free entry, completionOp_own free entry,
      fun u => completionOp_home free entry⟩⟩,
    fun u k next => ⟨fun parked => ?_, fun parked => ?_⟩, fun none_ => exec_ran units.power rfl rfl (yieldOp_none none_),
    fun b u k => nextYield_best⟩
  · exact exec_ran units.power rfl rfl ((yieldOp_next units.free next).trans (if_pos parked))
  · exact exec_ran units.power rfl rfl ((yieldOp_next units.free next).trans (ite_of_false parked))

end Sys2Proof.Machine
end

section
/-! SUPPORT. Tiles, memory responses and coil grants (spec/10 R246, spec/11 R268 to R272). -/

namespace Sys2Proof.Machine

/-! ### Tiles and memory responses -/

theorem tileHeaderOp_granted {own : Nat} {h : Hank} {b : Body} {buf : CoilBuf} (free : frozen b = false) (none_ : b.thm.header = none)
    (ready : b.thm.tpHold = false) (grant : coilAsk b (coilReqOf b (tileOf h).ctx 10 (1 + (tileOf h).hanks)) = .grant buf) :
    tileHeaderOp own h b = { coilTake buf b with thm := { (coilTake buf b).thm with
      header := some { tileOf h with buf := some buf } } } := by
  unfold tileHeaderOp
  rw [ready, free, none_]
  dsimp only [Option.isSome_none]
  rw [if_neg Bool.false_ne_true, if_neg Bool.false_ne_true, if_neg Bool.false_ne_true, grant]

theorem tileHeaderOp_held {own : Nat} {h : Hank} {b : Body} (hold : b.thm.tpHold = true) : tileHeaderOp own h b = b := if_pos hold

theorem tileReceiveOp_held {own : Nat} {hs : List Hank} {b : Body} (hold : b.thm.tpHold = true) : tileReceiveOp own hs b = b := if_pos hold

theorem tileReceiveOp_complete {own : Nat} {hs : List Hank} {b : Body} {t : Tile} {buf : CoilBuf} (free : frozen b = false)
    (ready : b.thm.tpHold = false) (header : b.thm.header = some t) (buffer : t.buf = some buf) (whole : hs.length = t.hanks) :
    tileReceiveOp own hs b = shutdownEnd (driveResults own (matchTile own { t with payload := hs }
      { b with thm := { b.thm with header := none, tiles := b.thm.tiles ++ [{ t with payload := hs }] } })) := by
  unfold tileReceiveOp tileComplete
  rw [ready, free, header]
  dsimp only
  rw [if_neg Bool.false_ne_true, if_neg Bool.false_ne_true, if_neg (by simp [buffer, whole])]

theorem memResponseOp_free {own line id status : Nat} {data : BitVec 2048} {b : Body} (free : frozen b = false) :
    memResponseOp own line id status data b = driveAll own (takeMemResponse own line id status data b) :=
  ite_of_false free

theorem takeMemResponse_reserved {own line id : Nat} {data : BitVec 2048} {b : Body} : takeMemResponse own line id 3 data b = b := if_pos rfl

theorem takeMemResponse_unasked {own line id status : Nat} {data : BitVec 2048} {b : Body} (known : status ≠ 3)
    (none_ : b.xlt.reqs.find? (fun r => r.line == line && r.id == id) = none) : takeMemResponse own line id status data b
      = { b with xlt := { b.xlt with bridge := b.xlt.bridge ++ [{ line := line, status := status, data := some data }] } } := by
  unfold takeMemResponse
  rw [if_neg (by simpa using known), none_]

theorem takeMemResponse_good {own line id : Nat} {data : BitVec 2048} {b : Body} {r : PortReq}
    (asked : b.xlt.reqs.find? (fun r => r.line == line && r.id == id) = some r) : takeMemResponse own line id 0 data b
      = { b with xlt := { b.xlt with reqs := b.xlt.reqs.erase r, inval := b.xlt.inval.erase (line, id) } } := by
  unfold takeMemResponse
  rw [if_neg (by decide), asked]
  rfl

/-! ### Coil grants -/

theorem coilGrantOp_next {own : Nat} {b : Body} {r : CoilReq} {buf : CoilBuf} (free : frozen b = false)
    (next : nextGrant b = some (r, buf)) : coilGrantOp own b =
      let t := driveAll own (useGrant own r buf (chooseReq r b))
      chooseVictim { t with coil := { t.coil with chosen := none } } := by
  unfold coilGrantOp
  rw [ite_of_false free, next]

theorem coilGrantOp_none {own : Nat} {b : Body} (free : frozen b = false) (next : nextGrant b = none) : coilGrantOp own b =
      let t := driveAll own b
      chooseVictim { t with coil := { t.coil with chosen := none } } := by
  unfold coilGrantOp
  rw [ite_of_false free, next]

theorem mem_coilOrder {b : Body} {l : List CoilReq} {r : CoilReq} (h : r ∈ coilOrder b l) : r ∈ l := by
  unfold coilOrder at h
  dsimp only at h
  split at h
  · rcases List.mem_append.1 h with h | h
    · rcases List.mem_append.1 h with h | h
      · exact List.mem_of_mem_filter (List.mem_of_mem_take h)
      · exact List.mem_of_mem_filter h
    · exact List.mem_of_mem_filter (List.mem_of_mem_drop h)
  · rcases List.mem_append.1 h with h | h <;> exact List.mem_of_mem_filter h

theorem nextGrant_some {b : Body} {r : CoilReq} {buf : CoilBuf} (next : nextGrant b = some (r, buf)) :
    r ∈ b.coil.wait ∧ coilAsk b r = .grant buf := by
  obtain ⟨x, waits, found⟩ := List.exists_of_findSome?_eq_some next
  split at found
  case h_1 buf' grant =>
    cases found
    exact ⟨mem_coilOrder waits, grant⟩
  case h_2 => cases found

theorem freeIn_some {b : Body} {ways : List Nat} {p w i : Nat} (h : freeIn b ways p = some (w, i)) :
    bufTaken b w p i = false ∧ w ∈ ways := by
  have free := List.find?_some h
  have searched := List.mem_of_find?_eq_some h
  have placed : (w, i) ∈ ways.flatMap (fun w => (List.range (perWay b p)).map (fun i => (w, i))) := by
    unfold searchOrder at searched
    dsimp only at searched
    split at searched
    · exact searched
    · rcases List.mem_append.1 searched with searched | searched <;> exact List.mem_of_mem_filter searched
  obtain ⟨w', inWays, pair⟩ := List.mem_flatMap.1 placed
  obtain ⟨i', -, eq⟩ := List.mem_map.1 pair
  cases eq
  exact ⟨by simpa using free, inWays⟩

/-- What a search of the pools grants. -/
theorem coilSearch_grant {b : Body} {r : CoilReq} {limit : Nat} {pools : List Nat} {q : Bool} {buf : CoilBuf}
    (h : coilSearch b r limit pools q = .grant buf) : buf.pool ∈ pools ∧ bufTaken b buf.way buf.pool buf.idx = false
      ∧ buf.req = r.req ∧ buf.ctx = r.ctx ∧ quotaHeld b r.part r.req + poolSize buf.pool ≤ limit
      ∧ buf.way ∈ usableWays b r.ctx r.part := by
  induction pools generalizing q with
  | nil => cases h
  | cons p rest ih =>
    have later {q : Bool} (h : coilSearch b r limit rest q = .grant buf) := by
      obtain ⟨pool, found⟩ := ih h
      exact (⟨List.mem_cons_of_mem p pool, found⟩ : buf.pool ∈ p :: rest ∧ _)
    unfold coilSearch at h
    split at h
    case h_1 w i free =>
      split at h
      case isTrue quota =>
        cases h
        obtain ⟨taken, way⟩ := freeIn_some free
        exact ⟨List.mem_cons_self, taken, rfl, rfl, quota, way⟩
      case isFalse => exact later h
    case h_2 => exact later h

theorem coilAsk_grant {b : Body} {r : CoilReq} {buf : CoilBuf} (h : coilAsk b r = .grant buf) : coilFind b r = .grant buf := by
  unfold coilAsk at h
  split at h
  case h_1 buf' found =>
    split at h
    · cases h
    · cases h
      exact found
  case h_2 => exact h

theorem coilFind_grant {b : Body} {r : CoilReq} {buf : CoilBuf} (h : coilFind b r = .grant buf) :
    bufTaken b buf.way buf.pool buf.idx = false ∧ r.size ≤ poolSize buf.pool ∧ buf.req = r.req ∧ buf.ctx = r.ctx
      ∧ quotaHeld b r.part r.req + poolSize buf.pool ≤ limitOf b r ∧ buf.way ∈ usableWays b r.ctx r.part := by
  unfold coilFind at h
  split at h
  case h_1 => cases h
  case h_2 p ps fits =>
    split at h
    · cases h
    · obtain ⟨pool, taken, req, ctx, quota, way⟩ := coilSearch_grant h
      rw [← fits] at pool
      exact ⟨taken, by simpa using (List.mem_filter.1 pool).2, req, ctx, quota, way⟩

/-- Settles O52. -/
theorem tilesMemoryCoil : Obligations.TilesMemoryCoil := by
  intro s h hs line i st d units
  have response {st : BitVec 2} {t : Body} (taken : takeMemResponse s.addr.own line.toNat i.toNat st.toNat d s.b = t) :
      bodyOp (.memoryResponse line i st d) s.tal s.addr.own s.b = driveAll s.addr.own t :=
    (memResponseOp_free units.free).trans (congrArg _ taken)
  refine ⟨fun buf none_ ready grant => exec_ran units.power rfl rfl (tileHeaderOp_granted units.free none_ ready grant),
    fun t buf ready header buffer whole => exec_ran units.power rfl rfl (tileReceiveOp_complete units.free ready header buffer whole),
    fun hold => ⟨exec_ran units.power rfl rfl (tileHeaderOp_held hold), exec_ran units.power rfl rfl (tileReceiveOp_held hold)⟩,
    fun known none_ => ?_, fun reserved => ?_, fun r asked => ?_, fun quiet => ⟨fun r buf next => ?_, fun next => ?_⟩,
    fun b r buf => nextGrant_some, fun b r buf grant => coilFind_grant (coilAsk_grant grant)⟩
  · exact exec_ran units.power rfl rfl (response (takeMemResponse_unasked (fun h => known (BitVec.eq_of_toNat_eq h)) none_))
  · subst reserved
    exact exec_ran units.power rfl rfl (response takeMemResponse_reserved)
  · exact exec_ran units.power rfl rfl (response (takeMemResponse_good asked))
  · exact exec_ran units.power rfl rfl ((congrArg (coilGrantOp s.addr.own) (expire_none quiet)).trans (coilGrantOp_next units.free next))
  · exact exec_ran units.power rfl rfl ((congrArg (coilGrantOp s.addr.own) (expire_none quiet)).trans (coilGrantOp_none units.free next))

end Sys2Proof.Machine
end

section
/-! SUPPORT. Saves and restores of contexts (spec/12 R303 to R308, spec/09 R213). -/

namespace Sys2Proof.Machine

theorem tget_tmod_other {α : Type} [Inhabited α] (l : List α) {i k : Nat} (f : α → α) (h : k ≠ i) : tget (tmod l i f) k = tget l k := by
  unfold tmod tget
  rw [List.getD_eq_getElem?_getD, List.getElem?_set, if_neg h.symm, List.getD_eq_getElem?_getD]

theorem tget_tmod_same {α : Type} [Inhabited α] (l : List α) {i : Nat} (f : α → α) (h : i < l.length) : tget (tmod l i f) i = f (tget l i) := by
  unfold tmod
  rw [tget, List.getD_eq_getElem?_getD, List.getElem?_set, if_pos rfl, if_pos h]
  rfl

theorem ctx_modCtx_other (b : Body) {c d : Nat} (f : Ctx → Ctx) (h : d ≠ c) : (b.modCtx c f).ctx d = b.ctx d :=
  tget_tmod_other b.ctxs f h

/-- A context that waits for its save stands in the context table. -/
theorem ctx_known {b : Body} {c : Nat} (h : (b.ctx c).savePending = true ∨ (b.ctx c).evictPending = true) : c < b.ctxs.length := by
  by_contra out
  have none_ : b.ctx c = default := List.getD_eq_default _ _ (by omega)
  rw [none_] at h
  rcases h with h | h <;> exact absurd h (by decide)

/-! ### What taking an engine leaves -/

theorem switchIn_ctxs (oid : Nat) (b : Body) : (switchIn oid b).ctxs = b.ctxs := by
  unfold switchIn
  split <;> rfl

theorem giveUnit_ctxs (unit inst oid item : Nat) (b : Body) : (giveUnit unit inst oid item b).ctxs = b.ctxs := switchIn_ctxs oid b

theorem takeEngine_ctxs (oid work : Nat) (b : Body) : (takeEngine oid work b).2.ctxs = b.ctxs := by
  unfold takeEngine
  split
  · rfl
  · split
    · exact giveUnit_ctxs _ _ _ _ _
    · rfl

theorem pathEngine_ctxs (c on : Nat) (b : Body) : (pathEngine c on b).ctxs = b.ctxs := takeEngine_ctxs _ _ b

theorem releaseUnits_ctxs (c : Nat) (b : Body) : (releaseUnits c b).ctxs = b.ctxs := by
  unfold releaseUnits
  dsimp only
  split <;> rfl

/-! ### SAVE_START -/

theorem released_ctxs (c : Nat) (f : Ctx → Ctx) (b : Body) : (pathEngine c 2 ((releaseUnits c b).modCtx c f)).ctxs = tmod b.ctxs c f := by
  rw [pathEngine_ctxs, ← releaseUnits_ctxs c b]
  rfl

/-- A context that starts to be saved is in SAVING, and no other context changes. -/
theorem saveStartOp_ctxs {c : Nat} {b : Body} (free : frozen b = false)
    (waits : (b.ctx c).savePending = true ∨ (b.ctx c).evictPending = true) (runs : (b.ctx c).st = .run ∨ (b.ctx c).st = .faulted) :
    ∃ f : Ctx → Ctx, (saveStartOp c b).ctxs = tmod b.ctxs c f
      ∧ ∀ x, (f x).st = .saving ∧ (f x).savePending = false ∧ (f x).evictPending = false := by
  have asked : ((b.ctx c).savePending || (b.ctx c).evictPending) = true := by rcases waits with h | h <;> simp [h]
  have live : ((b.ctx c).st == .run || (b.ctx c).st == .faulted) = true := by rcases runs with h | h <;> rw [h] <;> rfl
  unfold saveStartOp
  dsimp only
  rw [if_neg (by rw [free, asked, live]; decide)]
  exact ⟨_, released_ctxs _ _ _, fun x => ⟨rfl, rfl, rfl⟩⟩

/-! ### SAVE_DONE, RESTORE_DONE and AUTO_RESTORE -/

theorem saveDoneOp_saving {own c : Nat} {b : Body} {w : SaveWork} (free : frozen b = false) (save : (b.ctx c).save = some w)
    (saving : (b.ctx c).st = .saving) : saveDoneOp own c b = restoreIfAsked c (savePathGo own c false (do
      writeSave c w.items.length
      Io.upd (finishSave own c w)) b) := by
  unfold saveDoneOp
  rw [save]
  exact if_neg (by rw [free, saving]; decide)

theorem restoreDoneOp_restoring {own c : Nat} {b : Body} (free : frozen b = false) (restoring : (b.ctx c).st = .restoring) :
    restoreDoneOp own c b = savePathGo own c true (do
      let n ← readSave c
      Io.upd (finishRestore own c n)) b := if_neg (by rw [free, restoring]; decide)

theorem autoRestoreOp_saved {c : Nat} {b : Body} (free : frozen b = false) (saved : (b.ctx c).st = .saved)
    (auto : (b.ctx c).auto = true) (quiet : b.coil.wait.any (fun r => r.cls && r.part == (b.ctx c).part.toNat) = false) :
    autoRestoreOp c b = pathEngine c 1 (b.modCtx c (fun x => { x with st := .restoring, save := none })) := by
  unfold autoRestoreOp
  dsimp only
  rw [if_neg (by rw [free, saved, auto, quiet]; decide)]
  rfl

/-- Settles O53. -/
theorem savesAndRestores : Obligations.SavesAndRestores := by
  intro s c units
  refine ⟨fun waits runs => ?_, fun w save saving => ?_, fun restoring => ?_, fun own b restore m busy => engineRun_refused _ busy,
    fun saved auto quiet => exec_ran units.power rfl rfl (autoRestoreOp_saved units.free saved auto quiet)⟩
  · obtain ⟨f, ctxs, saving⟩ := saveStartOp_ctxs units.free waits runs
    have self : (saveStartOp c.toNat s.b).ctx c.toNat = f (s.b.ctx c.toNat) := by
      unfold Body.ctx
      rw [ctxs, tget_tmod_same _ _ (ctx_known waits)]
    have others : ∀ d, d ≠ c.toNat → (saveStartOp c.toNat s.b).ctx d = s.b.ctx d := fun d other => by
      unfold Body.ctx
      rw [ctxs, tget_tmod_other _ _ other]
    obtain ⟨st, save, evict⟩ := saving (s.b.ctx c.toNat)
    exact ⟨_, exec_ran (c := .saveStart c) (f := fun _ b => saveStartOp c.toNat b) units.power rfl rfl rfl,
      (congrArg Ctx.st self).trans st, (congrArg Ctx.savePending self).trans save, (congrArg Ctx.evictPending self).trans evict,
      others, rfl, rfl, saveStartOp_mem c.toNat s.b⟩
  · exact exec_ran units.power rfl rfl (congrArg (driveAll s.addr.own) (saveDoneOp_saving units.free save saving))
  · exact exec_ran units.power rfl rfl (congrArg (driveAll s.addr.own) (restoreDoneOp_restoring units.free restoring))

end Sys2Proof.Machine
end

section
/-! SUPPORT. The ledger entry of a finished step and its reply (spec/07 R151). -/

namespace Sys2Proof.Machine

theorem replyNoted_ledger (o : Open) (status : Nat) (traced : Bool) (b : Body) (d : Nat) :
    ((replyNoted o status traced b).ctx d).ledger = (b.ctx d).ledger := by
  have latched : ((replyLatched o status b).ctx d).ledger = (b.ctx d).ledger := by
    unfold replyLatched
    split
    · refine modCtx_field b _ _ Ctx.ledger ?_ d
      exact fun _ => rfl
    · rfl
  unfold replyNoted
  split
  · rw [replyTraced_frame]
    exact latched
  · exact latched

theorem pushReply_plain {r : OutRec} (b : Body) (plain : r.ledger = none) : (pushReply r b).ctxs = b.ctxs := by
  unfold pushReply storeReply
  rw [plain]
  split <;> rfl

/-- A reply that names no ledger entry leaves every ledger as it is. -/
theorem sendReply_ledger {o : Open} {r : OutRec} (traced : Bool) (b : Body) (plain : r.ledger = none) (d : Nat) :
    ((sendReply o r traced b).ctx d).ledger = (b.ctx d).ledger := by
  rw [sendReply_eq]
  refine (count_ctx Cnt.cmdDone 1 o.cmd.ctxOpt _ Ctx.ledger (fun _ _ _ _ => rfl) d).trans ?_
  show (tget (pushReply _ _).ctxs d).ledger = _
  rw [pushReply_plain (r := { r with acc := true }) _ plain]
  exact replyNoted_ledger o r.status traced b d

/-- A context whose ledger holds a step that is not done. -/
def undone : Body := { ctxs := [{ ledger := [{}] }] }

/-- Refutes O54: the statement has DONE in the ledger entry of a step after any reply of its command, but a reply record that names no
ledger entry leaves the entry of `undone` with DONE 0. -/
theorem not_stepsEnd : ¬ Obligations.StepsEnd := by
  intro h
  obtain ⟨-, replied, -⟩ := h {} 0 rfl
  have kept : ((sendReply { work := .route {} } {} true undone).ctx 0).ledger = [{}] := sendReply_ledger true undone rfl 0
  have done := replied { work := .route {} } {} {} undone rfl {} (kept ▸ List.mem_singleton_self _) rfl
  exact Bool.noConfusion done

end Sys2Proof.Machine
end
